-- ==== Sys2Proof/Word.lean ====
section
/-! DEFINITION. Words, bytes and the plainest arithmetic on them (R2, R3, R4). -/

namespace Sys2Proof

/-- A 64-bit register value. -/
abbrev Word := BitVec 64

/-- A 32-bit lane, instruction word or FP32 bit pattern. -/
abbrev Word32 := BitVec 32

/-- A byte of memory. -/
abbrev Byte := BitVec 8

/-- A register number, 0 to 31 (R54). -/
abbrev Reg := BitVec 5

/-- A 512-bit line of memory: 64 bytes, byte `k` in bits `8*k+7 : 8*k` (R3). -/
abbrev Line := BitVec 512

end Sys2Proof
end

