-- ==== Sys2Proof/Machine/Float.lean ====
section
/-! DEFINITION. Floating point by exact values and one rounding (R23 to R28, R34 to R39, R44, R102, R103, R222): a finite
number is sign × mantissa × 2^exponent with unbounded integers, and `roundTo` is the only place that rounds. -/

namespace Sys2Proof.Machine

/-! ## Formats (R24) -/

/-- The binary formats of R24. -/
inductive Fmt where
  | fp64 | fp32 | fp16 | bf16 | e4m3 | e5m2
  deriving DecidableEq, Repr

/-- Exponent bits. -/
def Fmt.ebits : Fmt → Nat
  | .fp64 => 11 | .fp32 => 8 | .fp16 => 5 | .bf16 => 8 | .e4m3 => 4 | .e5m2 => 5

/-- Fraction bits. -/
def Fmt.fbits : Fmt → Nat
  | .fp64 => 52 | .fp32 => 23 | .fp16 => 10 | .bf16 => 7 | .e4m3 => 3 | .e5m2 => 2

/-- Exponent bias. -/
def Fmt.bias : Fmt → Nat
  | .fp64 => 1023 | .fp32 => 127 | .fp16 => 15 | .bf16 => 127 | .e4m3 => 7 | .e5m2 => 15

/-- Largest biased exponent field. -/
def Fmt.emax (f : Fmt) : Nat := 2 ^ f.ebits - 1

/-- The sign bit set. -/
def Fmt.signBit (f : Fmt) (s : Bool) : Nat := if s then 2 ^ (f.ebits + f.fbits) else 0

/-- The canonical NaN (R25). -/
def Fmt.canonical : Fmt → Nat
  | .fp64 => 0x7FF8000000000000 | .fp32 => 0x7FC00000 | .fp16 => 0x7E00 | .bf16 => 0x7FC0 | .e4m3 => 0x7F | .e5m2 => 0x7E

/-- The bits of an infinity; E4M3 has none and takes its largest finite. -/
def Fmt.infBits (f : Fmt) (s : Bool) : Nat :=
  f.signBit s + (match f with | .e4m3 => 0x7E | _ => f.emax * 2 ^ f.fbits)

/-- The bits of the largest finite. -/
def Fmt.maxBits (f : Fmt) (s : Bool) : Nat :=
  f.signBit s + (match f with | .e4m3 => 0x7E | _ => f.emax * 2 ^ f.fbits - 1)

/-- Conversions to E4M3 and E5M2 saturate (R34). -/
def Fmt.saturates : Fmt → Bool
  | .e4m3 | .e5m2 => true
  | _ => false

/-! ## Values -/

/-- What a bit pattern stands for: a NaN, an infinity, or sign × `m` × 2^`e`. -/
inductive Val where
  | nan (signalling : Bool)
  | inf (neg : Bool)
  | fin (neg : Bool) (m : Nat) (e : Int)
  deriving DecidableEq, Repr

/-- Flags in FPF bit order (R30). -/
def fIV : Nat := 1
/-- Division by zero. -/
def fDZ : Nat := 2
/-- Overflow. -/
def fOF : Nat := 4
/-- Underflow. -/
def fUF : Nat := 8
/-- Inexact. -/
def fNX : Nat := 16
/-- A long accumulator saturated. -/
def fACCOV : Nat := 32

/-- The value of a bit pattern (R24, R25). -/
def Fmt.val (f : Fmt) (x : Nat) : Val :=
  let s := x / 2 ^ (f.ebits + f.fbits) % 2 == 1
  let ex := x / 2 ^ f.fbits % 2 ^ f.ebits
  let fr := x % 2 ^ f.fbits
  let special := match f with
    | .e4m3 => ex == f.emax && fr == 7
    | _ => ex == f.emax
  if special then
    match f with
    | .e4m3 => .nan false
    | .e5m2 => if fr = 0 then .inf s else .nan false
    | _ => if fr = 0 then .inf s else .nan (fr < 2 ^ (f.fbits - 1))
  else if ex = 0 then .fin s fr (1 - (f.bias : Int) - f.fbits)
  else .fin s (fr + 2 ^ f.fbits) ((ex : Int) - f.bias - f.fbits)

/-- Whether a bit pattern is a subnormal. -/
def Fmt.subnormal (f : Fmt) (x : Nat) : Bool :=
  x / 2 ^ f.fbits % 2 ^ f.ebits == 0 && x % 2 ^ f.fbits != 0

/-- An operand as an instruction reads it: under FTZ a subnormal reads as zero of its sign (R27). -/
def Fmt.operand (f : Fmt) (ftz : Bool) (x : Nat) : Val :=
  if ftz && f.subnormal x then
    match f.val x with
    | .fin s _ e => .fin s 0 e
    | v => v
  else f.val x

/-- IV for a signalling NaN (R25). -/
def Val.sig : Val → Nat
  | .nan true => fIV
  | _ => 0

/-! ## Rounding (R26, R27) -/

/-- Rounding control sampled from FPC (R29): the mode and FTZ. -/
structure Ctrl where
  rm : Nat
  ftz : Bool
  deriving DecidableEq, Repr

/-- Round to nearest, no flushing: the mode that AFADD and GRED fix (R129, R296). -/
def Ctrl.nearest : Ctrl := ⟨0, false⟩

/-- Whether a magnitude `n` with a remainder is rounded up: `cmp` compares the remainder with half a unit. -/
def roundUp (rm : Nat) (s : Bool) (n : Nat) (cmp : Ordering) (inexact : Bool) : Bool :=
  match rm with
  | 0 => cmp == .gt || (cmp == .eq && n % 2 == 1)
  | 1 => false
  | 2 => inexact && !s
  | _ => inexact && s

/-- `m` × 2^`-shift` cut to an integer and rounded; `sticky` says that a little more than `m` is meant. Answers the
integer and whether anything was lost. -/
def roundShift (rm : Nat) (s : Bool) (m : Nat) (shift : Int) (sticky : Bool) : Nat × Bool :=
  match shift with
  | .ofNat k =>
    let n := m / 2 ^ k
    let r := m % 2 ^ k
    let inexact := r != 0 || sticky
    let cmp := if 2 * r < 2 ^ k then Ordering.lt
               else if 2 * r = 2 ^ k then (if k = 0 then .lt else if sticky then .gt else .eq)
               else .gt
    (if roundUp rm s n cmp inexact then n + 1 else n, inexact)
  | .negSucc k =>
    let n := m * 2 ^ (k + 1)
    (if roundUp rm s n .lt sticky then n + 1 else n, sticky)

/-- Rounds the exact value sign × `m` × 2^`e` (a little more where `sticky`; then `m` has spare bits) into a format:
bits and flags (R26, R27, R28, R34). -/
def roundTo (f : Fmt) (c : Ctrl) (s : Bool) (m : Nat) (e : Int) (sticky : Bool) : Nat × Nat :=
  if m = 0 then (f.signBit s, 0)
  else
    let top : Int := (Nat.log2 m : Int) + e
    let emin : Int := 1 - (f.bias : Int)
    let q : Int := max top emin - f.fbits
    let (n, inexact) := roundShift c.rm s m (q - e) sticky
    let (nu, _) := roundShift c.rm s m (top - f.fbits - e) sticky
    let tiny := decide (top < emin - 1) || (decide (top = emin - 1) && decide (nu < 2 ^ (f.fbits + 1)))
    let (n, q) := if n ≥ 2 ^ (f.fbits + 1) then (n / 2, q + 1) else (n, q)
    let ex : Nat := if n < 2 ^ f.fbits then 0 else (q + f.fbits + f.bias).toNat
    let fr := n % 2 ^ f.fbits
    let past := match f with
      | .e4m3 => decide (ex > 15) || (decide (ex = 15) && decide (fr = 7))
      | _ => decide (ex ≥ f.emax)
    if past then
      let bits :=
        if f.saturates then f.maxBits s
        else match c.rm with
          | 0 => f.infBits s
          | 1 => f.maxBits s
          | 2 => if s then f.maxBits s else f.infBits s
          | _ => if s then f.infBits s else f.maxBits s
      (bits, fOF + fNX)
    else if c.ftz && ex = 0 && fr != 0 then (f.signBit s, fUF + fNX)
    else
      (f.signBit s + ex * 2 ^ f.fbits + fr, (if inexact then fNX else 0) + (if tiny && inexact then fUF else 0))

/-- Rounds a value into a format; a NaN gives the canonical NaN, and E4M3 saturates an infinity (R34). -/
def Fmt.ofVal (f : Fmt) (c : Ctrl) : Val → Nat × Nat
  | .nan sg => (f.canonical, if sg then fIV else 0)
  | .inf s => (f.infBits s, if f = .e4m3 then fOF + fNX else 0)
  | .fin s m e => roundTo f c s m e false

/-! ## Exact sums and products -/

/-- The signed integer of a value at a common exponent. -/
def scaled (s : Bool) (m : Nat) (e e0 : Int) : Int :=
  let v : Int := (m * 2 ^ (e - e0).toNat : Nat)
  if s then -v else v

/-- The sign of an exact zero sum of operands of opposite sign (R26). -/
def zeroSign (c : Ctrl) : Bool := c.rm == 3

/-- The exact sum of two finite values, rounded once. -/
def sumFin (f : Fmt) (c : Ctrl) (s1 : Bool) (m1 : Nat) (e1 : Int) (s2 : Bool) (m2 : Nat) (e2 : Int) : Nat × Nat :=
  let e0 := min e1 e2
  let v := scaled s1 m1 e1 e0 + scaled s2 m2 e2 e0
  if v = 0 then
    let s := if m1 = 0 && m2 = 0 && s1 == s2 then s1 else zeroSign c
    (f.signBit s, 0)
  else roundTo f c (v < 0) v.natAbs e0 false

/-- Addition (R26, R28). -/
def addVal (f : Fmt) (c : Ctrl) (a b : Val) : Nat × Nat :=
  match a, b with
  | .nan _, _ | _, .nan _ => (f.canonical, a.sig ||| b.sig)
  | .inf s, .inf t => if s == t then (f.infBits s, 0) else (f.canonical, fIV)
  | .inf s, _ => (f.infBits s, 0)
  | _, .inf s => (f.infBits s, 0)
  | .fin s m e, .fin t n d => sumFin f c s m e t n d

/-- The value with its sign inverted. -/
def Val.neg : Val → Val
  | .nan s => .nan s
  | .inf s => .inf (!s)
  | .fin s m e => .fin (!s) m e

/-- The exact product; 0 × inf gives a NaN, and IV with it. -/
def mulVal (a b : Val) : Val × Nat :=
  match a, b with
  | .nan _, _ | _, .nan _ => (.nan false, a.sig ||| b.sig)
  | .inf s, .inf t => (.inf (s != t), 0)
  | .inf s, .fin t n _ | .fin t n _, .inf s => if n = 0 then (.nan false, fIV) else (.inf (s != t), 0)
  | .fin s m e, .fin t n d => (.fin (s != t) (m * n) (e + d), 0)

/-- Addition of bit patterns. -/
def fAdd (f : Fmt) (c : Ctrl) (x y : Nat) : Nat × Nat := addVal f c (f.operand c.ftz x) (f.operand c.ftz y)

/-- Subtraction. -/
def fSub (f : Fmt) (c : Ctrl) (x y : Nat) : Nat × Nat := addVal f c (f.operand c.ftz x) (f.operand c.ftz y).neg

/-- Multiplication. -/
def fMul (f : Fmt) (c : Ctrl) (x y : Nat) : Nat × Nat :=
  let (p, fl) := mulVal (f.operand c.ftz x) (f.operand c.ftz y)
  match p with
  | .nan _ => (f.canonical, fl)
  | .inf s => (f.infBits s, 0)
  | .fin s m e => roundTo f c s m e false

/-- Fused multiply-add x × y + z: one rounding; a 0 × inf product raises IV whatever the addend (R28). -/
def fFma (f : Fmt) (c : Ctrl) (x y z : Nat) : Nat × Nat :=
  let (p, fl) := mulVal (f.operand c.ftz x) (f.operand c.ftz y)
  let w := f.operand c.ftz z
  match p, w with
  | .nan _, _ => (f.canonical, fl ||| w.sig)
  | _, .nan _ => (f.canonical, w.sig)
  | .inf s, .inf t => if s == t then (f.infBits s, 0) else (f.canonical, fIV)
  | .inf s, _ => (f.infBits s, 0)
  | _, .inf s => (f.infBits s, 0)
  | .fin s m e, .fin t n d => sumFin f c s m e t n d

/-- The rounded quotient of two nonzero finite magnitudes. -/
def divFin (f : Fmt) (c : Ctrl) (s : Bool) (m : Nat) (e : Int) (n : Nat) (d : Int) : Nat × Nat :=
  let k := f.fbits + 4 + Nat.log2 n
  let num := m * 2 ^ k
  roundTo f c s (num / n) (e - d - k) (num % n != 0)

/-- Division (R28). -/
def fDiv (f : Fmt) (c : Ctrl) (x y : Nat) : Nat × Nat :=
  let a := f.operand c.ftz x
  let b := f.operand c.ftz y
  match a, b with
  | .nan _, _ | _, .nan _ => (f.canonical, a.sig ||| b.sig)
  | .inf _, .inf _ => (f.canonical, fIV)
  | .inf s, .fin t _ _ => (f.infBits (s != t), 0)
  | .fin s _ _, .inf t => (f.signBit (s != t), 0)
  | .fin s m e, .fin t n d =>
    if n = 0 then (if m = 0 then (f.canonical, fIV) else (f.infBits (s != t), fDZ))
    else if m = 0 then (f.signBit (s != t), 0)
    else divFin f c (s != t) m e n d

/-- The integer square root, bit by bit from the top. -/
def isqrt (n : Nat) : Nat :=
  (List.range (Nat.log2 n / 2 + 1)).foldr (fun i r => if (r + 2 ^ i) * (r + 2 ^ i) ≤ n then r + 2 ^ i else r) 0

/-- The rounded square root of a positive value. -/
def sqrtFin (f : Fmt) (c : Ctrl) (m : Nat) (e : Int) : Nat × Nat :=
  let k := 2 * (f.fbits + 4) + (if (e % 2) = 0 then 0 else 1)
  let n := m * 2 ^ k
  let r := isqrt n
  roundTo f c false r ((e - k) / 2) (r * r != n)

/-- Square root (R102). -/
def fSqrt (f : Fmt) (c : Ctrl) (x : Nat) : Nat × Nat :=
  match f.operand c.ftz x with
  | .nan sg => (f.canonical, if sg then fIV else 0)
  | .inf s => if s then (f.canonical, fIV) else (f.infBits false, 0)
  | .fin s m e => if m = 0 then (f.signBit s, 0) else if s then (f.canonical, fIV) else sqrtFin f c m e

/-! ## Comparisons, minimum and maximum, class, sign (R102, R103) -/

/-- Comparison of two values that are no NaN. -/
def cmpVal : Val → Val → Ordering
  | .inf s, .inf t => if s == t then .eq else if s then .lt else .gt
  | .inf s, _ => if s then .lt else .gt
  | _, .inf t => if t then .gt else .lt
  | .fin s m e, .fin t n d =>
    let e0 := min e d
    compare (scaled s m e e0) (scaled t n d e0)
  | _, _ => .eq

/-- Whether a value is a NaN. -/
def Val.isNan : Val → Bool
  | .nan _ => true
  | _ => false

/-- Sign of a value. -/
def Val.signed : Val → Bool
  | .nan _ => false
  | .inf s => s
  | .fin s _ _ => s

/-- FEQ: a quiet NaN gives 0 with no flag. -/
def fEq (f : Fmt) (c : Ctrl) (x y : Nat) : Bool × Nat :=
  let a := f.operand c.ftz x
  let b := f.operand c.ftz y
  if a.isNan || b.isNan then (false, a.sig ||| b.sig) else (cmpVal a b == .eq, 0)

/-- FLT: any NaN gives 0 and raises IV. -/
def fLt (f : Fmt) (c : Ctrl) (x y : Nat) : Bool × Nat :=
  let a := f.operand c.ftz x
  let b := f.operand c.ftz y
  if a.isNan || b.isNan then (false, fIV) else (cmpVal a b == .lt, 0)

/-- FLE: any NaN gives 0 and raises IV. -/
def fLe (f : Fmt) (c : Ctrl) (x y : Nat) : Bool × Nat :=
  let a := f.operand c.ftz x
  let b := f.operand c.ftz y
  if a.isNan || b.isNan then (false, fIV) else (cmpVal a b != .gt, 0)

/-- The bits of an operand after the flush of R27. -/
def Fmt.flushed (f : Fmt) (ftz : Bool) (x : Nat) : Nat :=
  if ftz && f.subnormal x then f.signBit (f.val x).signed else x % 2 ^ (1 + f.ebits + f.fbits)

/-- FMIN and FMAX (R103): −0 below +0; one quiet NaN gives the other operand; otherwise a NaN gives the canonical NaN. -/
def fMinMax (f : Fmt) (c : Ctrl) (greater : Bool) (x y : Nat) : Nat × Nat :=
  let a := f.operand c.ftz x
  let b := f.operand c.ftz y
  let x' := f.flushed c.ftz x
  let y' := f.flushed c.ftz y
  if (a.sig ||| b.sig) != 0 then (f.canonical, fIV)
  else if a.isNan && b.isNan then (f.canonical, 0)
  else if a.isNan then (y', 0)
  else if b.isNan then (x', 0)
  else
    let less := match cmpVal a b with
      | .lt => true
      | .gt => false
      | .eq => a.signed && !b.signed
    (if less != greater then x' else y', 0)

/-- FNEG and FABS (R102): a NaN gives the canonical NaN. -/
def fSign (f : Fmt) (c : Ctrl) (clear : Bool) (x : Nat) : Nat × Nat :=
  match f.operand c.ftz x with
  | .nan sg => (f.canonical, if sg then fIV else 0)
  | v =>
    let mag := f.flushed c.ftz x % 2 ^ (f.ebits + f.fbits)
    (f.signBit (if clear then false else !v.signed) + mag, 0)

/-- The class mask of R103; FCLASS never flushes. -/
def fClass (f : Fmt) (x : Nat) : Nat :=
  match f.val x with
  | .nan sg => if sg then 2 ^ 8 else 2 ^ 9
  | .inf s => if s then 1 else 2 ^ 7
  | .fin s m _ =>
    if m = 0 then (if s then 2 ^ 3 else 2 ^ 4)
    else if f.subnormal x then (if s then 2 ^ 2 else 2 ^ 5)
    else (if s then 2 ^ 1 else 2 ^ 6)

/-! ## Conversions (R34, R35) -/

/-- A floating-point value to a signed `w`-bit integer in a rounding mode: bits and flags (R35). -/
def toInt (w : Nat) (rm : Nat) : Val → Nat × Nat
  | .nan _ => (0, fIV)
  | .inf s => (if s then 2 ^ (w - 1) else 2 ^ (w - 1) - 1, fIV)
  | .fin s m e =>
    let (n, inexact) := roundShift rm s m (-e) false
    if s then
      if n > 2 ^ (w - 1) then (2 ^ (w - 1), fIV)
      else ((2 ^ w - n) % 2 ^ w, if inexact then fNX else 0)
    else if n ≥ 2 ^ (w - 1) then (2 ^ (w - 1) - 1, fIV)
    else (n, if inexact then fNX else 0)

/-- A signed integer to floating point (R102). -/
def ofInt (f : Fmt) (c : Ctrl) (v : Int) : Nat × Nat := roundTo f c (v < 0) v.natAbs 0 false

/-- A narrowing or widening between formats with one rounding (R34). -/
def convert (src dst : Fmt) (c : Ctrl) (x : Nat) : Nat × Nat := dst.ofVal c (src.operand c.ftz x)

/-- An exact widening to FP32, where FTZ does not apply (R27, R36). -/
def widen (src : Fmt) (x : Nat) : Nat × Nat :=
  match src.val x with
  | .inf s => (Fmt.fp32.infBits s, 0)
  | v => Fmt.fp32.ofVal .nearest v

/-! ## Special functions (R44, R222) -/

/-- The coefficients of R44. -/
def exp2Coeff : List Nat :=
  [0x80000000, 0x58B90BFC, 0x1EBFBE00, 0x071AC236, 0x013B2AB7, 0x002BB100, 0x00050C24, 0x00007FF3, 0x00000B16, 0x000000DB]

/-- The reference procedure of R44 on a fraction F: the value of `acc` after k = 0. -/
def exp2Acc (fr : Nat) : Nat :=
  match exp2Coeff.reverse with
  | [] => 0
  | c9 :: cs => cs.foldl (fun acc ck => acc * fr / 2 ^ 32 + ck) c9

/-- VEXP2 on an FP32 pattern (R44). NX is raised in every case of the procedure; UF comes from the rounding of acc alone, so a
subnormal that FP32 holds exactly raises NX without UF, which the spec leaves open (log entry 91). -/
def fExp2 (c : Ctrl) (x : Nat) : Nat × Nat :=
  match Fmt.fp32.operand c.ftz x with
  | .nan sg => (Fmt.fp32.canonical, if sg then fIV else 0)
  | .inf s => (if s then 0 else Fmt.fp32.infBits false, 0)
  | .fin s m e =>
    let v32 := scaled s m (e + 32) (min (e + 32) 0)
    -- x × 2^32 as an integer, rounded down; exact when e + 32 is not negative
    let fixed : Int := if 0 ≤ e + 32 then scaled s m (e + 32) 0 else v32 / (2 ^ (-(e + 32)).toNat : Nat)
    let whole := decide (m = 0) || decide (0 ≤ e) || (m % 2 ^ (-e).toNat == 0)
    let n : Int := fixed / (2 ^ 32 : Nat)
    if decide (n ≥ 128) then (Fmt.fp32.infBits false, fOF + fNX)
    else if decide (n < -150) || (decide (n = -150) && whole) then (0, fUF + fNX)
    else if whole then
      if c.ftz && decide (n < -126) then (0, fUF + fNX) else roundTo .fp32 ⟨0, false⟩ false 1 n false
    else
      let fr := (fixed - n * (2 ^ 32 : Nat)).toNat
      let (y, fl) := roundTo .fp32 c false (exp2Acc fr) (n - 31) false
      if fl &&& fOF != 0 then (Fmt.fp32.infBits false, fOF + fNX) else (y, fl ||| fNX)

/-- Fraction bits of log2 y for y = `y` / 2^`p` in [1, 2), by repeated squaring: `k` bits, each a step. -/
def log2Bits (p : Nat) : Nat → Nat → Nat → Nat
  | 0, _, acc => acc
  | k + 1, y, acc =>
    let y2 := y * y / 2 ^ p
    if y2 ≥ 2 ^ (p + 1) then log2Bits p k (y2 / 2) (2 * acc + 1) else log2Bits p k y2 (2 * acc)

/-- VLOG2 (R222). The fraction is computed to 120 bits, far past what a rounding of any FP32 logarithm needs. -/
def fLog2 (c : Ctrl) (x : Nat) : Nat × Nat :=
  match Fmt.fp32.operand c.ftz x with
  | .nan sg => (Fmt.fp32.canonical, if sg then fIV else 0)
  | .inf s => if s then (Fmt.fp32.canonical, fIV) else (Fmt.fp32.infBits false, 0)
  | .fin s m e =>
    if m = 0 then (Fmt.fp32.infBits true, fDZ)
    else if s then (Fmt.fp32.canonical, fIV)
    else
      let l := Nat.log2 m
      let k : Int := (l : Int) + e
      if m = 2 ^ l then ofInt .fp32 c k
      else
        let y := m * 2 ^ (160 - l)
        let fr := log2Bits 160 120 y 0
        let v : Int := k * (2 ^ 120 : Nat) + fr
        -- the exact logarithm lies between v and v + 1 in units of 2^-120
        if v < 0 then roundTo .fp32 c true (v.natAbs - 1) (-120) true
        else roundTo .fp32 c false v.natAbs (-120) true

/-- VRCP (R222). -/
def fRcp (c : Ctrl) (x : Nat) : Nat × Nat := fDiv .fp32 c 0x3F800000 x

/-- VRSQRT (R222). -/
def fRsqrt (c : Ctrl) (x : Nat) : Nat × Nat :=
  match Fmt.fp32.operand c.ftz x with
  | .nan sg => (Fmt.fp32.canonical, if sg then fIV else 0)
  | .inf s => if s then (Fmt.fp32.canonical, fIV) else (0, 0)
  | .fin s m e =>
    if m = 0 then (Fmt.fp32.infBits s, fDZ)
    else if s then (Fmt.fp32.canonical, fIV)
    else
      let m' := if e % 2 = 0 then m else 2 * m
      let e' := if e % 2 = 0 then e else e - 1
      let t := 28 + Nat.log2 m'
      let r := isqrt (2 ^ (2 * t) / m')
      roundTo .fp32 c false r (-(t : Int) - e' / 2) (r * r * m' != 2 ^ (2 * t))

/-- FP32 addition in the fixed mode of AFADD (R129). -/
def afadd (x y : Nat) : Nat := (fAdd .fp32 .nearest x y).1

/-! ## Q4N and integers in memory (R38, R39) -/

/-- The value of a UE5M3 scale as mantissa × 2^exponent (R38). -/
def ue5m3 (x : Nat) : Nat × Int :=
  let e := x / 8 % 32
  let m := x % 8
  if e = 0 then (m, -17) else (8 + m, (e : Int) - 18)

/-- q(c) of a 4-bit code (R39). -/
def q4code (c : Nat) : Int :=
  [-127, -95, -73, -56, -42, -29, -15, 0, 12, 24, 37, 51, 66, 84, 104, 127].getD c 0

/-- A Q4N element: q(c)/128 × s × S as an exact value (R39). -/
def q4value (sup scale code : Nat) : Val × Nat :=
  let (sm, se) := ue5m3 scale
  let q := q4code code
  match Fmt.fp32.val sup with
  | .nan sg => (.nan sg, if sg then fIV else 0)
  | .inf s => if q = 0 || sm = 0 then (.nan false, fIV) else (.inf (s != decide (q < 0)), 0)
  | .fin s m e => (.fin (s != decide (q < 0)) (q.natAbs * sm * m) (e + se - 7), 0)

end Sys2Proof.Machine
end

