-- ==== Sys2Proof/Config.lean ====
section
/-! DEFINITION. What one part fixes for good, and the free values: constants without a body, of which nothing can be
proved (log entries 6, 18 and 19). -/

namespace Sys2Proof.Config

/-- Bytes of near memory behind each compute die (R119). -/
def nearBytes : Nat := 48 * 2 ^ 30

/-- The slice hash of physical address bits 38:6 (R119): a fixed hash the spec does not give. -/
opaque sliceOf : Nat → BitVec 7

/-- The directory set of a line in its slice (R145): the spec does not give the index. -/
opaque dirSet : Nat → BitVec 14

/-- The slice whose L3 TLB and walkers serve a translation (R363): a fixed hash of VA bits 51:25 and CTXID that the spec does
not give. -/
opaque tlbSlice : Nat → Nat → BitVec 7

/-- A value the spec leaves undefined, fresh at every use: the argument is the counter `State.free`. -/
opaque freeWord : Nat → BitVec 64

/-- A 512-bit value the spec leaves undefined. -/
opaque freeLine : Nat → BitVec 512

/-- SHA-384 of a byte string (R406, R411). -/
opaque sha384 : List Byte → List Byte

/-- The boot ROM (R407, R411). -/
opaque bootRom : List Byte

/-- Whether an ECDSA P-384 signature of a message verifies under the key that the fused hash names (R406): hash, message,
signature. -/
opaque ecdsaOk : List Byte → List Byte → List Byte → Bool

/-- Whether an LMS signature of a message verifies under the key that the fused hash names (R406): hash, message,
signature. -/
opaque lmsOk : List Byte → List Byte → List Byte → Bool

/-- An ECDSA P-384 signature made with the device identity key (R411). -/
opaque ecdsaSign : List Byte → List Byte

/-- The certificate that carries the device identity key, without its signatures, and the root certificate (R411). -/
opaque deviceCert : List Byte
opaque rootCert : List Byte

/-- The issuer's signatures of a certificate: ECDSA P-384, and LMS (R411). -/
opaque issuerEcdsa : List Byte → List Byte
opaque issuerLms : List Byte → List Byte

/-- What an SPDM responder says of itself that the spec does not give (R411): CTExponent, and its largest transfer and
message. -/
opaque spdmTime : BitVec 8
opaque spdmTransfer : BitVec 32
opaque spdmMessage : BitVec 32

/-- The hash that chooses the two bits of the read signature which an address sets (R207): fixed, and not given by the
spec. -/
opaque signatureHash : Nat → BitVec 11 × BitVec 11

/-- The lines that a save writes into a core's save block (R352, R354): the block layout belongs to the implementation. By the
number of the save: offset in lines, and contents. -/
opaque saveImage : Nat → List (BitVec 14 × BitVec 512)

end Sys2Proof.Config
end

