-- ==== Sys2Proof/Syntax.lean ====
section
/-! DEFINITION. The instructions: one constructor for every row of spec/opcode_table.json. A row with encoding bits is an
instruction word (R53, R64), a dictionary parcel (R60) or a literal-class word (R63); a row without bits is a step that
the text gives to an agent of the package other than a thread's issue, and its operands name that agent. -/

namespace Sys2Proof

/-- Coherence policy of an access (R59). -/
inductive Policy where
  | self | inv | own | thru
  deriving DecidableEq, Repr

/-- Width code of a load (R59): B, H, W, D, and the sign-extending BS, HS, WS. -/
inductive LoadWidth where
  | u8 | u16 | u32 | u64 | s8 | s16 | s32
  deriving DecidableEq, Repr

/-- Width code of a store (R59): B, H, W, D. -/
inductive StoreWidth where
  | u8 | u16 | u32 | u64
  deriving DecidableEq, Repr

/-- Condition of a branch (R59). -/
inductive Cond where
  | eq | ne | lt | ge | ltn | gen
  deriving DecidableEq, Repr

/-- Ordering of an atomic (R59). -/
inductive AtomicOrder where
  | rlx | acq | rel | ar
  deriving DecidableEq, Repr

/-- Scope of a fence (R130, R131). -/
inductive Scope where
  | core | cluster | die | package | domain
  deriving DecidableEq, Repr

/-- Kind of a FENCE (R130): 0 full, 1 acquire, 2 release. -/
inductive FenceKind where
  | full | acquire | release
  deriving DecidableEq, Repr

/-- Readout mode of MREAD (R240, R254). -/
inductive Readout where
  | f32 | bf | e4 | i32
  deriving DecidableEq, Repr

/-- A function whose bring-up raises one ready bit (R409): a core, a memory unit, a port's link or an engine unit. -/
inductive ReadyFn where
  | core (bit : Nat)
  | mem (bit : Nat)
  | link (bit : Nat)
  | eng (bit : Nat)
  deriving DecidableEq, Repr

/-- Operation of a load-store message (R392, OP 0 to 3). -/
inductive LinkOp where
  | load | store | atomic | put
  deriving DecidableEq, Repr

/-- A load-store request that arrives from another device of the domain: the header fields of R392 and the data. -/
structure LinkReq where
  op : LinkOp
  atop : BitVec 8
  src : BitVec 8
  dst : BitVec 8
  ctxid : BitVec 16
  who : BitVec 14
  va : BitVec 52
  len : Nat
  data : List Byte
  deriving DecidableEq, Repr

/-- An SPDM request that arrives at the hub die (R411). -/
structure SpdmReq where
  code : BitVec 8
  body : List Byte
  deriving DecidableEq, Repr

/-- The instructions and agent steps of the machine, one constructor for each row of the opcode table. -/
inductive Instr where
  /-- Adds two registers modulo 2^64. (R96) -/
  | add (p : Bool) (d a b : Reg) (e f : Bool)
  /-- Subtracts two registers modulo 2^64. (R96) -/
  | sub (p : Bool) (d a b : Reg) (e f : Bool)
  /-- Writes the low 64 bits of a product. (R96) -/
  | mul (d a b : Reg) (e f : Bool)
  /-- Writes the high 64 bits of the signed product. (R96) -/
  | mulh (d a b : Reg) (e f : Bool)
  /-- Writes the high 64 bits of the unsigned product. (R96) -/
  | mulhn (d a b : Reg) (e f : Bool)
  /-- Signed division per R22, a long-latency producer. (R96) -/
  | div (d a b : Reg) (e f : Bool)
  /-- Unsigned division per R22. (R96) -/
  | divn (d a b : Reg) (e f : Bool)
  /-- Signed remainder per R22. (R96) -/
  | rem (d a b : Reg) (e f : Bool)
  /-- Unsigned remainder per R22. (R96) -/
  | remn (d a b : Reg) (e f : Bool)
  /-- Bitwise AND of two registers. (R96) -/
  | and (p : Bool) (d a b : Reg) (e f : Bool)
  /-- Bitwise OR of two registers. (R96) -/
  | or (p : Bool) (d a b : Reg) (e f : Bool)
  /-- Bitwise XOR of two registers. (R96) -/
  | xor (p : Bool) (d a b : Reg) (e f : Bool)
  /-- AND of g[a] with the complement of g[b]. (R96) -/
  | andn (p : Bool) (d a b : Reg) (e f : Bool)
  /-- Logical shift left by g[b][5:0]. (R96) -/
  | sll (p : Bool) (d a b : Reg) (e f : Bool)
  /-- Logical shift right by g[b][5:0]. (R96) -/
  | srl (p : Bool) (d a b : Reg) (e f : Bool)
  /-- Arithmetic shift right by g[b][5:0]. (R96) -/
  | sra (p : Bool) (d a b : Reg) (e f : Bool)
  /-- Rotates left by g[b][5:0]. (R96) -/
  | rol (d a b : Reg) (e f : Bool)
  /-- Signed minimum. (R96) -/
  | min (d a b : Reg) (e f : Bool)
  /-- Signed maximum. (R96) -/
  | max (d a b : Reg) (e f : Bool)
  /-- Unsigned minimum. (R96) -/
  | minn (d a b : Reg) (e f : Bool)
  /-- Unsigned maximum. (R96) -/
  | maxn (d a b : Reg) (e f : Bool)
  /-- Sets 1 if g[a] < g[b] signed. (R96) -/
  | slt (d a b : Reg) (e f : Bool)
  /-- Sets 1 if g[a] < g[b] unsigned. (R96) -/
  | sltn (d a b : Reg) (e f : Bool)
  /-- Sets 1 if the registers are equal. (R96) -/
  | seq (d a b : Reg) (e f : Bool)
  /-- Counts leading zero bits. (R96) -/
  | clz (d a : Reg) (e : Bool)
  /-- Counts trailing zero bits. (R96) -/
  | ctz (d a : Reg) (e : Bool)
  /-- Counts one bits. (R96) -/
  | popc (d a : Reg) (e : Bool)
  /-- Adds to the 52 address bits keeping the fat bits. (R96) -/
  | padd (p : Bool) (d a b : Reg) (e f : Bool)
  /-- Signed 52-bit difference of two addresses. (R96) -/
  | pdiff (d a b : Reg) (e f : Bool)
  /-- Sets the fat bits of an address from g[b][11:0]. (R96) -/
  | fatset (p : Bool) (d a b : Reg) (e f : Bool)
  /-- Reads the fat bits of an address. (R96) -/
  | fatget (p : Bool) (d a : Reg) (e : Bool)
  /-- 32-bit add, sign-extended. (R97) -/
  | addw (d a b : Reg) (e f : Bool)
  /-- 32-bit subtract, sign-extended. (R97) -/
  | subw (d a b : Reg) (e f : Bool)
  /-- 32-bit multiply, sign-extended. (R97) -/
  | mulw (d a b : Reg) (e f : Bool)
  /-- 32-bit signed division. (R97) -/
  | divw (d a b : Reg) (e f : Bool)
  /-- 32-bit unsigned division. (R97) -/
  | divnw (d a b : Reg) (e f : Bool)
  /-- 32-bit signed remainder. (R97) -/
  | remw (d a b : Reg) (e f : Bool)
  /-- 32-bit unsigned remainder. (R97) -/
  | remnw (d a b : Reg) (e f : Bool)
  /-- 32-bit shift left. (R97) -/
  | sllw (d a b : Reg) (e f : Bool)
  /-- 32-bit logical shift right. (R97) -/
  | srlw (d a b : Reg) (e f : Bool)
  /-- 32-bit arithmetic shift right. (R97) -/
  | sraw (d a b : Reg) (e f : Bool)
  /-- Adds a sign-extended immediate. (R98) -/
  | addi (p : Bool) (d a : Reg) (e : Bool) (i : BitVec 14)
  /-- ANDs a zero-extended immediate. (R98) -/
  | andi (p : Bool) (d a : Reg) (e : Bool) (i : BitVec 14)
  /-- ORs a zero-extended immediate. (R98) -/
  | ori (p : Bool) (d a : Reg) (e : Bool) (i : BitVec 14)
  /-- XORs a zero-extended immediate. (R98) -/
  | xori (p : Bool) (d a : Reg) (e : Bool) (i : BitVec 14)
  /-- Shifts left by an immediate amount. (R98) -/
  | slli (p : Bool) (d a : Reg) (e : Bool) (n : BitVec 6)
  /-- Logical shift right by an immediate amount. (R98) -/
  | srli (p : Bool) (d a : Reg) (e : Bool) (n : BitVec 6)
  /-- Arithmetic shift right by an immediate amount. (R98) -/
  | srai (p : Bool) (d a : Reg) (e : Bool) (n : BitVec 6)
  /-- Rotates left by an immediate amount. (R98) -/
  | roli (p : Bool) (d a : Reg) (e : Bool) (n : BitVec 6)
  /-- Signed compare with an immediate. (R98) -/
  | slti (d a : Reg) (e : Bool) (i : BitVec 14)
  /-- Unsigned compare with an immediate. (R98) -/
  | sltni (d a : Reg) (e : Bool) (i : BitVec 14)
  /-- Adds an immediate to the address bits keeping the fat bits. (R98) -/
  | paddi (p : Bool) (d a : Reg) (e : Bool) (i : BitVec 14)
  /-- Loads a sign-extended 21-bit immediate. (R99) -/
  | movi (d : Reg) (i : BitVec 21)
  /-- Forms a PC-relative address. (R99) -/
  | adr (d : Reg) (i : BitVec 21)
  /-- Loads a sign-extended 32-bit literal. (R100) -/
  | movl (d : Reg) (lit : BitVec 32)
  /-- Loads a zero-extended 32-bit literal. (R100) -/
  | movlz (d : Reg) (lit : BitVec 32)
  /-- Places a literal in the high 32 bits over g[a][31:0]. (R100) -/
  | movlh (d a : Reg) (e : Bool) (lit : BitVec 32)
  /-- Adds a sign-extended literal. (R100) -/
  | addl (d a : Reg) (e : Bool) (lit : BitVec 32)
  /-- FP32 fused multiply-add with a literal. (R100) -/
  | fmal (d a : Reg) (e : Bool) (lit : BitVec 32)
  /-- FP32 add of a literal. (R100) -/
  | faddl (d a : Reg) (e : Bool) (lit : BitVec 32)
  /-- FP32 multiply by a literal. (R100) -/
  | fmull (d a : Reg) (e : Bool) (lit : BitVec 32)
  /-- Loads an FP32 float immediate. (R104) -/
  | fmovi (d : Reg) (imm : BitVec 20)
  /-- Adds an FP32 float immediate to g[d]. (R104) -/
  | faddi (d : Reg) (imm : BitVec 20)
  /-- Multiplies g[d] by an FP32 float immediate. (R104) -/
  | fmuli (d : Reg) (imm : BitVec 20)
  /-- Floating-point add, FP32 or FP64. (R102) -/
  | fadd (d a b : Reg) (e f s : Bool)
  /-- Floating-point subtract. (R102) -/
  | fsub (d a b : Reg) (e f s : Bool)
  /-- Floating-point multiply. (R102) -/
  | fmul (d a b : Reg) (e f s : Bool)
  /-- Floating-point divide. (R102) -/
  | fdiv (d a b : Reg) (e f s : Bool)
  /-- Floating-point square root. (R102) -/
  | fsqrt (d a : Reg) (e s : Bool)
  /-- Fused multiply-add into g[d]. (R102) -/
  | fma (d a b : Reg) (e f s : Bool)
  /-- Floating-point minimum. (R103) -/
  | fmin (d a b : Reg) (e f s : Bool)
  /-- Floating-point maximum. (R103) -/
  | fmax (d a b : Reg) (e f s : Bool)
  /-- Inverts the sign. (R102) -/
  | fneg (d a : Reg) (e s : Bool)
  /-- Clears the sign. (R102) -/
  | fabs (d a : Reg) (e s : Bool)
  /-- Floating-point equality compare. (R102) -/
  | feq (d a b : Reg) (e f s : Bool)
  /-- Floating-point less-than compare. (R102) -/
  | flt (d a b : Reg) (e f s : Bool)
  /-- Floating-point less-or-equal compare. (R102) -/
  | fle (d a b : Reg) (e f s : Bool)
  /-- Writes the class mask of a value. (R103) -/
  | fclass (d a : Reg) (e s : Bool)
  /-- Converts floating point to a signed integer in the FPC mode. (R102) -/
  | fcvti (d a : Reg) (e s : Bool)
  /-- Converts a signed integer to floating point. (R102) -/
  | fcvtf (d a : Reg) (e s : Bool)
  /-- Converts between FP64 and FP32. (R102) -/
  | fcvtp (d a : Reg) (e s : Bool)
  /-- Converts to an integer rounding toward zero. (R102) -/
  | fcvtit (d a : Reg) (e s : Bool)
  /-- FP32 fused multiply-add with a constant-bank word. (R105) -/
  | fmak (d a : Reg) (k : BitVec 8)
  /-- FP32 add of a constant-bank word. (R105) -/
  | faddk (d a : Reg) (k : BitVec 8)
  /-- FP32 multiply by a constant-bank word. (R105) -/
  | fmulk (d a : Reg) (k : BitVec 8)
  /-- Loads a constant-bank word. (R105) -/
  | movk (d : Reg) (k : BitVec 8)
  /-- Conditional PC-relative branch comparing two registers. (R106) -/
  | br (a b : Reg) (c : Cond) (o : BitVec 13)
  /-- PC-relative jump. (R107) -/
  | j (i : BitVec 21)
  /-- PC-relative call pushing the return stack. (R107) -/
  | jal (d : Reg) (i : BitVec 21)
  /-- Collecting call that opens a new effect list. (R184) -/
  | callc (d : Reg) (i : BitVec 21)
  /-- Jumps to a register target. (R107) -/
  | jr (a : Reg) (e : Bool)
  /-- Calls a register target pushing the return stack. (R107) -/
  | jalr (d a : Reg) (e : Bool)
  /-- Pops the return stack, closing a collecting list or ending the activation when empty. (R108) -/
  | ret
  /-- Parks until the cluster's cores reach the same PC or 256 cycles pass. (R85) -/
  | align
  /-- Ends the activation with a release and frees its slot and lanes. (R110) -/
  | endact
  /-- Moves the thread to the back of its round robin. (R109) -/
  | yield
  /-- Releases at package scope and counts toward starting early dependents. (R321) -/
  | trigger
  /-- Device kernel retries, skips, redirects or aborts a trapped or FPX-parked thread. (R94) -/
  | resume (d a b : Reg) (e f : Bool)
  /-- Repeats the following instruction with register strides. (R88) -/
  | rep (n : BitVec 8) (d a b : BitVec 3)
  /-- Loads from memory under a coherence policy. (R122) -/
  | ld (p : Bool) (d a : Reg) (l : Policy) (w : LoadWidth) (e : Bool) (o : BitVec 9)
  /-- Stores to memory under a coherence policy. (R122) -/
  | st (p : Bool) (d a : Reg) (l : Policy) (w : StoreWidth) (e : Bool) (o : BitVec 9)
  /-- Indexed load. (R125) -/
  | ldx (p : Bool) (d a b : Reg) (e f : Bool) (l : Policy) (w : LoadWidth)
  /-- Indexed store. (R125) -/
  | stx (p : Bool) (d a b : Reg) (e f : Bool) (l : Policy) (w : StoreWidth)
  /-- Load followed by an acquire. (R126) -/
  | ldacq (p : Bool) (d a : Reg) (e : Bool) (l : Policy) (w : LoadWidth)
  /-- Release followed by a store. (R126) -/
  | strel (p : Bool) (a b : Reg) (e f : Bool) (l : Policy) (w : StoreWidth)
  /-- Atomic add at home. (R128) -/
  | aadd (d a b : Reg) (e f s : Bool) (o : AtomicOrder)
  /-- Atomic AND at home. (R128) -/
  | aand (d a b : Reg) (e f s : Bool) (o : AtomicOrder)
  /-- Atomic OR at home. (R128) -/
  | aor (d a b : Reg) (e f s : Bool) (o : AtomicOrder)
  /-- Atomic XOR at home. (R128) -/
  | axor (d a b : Reg) (e f s : Bool) (o : AtomicOrder)
  /-- Atomic signed minimum. (R128) -/
  | amin (d a b : Reg) (e f s : Bool) (o : AtomicOrder)
  /-- Atomic signed maximum. (R128) -/
  | amax (d a b : Reg) (e f s : Bool) (o : AtomicOrder)
  /-- Atomic unsigned minimum. (R128) -/
  | aminn (d a b : Reg) (e f s : Bool) (o : AtomicOrder)
  /-- Atomic unsigned maximum. (R128) -/
  | amaxn (d a b : Reg) (e f s : Bool) (o : AtomicOrder)
  /-- Atomic swap. (R128) -/
  | aswap (d a b : Reg) (e f s : Bool) (o : AtomicOrder)
  /-- Atomic compare-and-swap using a register pair. (R128) -/
  | acas (d a b : Reg) (e f s : Bool) (o : AtomicOrder)
  /-- Atomic FP32 add at home in RNE. (R129) -/
  | afadd (d a b : Reg) (e f : Bool) (o : AtomicOrder)
  /-- Release, acquire or full fence at a scope. (R131) -/
  | fence (s : Scope) (k : FenceKind)
  /-- Acquire action at a scope. (R131) -/
  | acq (s : Scope)
  /-- Release action at a scope. (R131) -/
  | rel (s : Scope)
  /-- Writes a line's dirty bytes to its home. (R132) -/
  | clean (a : Reg) (e : Bool)
  /-- Cleans a line, ends its registrations and invalidates it. (R132) -/
  | drop (a : Reg) (e : Bool)
  /-- Prefetch hint under a policy. (R132) -/
  | pref (a : Reg) (l : Policy) (e : Bool)
  /-- Maps a scratchpad range onto a global range and pins its words. (R133) -/
  | spmap (d a b : Reg) (e f : Bool)
  /-- Removes a scratchpad mapping with write-back. (R135) -/
  | spunmap (d a : Reg) (e : Bool)
  /-- Parks until a completion object reaches a count, then acquires. (R137) -/
  | waitc (d a b : Reg) (e f : Bool)
  /-- Reads a completion object at home and acquires. (R138) -/
  | testc (d a : Reg) (e : Bool)
  /-- Joins two closed effect lists. (R198) -/
  | ecat (d a b : Reg) (e f : Bool)
  /-- Keeps list entries within an address range. (R199) -/
  | efilt (d a b : Reg) (e f : Bool)
  /-- Drops list entries within an address range. (R199) -/
  | efiltx (d a b : Reg) (e f : Bool)
  /-- Rebases the addresses of list entries. (R200) -/
  | ereb (a b : Reg) (e f : Bool)
  /-- Forks an engine that applies a list. (R201) -/
  | eapply (a b : Reg) (e f : Bool)
  /-- Forks an engine that applies a list in list order. (R201) -/
  | eapplyO (a b : Reg) (e f : Bool)
  /-- Frees a list's resident entries. (R203) -/
  | edrop (a : Reg) (e : Bool)
  /-- Reports on a list. (R204) -/
  | einfo (d a b : Reg) (e f : Bool)
  /-- Moves resident list entries to an image in memory. (R205) -/
  | espill (d a b : Reg) (e f : Bool)
  /-- Adopts image entries into a store list. (R206) -/
  | eload (d a : Reg) (e : Bool)
  /-- Register-target collecting call. (R185) -/
  | callcr (d a : Reg) (e : Bool)
  /-- Sends a payload from memory on an endpoint. (R272) -/
  | send (d a b : Reg) (e f : Bool)
  /-- Sends a payload from a register. (R272) -/
  | sendr (d a b : Reg) (e f : Bool)
  /-- Sends a timestamped message on an ordered channel. (R272) -/
  | tsend (d a b : Reg) (e f : Bool)
  /-- Forks an engine that places bytes at a destination, with optional note. (R285) -/
  | put (d a b : Reg) (e f : Bool)
  /-- PUT that reads its source before the thread continues. (R285) -/
  | puth (d a b : Reg) (e f : Bool)
  /-- Takes a pending message of a class or parks. (R276) -/
  | recv (d a : Reg) (e : Bool)
  /-- Frees a held inbox slot early. (R277) -/
  | msgfree (d a : Reg) (e : Bool)
  /-- Reports channel, header or pending-count state. (R278) -/
  | chstat (d a b : Reg) (e f : Bool)
  /-- Requests a block from the allocator engine. (R287) -/
  | alloc (d a : Reg) (e : Bool)
  /-- Returns a block to the allocator engine. (R287) -/
  | free (a b : Reg) (e f : Bool)
  /-- Forks a copy engine for a byte range. (R283) -/
  | copy (d a b : Reg) (e f : Bool)
  /-- Forks a copy engine for a tensor tile. (R284) -/
  | copys (d a b : Reg) (e f : Bool)
  /-- Reports group membership and ranks. (R294) -/
  | ginfo (d a b : Reg) (e f : Bool)
  /-- Forks an engine that writes a block to every group member. (R295) -/
  | gmcast (d a b : Reg) (e f : Bool)
  /-- Joins a collective reduction of a group. (R296) -/
  | gred (d a b : Reg) (e f : Bool)
  /-- Frees, binds, adds to or removes from a group. (R297) -/
  | gset (d a b : Reg) (e f : Bool)
  /-- Configures a barrier and leaves BROKEN. (R302) -/
  | barcfg (d a b : Reg) (e f : Bool)
  /-- Releases and arrives at a barrier. (R303) -/
  | bararr (d a : Reg) (e : Bool)
  /-- Waits for the phase of the core's last arrival. (R303) -/
  | barwait (d a : Reg) (e : Bool)
  /-- Arrives and waits for the phase. (R303) -/
  | bararw (d a : Reg) (e : Bool)
  /-- Reports a barrier snapshot. (R305) -/
  | barq (d a b : Reg) (e f : Bool)
  /-- Integer lane add. (R220) -/
  | vadd (d a b : Reg) (m : BitVec 3)
  /-- Integer lane subtract. (R220) -/
  | vsub (d a b : Reg) (m : BitVec 3)
  /-- Integer lane multiply. (R220) -/
  | vmul (d a b : Reg) (m : BitVec 3)
  /-- Signed lane minimum. (R220) -/
  | vmin (d a b : Reg) (m : BitVec 3)
  /-- Signed lane maximum. (R220) -/
  | vmax (d a b : Reg) (m : BitVec 3)
  /-- Unsigned lane minimum. (R220) -/
  | vminn (d a b : Reg) (m : BitVec 3)
  /-- Unsigned lane maximum. (R220) -/
  | vmaxn (d a b : Reg) (m : BitVec 3)
  /-- Lane AND. (R220) -/
  | vand (d a b : Reg) (m : BitVec 3)
  /-- Lane OR. (R220) -/
  | vor (d a b : Reg) (m : BitVec 3)
  /-- Lane XOR. (R220) -/
  | vxor (d a b : Reg) (m : BitVec 3)
  /-- Lane shift left. (R220) -/
  | vsll (d a b : Reg) (m : BitVec 3)
  /-- Lane logical shift right. (R220) -/
  | vsrl (d a b : Reg) (m : BitVec 3)
  /-- Lane arithmetic shift right. (R220) -/
  | vsra (d a b : Reg) (m : BitVec 3)
  /-- Lane equality compare into a mask. (R220) -/
  | vcmpeq (d : BitVec 3) (a b : Reg) (m : BitVec 3)
  /-- Signed lane less-than into a mask. (R220) -/
  | vcmplt (d : BitVec 3) (a b : Reg) (m : BitVec 3)
  /-- Unsigned lane less-than into a mask. (R220) -/
  | vcmpltn (d : BitVec 3) (a b : Reg) (m : BitVec 3)
  /-- FP32 lane add. (R221) -/
  | vfadd (d a b : Reg) (m : BitVec 3)
  /-- FP32 lane subtract. (R221) -/
  | vfsub (d a b : Reg) (m : BitVec 3)
  /-- FP32 lane multiply. (R221) -/
  | vfmul (d a b : Reg) (m : BitVec 3)
  /-- FP32 lane fused multiply-add. (R221) -/
  | vffma (d a b : Reg) (m : BitVec 3)
  /-- FP32 lane minimum. (R221) -/
  | vfmin (d a b : Reg) (m : BitVec 3)
  /-- FP32 lane maximum. (R221) -/
  | vfmax (d a b : Reg) (m : BitVec 3)
  /-- FP32 lane sign inversion. (R221) -/
  | vfneg (d a : Reg) (m : BitVec 3)
  /-- FP32 lane absolute value. (R221) -/
  | vfabs (d a : Reg) (m : BitVec 3)
  /-- FP32 lane equality into a mask. (R221) -/
  | vfeq (d : BitVec 3) (a b : Reg) (m : BitVec 3)
  /-- FP32 lane less-than into a mask. (R221) -/
  | vflt (d : BitVec 3) (a b : Reg) (m : BitVec 3)
  /-- FP32 lane less-or-equal into a mask. (R221) -/
  | vfle (d : BitVec 3) (a b : Reg) (m : BitVec 3)
  /-- FP32 lane divide. (R221) -/
  | vfdiv (d a b : Reg) (m : BitVec 3)
  /-- Lane base-2 exponential by the reference procedure. (R44) -/
  | vexp2 (d a : Reg) (m : BitVec 3)
  /-- Lane base-2 logarithm. (R222) -/
  | vlog2 (d a : Reg) (m : BitVec 3)
  /-- Lane reciprocal. (R222) -/
  | vrcp (d a : Reg) (m : BitVec 3)
  /-- Lane reciprocal square root. (R222) -/
  | vrsqrt (d a : Reg) (m : BitVec 3)
  /-- Broadcasts a g register to lanes. (R223) -/
  | vbcast (d a : Reg) (m : BitVec 3)
  /-- Extracts one lane into a g register. (R223) -/
  | vext (d a b : Reg)
  /-- Writes each lane its index. (R223) -/
  | vidx (d : Reg) (m : BitVec 3)
  /-- Selects lanes by a mask. (R223) -/
  | vsel (d a b : Reg) (m : BitVec 3)
  /-- Permutes lanes by an index vector. (R223) -/
  | vperm (d a b : Reg) (m : BitVec 3)
  /-- Converts FP32 lanes to integers. (R223) -/
  | vcvtfi (d a : Reg) (m : BitVec 3)
  /-- Converts integer lanes to FP32. (R223) -/
  | vcvtif (d a : Reg) (m : BitVec 3)
  /-- Integer sum of active lanes. (R223) -/
  | vrsum (d a : Reg) (m : BitVec 3)
  /-- FP32 pairwise-tree sum of active lanes. (R45) -/
  | vfrsum (d a : Reg) (m : BitVec 3)
  /-- FP32 pairwise-tree maximum of active lanes. (R45) -/
  | vfrmax (d a : Reg) (m : BitVec 3)
  /-- Mask AND. (R224) -/
  | mand (d a b : BitVec 3)
  /-- Mask OR. (R224) -/
  | mor (d a b : BitVec 3)
  /-- Mask inversion below VLEN. (R224) -/
  | mnot (d a : BitVec 3)
  /-- Counts mask bits below VLEN. (R224) -/
  | mpop (d : Reg) (a : BitVec 3)
  /-- Sets the low g[a] mask bits. (R224) -/
  | mset (d : BitVec 3) (a : Reg)
  /-- Format-aware contiguous vector load. (R226) -/
  | vld (p : Bool) (d a x : Reg) (l : Policy) (m : BitVec 3) (e : Bool)
  /-- Format-aware contiguous vector store. (R226) -/
  | vst (p : Bool) (d a x : Reg) (l : Policy) (m : BitVec 3) (e : Bool)
  /-- Strided vector load. (R226) -/
  | vlds (p : Bool) (d a x : Reg) (l : Policy) (m : BitVec 3) (e : Bool)
  /-- Strided vector store. (R226) -/
  | vsts (p : Bool) (d a x : Reg) (l : Policy) (m : BitVec 3) (e : Bool)
  /-- Gather load, optionally reporting TLB misses in a mask. (R230) -/
  | vgath (p : Bool) (d a : Reg) (l : Policy) (m : BitVec 3) (nf e : Bool)
  /-- Scatter store. (R226) -/
  | vscat (p : Bool) (d a : Reg) (l : Policy) (m : BitVec 3) (e : Bool)
  /-- Loads from each lane's own slice. (R226) -/
  | vldl (p : Bool) (d a x : Reg) (m : BitVec 3) (e : Bool)
  /-- Stores to each lane's own slice. (R226) -/
  | vstl (p : Bool) (d a x : Reg) (m : BitVec 3) (e : Bool)
  /-- Claims pool lane groups up to a target. (R217) -/
  | vclaim (d a : Reg) (e : Bool)
  /-- Returns claimed lanes above 8. (R217) -/
  | vrel
  /-- Reads the current grant. (R217) -/
  | vlen (d : Reg)
  /-- Zeroes the core's tile columns after waiting for gang operations. (R253) -/
  | mzero (c : Bool)
  /-- Gang-issued weave of A rows against slabs into a tile. (R246) -/
  | mweave (a b : Reg) (c set : Bool)
  /-- Gang-issued weave with A described by a shape record. (R246) -/
  | mweaves (d a b : Reg) (c set : Bool)
  /-- Reads out accumulators into lanes with one rounding. (R254) -/
  | mread (d a : Reg) (c : Bool) (m : Readout)
  /-- Forks an engine that loads B into slabs. (R244) -/
  | bload (d a b : Reg)
  /-- Reports sequencer, drop, BLOAD-fault or slab state. (R256) -/
  | mstat (d a : Reg)
  /-- Writes an image of the core's tile columns. (R255) -/
  | msave (a : Reg) (c : Bool)
  /-- Restores the core's tile columns from an image. (R255) -/
  | mrestore (a : Reg) (c : Bool)
  /-- Reads a control register. (R348) -/
  | crr (d : Reg) (n : BitVec 12)
  /-- Writes a control register that has no row of its own. (R348) -/
  | crw (a : Reg) (n : BitVec 12)
  /-- Raises the ECALL trap with a subcode. (R349) -/
  | ecall (a : Reg) (s : BitVec 8)
  /-- Returns from the local vector. (R350) -/
  | eret
  /-- Raises the TRAPI trap with a subcode. (R349) -/
  | trapi (s : BitVec 8)
  /-- Forks an engine that removes a context's translations. (R367) -/
  | tlbi (d a : Reg)
  /-- Starts a gang-stop of a context. (R351) -/
  | gstop (d a : Reg)
  /-- Restores and resumes a stopped context. (R355) -/
  | gresume (d a : Reg)
  /-- Writes dictionary words of a target core. (R323) -/
  | dict (d a : Reg)
  /-- Writes constant-bank words of a target core. (R323) -/
  | kload (d a : Reg)
  /-- Changes a compute die's power state. (R413) -/
  | pwrset (d a : Reg)
  /-- Kills a compute core of the die. (R356) -/
  | killcore (d a : Reg)
  /-- Owner offers a frame to the other side. (R376) -/
  | foffer (d a b : Reg) (e f : Bool)
  /-- Accepts a free or offered frame. (R376) -/
  | faccept (d a b : Reg) (e f : Bool)
  /-- Owner lends a frame with a recall interval. (R376) -/
  | flend (d a b : Reg) (e f : Bool)
  /-- Owner withdraws an offer or recalls a lent frame. (R376) -/
  | frecall (d a b : Reg) (e f : Bool)
  /-- Borrower returns, or owner frees, a frame. (R376) -/
  | freturn (d a b : Reg) (e f : Bool)
  /-- Reads a custody record. (R381) -/
  | fquery (d a b : Reg) (e f : Bool)
  /-- Dictionary parcel executing a dictionary word in place. (R60) -/
  | d16 (i : BitVec 10)
  /-- CRW to FPF waits for earlier floating-point instructions, then replaces the flags. (R31) -/
  | fpfWrite (t : Nat) (v : Word)
  /-- Writes back and invalidates the die's L2, then switches SHARED or PARTITIONED mode. (R121) -/
  | l2modeWrite (t : Nat) (v : Word)
  /-- Sets trace ring control after flushing pending entries, as release and acquire. (R181) -/
  | tracectlWrite (t : Nat) (v : Word)
  /-- Sets the kernel page-table root and removes kernel translations of its side. (R358) -/
  | kptrootWrite (t : Nat) (v : Word)
  /-- Kernel write of CTXID sets the context for later USER-mode translation. (R358) -/
  | ctxidWrite (t : Nat) (v : Word)
  /-- Declares the outcome of a core kill. (R402) -/
  | killresWrite (t : Nat) (v : Word)
  /-- QCMD operation making a queue resident at a priority. (R333) -/
  | swapin (t : Nat) (ctx : BitVec 16) (q : BitVec 9) (prio : BitVec 3)
  /-- QCMD operation removing a queue from the resident set. (R333) -/
  | swapout (t : Nat) (ctx : BitVec 16) (q : BitVec 9)
  /-- QCMD operation rereading RD and making an ERROR queue READY. (R335) -/
  | restart (t : Nat) (ctx : BitVec 16) (q : BitVec 9)
  /-- QCMD operation making a FROZEN queue READY. (R331) -/
  | thaw (t : Nat) (ctx : BitVec 16) (q : BitVec 9)
  /-- CTXCMD operation checking a context record and creating the context. (R342) -/
  | create (t : Nat) (ctx : BitVec 16)
  /-- CTXCMD operation setting a context RUNNING. (R341) -/
  | start (t : Nat) (ctx : BitVec 16)
  /-- CTXCMD operation killing a context's cores and cancelling its work. (R341) -/
  | reset (t : Nat) (ctx : BitVec 16)
  /-- CTXCMD operation destroying a context and its translations. (R341) -/
  | destroy (t : Nat) (ctx : BitVec 16)
  /-- CTXCMD operation saving a stopped context's local stores and freeing its cores. (R354) -/
  | evict (t : Nat) (ctx : BitVec 16)
  /-- MIGCMD GO starts copying a frame to a new frame. (R369) -/
  | migrationGo (t : Nat) (old new : BitVec 24)
  /-- MIGCMD END ends the redirection of a done migration. (R369) -/
  | migrationEnd (t : Nat)
  /-- PORTCMD TRAIN starts training a port. (R388) -/
  | portTrain (port : BitVec 4)
  /-- PORTCMD DOWN takes a port down. (R388) -/
  | portDown (port : BitVec 4)
  /-- A long-latency producer's result arrives and its register becomes full, waking parked threads. (R78) -/
  | resultWriteback (t : Nat)
  /-- 256 cycles pass and ALIGN completes. (R85) -/
  | alignTimeout (t : Nat)
  /-- A message payload completes in its slot and becomes a pending activation or goes to a parked RECV. (R74) -/
  | messageArrival (k : Nat)
  /-- A pending activation is bound to a dormant thread with the start state. (R74) -/
  | activationBind (who : Nat)
  /-- A system message waiting at its source is placed when a slot of its pool frees. (R280) -/
  | systemMessageDelivery (k : Nat)
  /-- A pending interrupt is taken at the local vector. (R346) -/
  | interruptEntry (who : Nat)
  /-- Home serves a SELF fill request. (R147) -/
  | fillu (k : Nat)
  /-- Home serves an INV sharer fill request. (R147) -/
  | fills (k : Nat)
  /-- Home serves an INV store upgrade from a sharer. (R147) -/
  | upg (k : Nat)
  /-- Home serves an INV store from a core without a sharer copy. (R147) -/
  | getm (k : Nat)
  /-- Home serves a privatised writer's store outside its mask. (R147) -/
  | ext (k : Nat)
  /-- Home registers a word to a core for OWN. (R148) -/
  | regw (k : Nat)
  /-- Home serves a read at home. (R147) -/
  | rdh (k : Nat)
  /-- Home serves a write at home. (R147) -/
  | wrh (k : Nat)
  /-- Home performs an atomic in home order. (R147) -/
  | atom (k : Nat)
  /-- Home merges written-back dirty SELF bytes. (R147) -/
  | wbs (k : Nat)
  /-- Home merges dirty registered words while registration stays. (R147) -/
  | wbo (k : Nat)
  /-- Home ends a word registration. (R148) -/
  | dereg (k : Nat)
  /-- Home removes a leaving sharer, exclusive or privatised copy. (R147) -/
  | leave (k : Nat)
  /-- An L1 receives an invalidation, recall or probe and acknowledges with its dirty bytes. (R147) -/
  | l1Invalidation (k : Nat)
  /-- An acknowledgement arrives at a busy home entry, which completes the waiting request when all are in. (R147) -/
  | homeAcknowledgement (k : Nat)
  /-- A forwarded load or store is performed at the registrant or pinning scratchpad. (R148) -/
  | forwardedAccess (k : Nat)
  /-- The cluster cleaner writes back dirty SELF bytes and registered words. (R155) -/
  | backgroundCleaner (who k : Nat)
  /-- A walker completes a table walk with custody checks, installing or faulting. (R363) -/
  | pageWalk (k : Nat)
  /-- One line is copied from OLD to NEW at OLD's home; the last sets DONE and adds. (R369) -/
  | migrationLineCopy (die : BitVec 2)
  /-- A COPY engine finishes and adds to its object. (R283) -/
  | copyComplete (k : Nat)
  /-- A COPYS engine finishes and adds to its object. (R284) -/
  | copysComplete (k : Nat)
  /-- A PUT engine places its bytes or fails, sends its note and adds. (R285) -/
  | putPlacement (k : Nat)
  /-- An application engine performs a list's entries and adds. (R201) -/
  | eapplyComplete (k : Nat)
  /-- A multicast engine writes every member and adds. (R295) -/
  | gmcastComplete (k : Nat)
  /-- A reduction that every member joined is performed and each member's object is added. (R296) -/
  | gredReduction (die : BitVec 2) (group : BitVec 8)
  /-- The allocator serves an ALLOC and writes the block address with acquire. (R287) -/
  | allocServe (k : Nat)
  /-- The allocator pushes a freed block on its list. (R287) -/
  | freeEngine (k : Nat)
  /-- A TLBI engine finishes removal and drain and adds. (R367) -/
  | tlbiComplete (k : Nat)
  /-- A BLOAD engine writes its slabs or faults and adds. (R244) -/
  | bloadComplete (k : Nat)
  /-- The commit arbiter tests and commits, or re-runs, an ordered activation's list. (R208) -/
  | commit (die : BitVec 2) (k : Nat)
  /-- The sequencer takes a queued gang operation and sets it RUNNING. (R247) -/
  | sequencerTake (cl : Nat)
  /-- The sequencer performs one row step of a gang operation, or drops it. (R248) -/
  | rowStep (cl : Nat)
  /-- A barrier's deadline passes and it breaks. (R300) -/
  | barrierWatchdog (die : BitVec 2) (bar : BitVec 9)
  /-- The front end checks a launch record and binds and releases its stages. (R314) -/
  | launchBinding (id : Nat)
  /-- A stage with no work left ends and its endpoints close. (R316) -/
  | stageEnd (id stage : Nat)
  /-- The front end unbinds a finished launch, writes STATUS and adds to DONEOBJ. (R317) -/
  | launchDone (id : Nat)
  /-- The front end takes a queue's head entry and starts its command. (R329) -/
  | queueEntryTake (die : BitVec 2)
  /-- A LAUNCH entry puts a launch in QUEUED. (R326) -/
  | launchCommand (die : BitVec 2)
  /-- A WAIT entry waits for a completion count. (R326) -/
  | waitCommand (die : BitVec 2)
  /-- A SIGNAL entry adds to a completion object after earlier commands. (R326) -/
  | signalCommand (die : BitVec 2)
  /-- A COPY entry performs a copy in the queue's context. (R326) -/
  | copyCommand (die : BitVec 2)
  /-- A NOP entry does nothing. (R326) -/
  | nopCommand (die : BitVec 2)
  /-- A waiting queue's condition is met and it becomes RESIDENT. (R331) -/
  | queueWaitMet (die : BitVec 2) (k : Nat)
  /-- A context's stop save completes and its object is added. (R351) -/
  | gangStopSaveDone (ctx : BitVec 16)
  /-- A recall deadline passes and the borrower's revocation begins. (R376) -/
  | recallDeadline (frame : BitVec 24)
  /-- A revocation's drain is acknowledged and the record changes with notices. (R375) -/
  | revocationComplete (frame : BitVec 24)
  /-- Link training ends UP, DEGRADED or DOWN. (R388) -/
  | linkTrainingDone (link lanes : Nat)
  /-- A link loses a lane and retrains on 4 lanes. (R388) -/
  | laneLost (link : Nat)
  /-- A link fails and its traffic is resent or aborted. (R388) -/
  | linkFailure (link : Nat)
  /-- A load-store request from another device is translated and served. (R392) -/
  | linkRequest (r : LinkReq)
  /-- A response from a remote device completes a request. (R393) -/
  | linkResponse (id : Nat) (status : BitVec 8) (data : List Byte)
  /-- No response within 100 ms ends the request with LINKABORT. (R394) -/
  | linkTimeout (id : Nat)
  /-- Power-up or reset runs the boot ROM, verifies and loads an image and starts the kernels. (R407) -/
  | packageReset
  /-- A function finishes bring-up and raises its ready bit. (R409) -/
  | functionReady (f : ReadyFn)
  /-- A die reaching 110 °C stops its cores and raises THERMAL. (R414) -/
  | thermalTrip (die : BitVec 2)
  /-- The hub die answers an SPDM request. (R411) -/
  | spdmRequest (r : SpdmReq)
  deriving DecidableEq, Repr

end Sys2Proof
end

