-- ==== Sys2Proof/Decode.lean ====
section
/-! DEFINITION. The decoder, total on any bytes, rejecting by the subcodes of R66, and the encoder, both written from the
formats of R53 and the opcode map of R64. A word is handled as a number below 2^32, bit 0 least significant. -/

namespace Sys2Proof

/-- Subcodes of ILL (R66). -/
inductive IllSub where
  | undef | zfield | abit | code | d16low | dictword | pair | reprange | noweave | nodie
  deriving DecidableEq, Repr

/-- The number of a subcode (R66). -/
def IllSub.num : IllSub → Nat
  | .undef => 0 | .zfield => 1 | .abit => 2 | .code => 3 | .d16low => 4
  | .dictword => 5 | .pair => 6 | .reprange => 7 | .noweave => 8 | .nodie => 9

/-- What the decoder says of a word that is no instruction. -/
abbrev Decoded := Except IllSub

/-! ## Field codes (R59, R130, R243) -/

/-- A one-bit field. -/
def bit (b : Bool) : Nat := if b then 1 else 0

/-- The code of the field. -/
def Policy.code : Policy → Nat
  | .self => 0 | .inv => 1 | .own => 2 | .thru => 3

/-- The value a code names; any other code raises ILL with subcode CODE. -/
def Policy.ofCode : Nat → Decoded Policy
  | 0 => .ok .self | 1 => .ok .inv | 2 => .ok .own | 3 => .ok .thru | _ => .error .code

/-- The code of the field. -/
def LoadWidth.code : LoadWidth → Nat
  | .u8 => 0 | .u16 => 1 | .u32 => 2 | .u64 => 3 | .s8 => 4 | .s16 => 5 | .s32 => 6

/-- The value a code names; any other code raises ILL with subcode CODE. -/
def LoadWidth.ofCode : Nat → Decoded LoadWidth
  | 0 => .ok .u8 | 1 => .ok .u16 | 2 => .ok .u32 | 3 => .ok .u64 | 4 => .ok .s8 | 5 => .ok .s16 | 6 => .ok .s32 | _ => .error .code

/-- The code of the field. -/
def StoreWidth.code : StoreWidth → Nat
  | .u8 => 0 | .u16 => 1 | .u32 => 2 | .u64 => 3

/-- The value a code names; any other code raises ILL with subcode CODE. -/
def StoreWidth.ofCode : Nat → Decoded StoreWidth
  | 0 => .ok .u8 | 1 => .ok .u16 | 2 => .ok .u32 | 3 => .ok .u64 | _ => .error .code

/-- The code of the field. -/
def Cond.code : Cond → Nat
  | .eq => 0 | .ne => 1 | .lt => 2 | .ge => 3 | .ltn => 4 | .gen => 5

/-- The value a code names; any other code raises ILL with subcode CODE. -/
def Cond.ofCode : Nat → Decoded Cond
  | 0 => .ok .eq | 1 => .ok .ne | 2 => .ok .lt | 3 => .ok .ge | 4 => .ok .ltn | 5 => .ok .gen | _ => .error .code

/-- The code of the field. -/
def AtomicOrder.code : AtomicOrder → Nat
  | .rlx => 0 | .acq => 1 | .rel => 2 | .ar => 3

/-- The value a code names; any other code raises ILL with subcode CODE. -/
def AtomicOrder.ofCode : Nat → Decoded AtomicOrder
  | 0 => .ok .rlx | 1 => .ok .acq | 2 => .ok .rel | 3 => .ok .ar | _ => .error .code

/-- The code of the field. -/
def Scope.code : Scope → Nat
  | .core => 0 | .cluster => 1 | .die => 2 | .package => 3 | .domain => 4

/-- The value a code names; any other code raises ILL with subcode CODE. -/
def Scope.ofCode : Nat → Decoded Scope
  | 0 => .ok .core | 1 => .ok .cluster | 2 => .ok .die | 3 => .ok .package | 4 => .ok .domain | _ => .error .code

/-- The code of the field. -/
def FenceKind.code : FenceKind → Nat
  | .full => 0 | .acquire => 1 | .release => 2

/-- The value a code names; any other code raises ILL with subcode CODE. -/
def FenceKind.ofCode : Nat → Decoded FenceKind
  | 0 => .ok .full | 1 => .ok .acquire | 2 => .ok .release | _ => .error .code

/-- The code of the field. -/
def Readout.code : Readout → Nat
  | .f32 => 0 | .bf => 1 | .e4 => 2 | .i32 => 3

/-- The value a code names; any other code raises ILL with subcode CODE. -/
def Readout.ofCode : Nat → Decoded Readout
  | 0 => .ok .f32 | 1 => .ok .bf | 2 => .ok .e4 | 3 => .ok .i32 | _ => .error .code

/-- Bits `lo + len - 1 : lo` of a word. -/
def fld (w lo len : Nat) : Nat := w / 2 ^ lo % 2 ^ len

/-- A register field. -/
def reg (w lo : Nat) : Reg := BitVec.ofNat 5 (fld w lo 5)

/-- A one-bit field read as a truth value. -/
def flag (w lo : Nat) : Bool := fld w lo 1 == 1

/-! ## Formats (R53) -/

/-- Format R (R53). -/
def fmtR (op p d a b ea eb fn : Nat) : Nat :=
  op * 2 ^ 26 + p * 2 ^ 25 + d * 2 ^ 20 + a * 2 ^ 15 + b * 2 ^ 10 + ea * 2 ^ 9 + eb * 2 ^ 8 + fn

/-- Format I (R53). -/
def fmtI (op p d a ea imm : Nat) : Nat :=
  op * 2 ^ 26 + p * 2 ^ 25 + d * 2 ^ 20 + a * 2 ^ 15 + ea * 2 ^ 14 + imm

/-- Format W (R53). -/
def fmtW (op d imm : Nat) : Nat :=
  op * 2 ^ 26 + d * 2 ^ 21 + imm

/-- Format B (R53). -/
def fmtB (op a b cond off : Nat) : Nat :=
  op * 2 ^ 26 + a * 2 ^ 21 + b * 2 ^ 16 + cond * 2 ^ 13 + off

/-- Format M (R53). -/
def fmtM (op p d a pol w e off : Nat) : Nat :=
  op * 2 ^ 26 + p * 2 ^ 25 + d * 2 ^ 20 + a * 2 ^ 15 + pol * 2 ^ 13 + w * 2 ^ 10 + e * 2 ^ 9 + off

/-- Format K (R53). -/
def fmtK (op d a k fn : Nat) : Nat :=
  op * 2 ^ 26 + d * 2 ^ 21 + a * 2 ^ 16 + k * 2 ^ 8 + fn

/-- Format V (R53). -/
def fmtV (op d a b m fn : Nat) : Nat :=
  op * 2 ^ 26 + d * 2 ^ 21 + a * 2 ^ 16 + b * 2 ^ 11 + m * 2 ^ 8 + fn

/-- Format VM (R53). -/
def fmtVM (op p d a x pol m fn nf e : Nat) : Nat :=
  op * 2 ^ 26 + p * 2 ^ 25 + d * 2 ^ 20 + a * 2 ^ 15 + x * 2 ^ 10 + pol * 2 ^ 8 + m * 2 ^ 5 + fn * 2 ^ 2 + nf * 2 ^ 1 + e

/-- Format T (R53). -/
def fmtT (op d a b c mode fn : Nat) : Nat :=
  op * 2 ^ 26 + d * 2 ^ 21 + a * 2 ^ 16 + b * 2 ^ 11 + c * 2 ^ 10 + mode * 2 ^ 8 + fn

/-- Format S (R53). -/
def fmtS (op d a crn fn : Nat) : Nat :=
  op * 2 ^ 26 + d * 2 ^ 21 + a * 2 ^ 16 + crn * 2 ^ 4 + fn

/-- Format P (R53). -/
def fmtP (op count sd sa sb z : Nat) : Nat :=
  op * 2 ^ 26 + count * 2 ^ 18 + sd * 2 ^ 15 + sa * 2 ^ 12 + sb * 2 ^ 9 + z

/-- Format L (R53). -/
def fmtL (op d a ea z fn : Nat) : Nat :=
  op * 2 ^ 26 + d * 2 ^ 21 + a * 2 ^ 16 + ea * 2 ^ 15 + z * 2 ^ 8 + fn

/-! ## The encoder -/

/-- The instruction word of an instruction that has one (R53, R64); for a literal-class instruction, its first word.
`none` for a dictionary parcel and for the agents' steps. -/
def encodeWord : Instr → Option Nat
  | .add p d a b e f => some (fmtR 0x01 (bit p) d.toNat a.toNat b.toNat (bit e) (bit f) 0)
  | .sub p d a b e f => some (fmtR 0x01 (bit p) d.toNat a.toNat b.toNat (bit e) (bit f) 1)
  | .mul d a b e f => some (fmtR 0x01 0 d.toNat a.toNat b.toNat (bit e) (bit f) 2)
  | .mulh d a b e f => some (fmtR 0x01 0 d.toNat a.toNat b.toNat (bit e) (bit f) 3)
  | .mulhn d a b e f => some (fmtR 0x01 0 d.toNat a.toNat b.toNat (bit e) (bit f) 4)
  | .div d a b e f => some (fmtR 0x01 0 d.toNat a.toNat b.toNat (bit e) (bit f) 5)
  | .divn d a b e f => some (fmtR 0x01 0 d.toNat a.toNat b.toNat (bit e) (bit f) 6)
  | .rem d a b e f => some (fmtR 0x01 0 d.toNat a.toNat b.toNat (bit e) (bit f) 7)
  | .remn d a b e f => some (fmtR 0x01 0 d.toNat a.toNat b.toNat (bit e) (bit f) 8)
  | .and p d a b e f => some (fmtR 0x01 (bit p) d.toNat a.toNat b.toNat (bit e) (bit f) 9)
  | .or p d a b e f => some (fmtR 0x01 (bit p) d.toNat a.toNat b.toNat (bit e) (bit f) 0xA)
  | .xor p d a b e f => some (fmtR 0x01 (bit p) d.toNat a.toNat b.toNat (bit e) (bit f) 0xB)
  | .andn p d a b e f => some (fmtR 0x01 (bit p) d.toNat a.toNat b.toNat (bit e) (bit f) 0xC)
  | .sll p d a b e f => some (fmtR 0x01 (bit p) d.toNat a.toNat b.toNat (bit e) (bit f) 0xD)
  | .srl p d a b e f => some (fmtR 0x01 (bit p) d.toNat a.toNat b.toNat (bit e) (bit f) 0xE)
  | .sra p d a b e f => some (fmtR 0x01 (bit p) d.toNat a.toNat b.toNat (bit e) (bit f) 0xF)
  | .rol d a b e f => some (fmtR 0x01 0 d.toNat a.toNat b.toNat (bit e) (bit f) 0x10)
  | .min d a b e f => some (fmtR 0x01 0 d.toNat a.toNat b.toNat (bit e) (bit f) 0x11)
  | .max d a b e f => some (fmtR 0x01 0 d.toNat a.toNat b.toNat (bit e) (bit f) 0x12)
  | .minn d a b e f => some (fmtR 0x01 0 d.toNat a.toNat b.toNat (bit e) (bit f) 0x13)
  | .maxn d a b e f => some (fmtR 0x01 0 d.toNat a.toNat b.toNat (bit e) (bit f) 0x14)
  | .slt d a b e f => some (fmtR 0x01 0 d.toNat a.toNat b.toNat (bit e) (bit f) 0x15)
  | .sltn d a b e f => some (fmtR 0x01 0 d.toNat a.toNat b.toNat (bit e) (bit f) 0x16)
  | .seq d a b e f => some (fmtR 0x01 0 d.toNat a.toNat b.toNat (bit e) (bit f) 0x17)
  | .clz d a e => some (fmtR 0x01 0 d.toNat a.toNat 0 (bit e) 0 0x18)
  | .ctz d a e => some (fmtR 0x01 0 d.toNat a.toNat 0 (bit e) 0 0x19)
  | .popc d a e => some (fmtR 0x01 0 d.toNat a.toNat 0 (bit e) 0 0x1A)
  | .padd p d a b e f => some (fmtR 0x01 (bit p) d.toNat a.toNat b.toNat (bit e) (bit f) 0x1B)
  | .pdiff d a b e f => some (fmtR 0x01 0 d.toNat a.toNat b.toNat (bit e) (bit f) 0x1C)
  | .fatset p d a b e f => some (fmtR 0x01 (bit p) d.toNat a.toNat b.toNat (bit e) (bit f) 0x1D)
  | .fatget p d a e => some (fmtR 0x01 (bit p) d.toNat a.toNat 0 (bit e) 0 0x1E)
  | .addw d a b e f => some (fmtR 0x02 0 d.toNat a.toNat b.toNat (bit e) (bit f) 0)
  | .subw d a b e f => some (fmtR 0x02 0 d.toNat a.toNat b.toNat (bit e) (bit f) 1)
  | .mulw d a b e f => some (fmtR 0x02 0 d.toNat a.toNat b.toNat (bit e) (bit f) 2)
  | .divw d a b e f => some (fmtR 0x02 0 d.toNat a.toNat b.toNat (bit e) (bit f) 3)
  | .divnw d a b e f => some (fmtR 0x02 0 d.toNat a.toNat b.toNat (bit e) (bit f) 4)
  | .remw d a b e f => some (fmtR 0x02 0 d.toNat a.toNat b.toNat (bit e) (bit f) 5)
  | .remnw d a b e f => some (fmtR 0x02 0 d.toNat a.toNat b.toNat (bit e) (bit f) 6)
  | .sllw d a b e f => some (fmtR 0x02 0 d.toNat a.toNat b.toNat (bit e) (bit f) 7)
  | .srlw d a b e f => some (fmtR 0x02 0 d.toNat a.toNat b.toNat (bit e) (bit f) 8)
  | .sraw d a b e f => some (fmtR 0x02 0 d.toNat a.toNat b.toNat (bit e) (bit f) 9)
  | .addi p d a e i => some (fmtI 0x03 (bit p) d.toNat a.toNat (bit e) i.toNat)
  | .andi p d a e i => some (fmtI 0x04 (bit p) d.toNat a.toNat (bit e) i.toNat)
  | .ori p d a e i => some (fmtI 0x05 (bit p) d.toNat a.toNat (bit e) i.toNat)
  | .xori p d a e i => some (fmtI 0x06 (bit p) d.toNat a.toNat (bit e) i.toNat)
  | .slli p d a e n => some (fmtI 0x07 (bit p) d.toNat a.toNat (bit e) n.toNat)
  | .srli p d a e n => some (fmtI 0x07 (bit p) d.toNat a.toNat (bit e) (n.toNat + 0x1000))
  | .srai p d a e n => some (fmtI 0x07 (bit p) d.toNat a.toNat (bit e) (n.toNat + 0x2000))
  | .roli p d a e n => some (fmtI 0x07 (bit p) d.toNat a.toNat (bit e) (n.toNat + 0x3000))
  | .slti d a e i => some (fmtI 0x08 0 d.toNat a.toNat (bit e) i.toNat)
  | .sltni d a e i => some (fmtI 0x09 0 d.toNat a.toNat (bit e) i.toNat)
  | .paddi p d a e i => some (fmtI 0x29 (bit p) d.toNat a.toNat (bit e) i.toNat)
  | .movi d i => some (fmtW 0x0A d.toNat i.toNat)
  | .adr d i => some (fmtW 0x0B d.toNat i.toNat)
  | .fmovi d imm => some (fmtW 0x0D d.toNat imm.toNat)
  | .faddi d imm => some (fmtW 0x0E d.toNat imm.toNat)
  | .fmuli d imm => some (fmtW 0x0F d.toNat imm.toNat)
  | .fadd d a b e f s => some (fmtR 0x10 0 d.toNat a.toNat b.toNat (bit e) (bit f) (bit s * 128))
  | .fsub d a b e f s => some (fmtR 0x10 0 d.toNat a.toNat b.toNat (bit e) (bit f) (bit s * 128 + 1))
  | .fmul d a b e f s => some (fmtR 0x10 0 d.toNat a.toNat b.toNat (bit e) (bit f) (bit s * 128 + 2))
  | .fdiv d a b e f s => some (fmtR 0x10 0 d.toNat a.toNat b.toNat (bit e) (bit f) (bit s * 128 + 3))
  | .fsqrt d a e s => some (fmtR 0x10 0 d.toNat a.toNat 0 (bit e) 0 (bit s * 128 + 4))
  | .fma d a b e f s => some (fmtR 0x10 0 d.toNat a.toNat b.toNat (bit e) (bit f) (bit s * 128 + 5))
  | .fmin d a b e f s => some (fmtR 0x10 0 d.toNat a.toNat b.toNat (bit e) (bit f) (bit s * 128 + 6))
  | .fmax d a b e f s => some (fmtR 0x10 0 d.toNat a.toNat b.toNat (bit e) (bit f) (bit s * 128 + 7))
  | .fneg d a e s => some (fmtR 0x10 0 d.toNat a.toNat 0 (bit e) 0 (bit s * 128 + 8))
  | .fabs d a e s => some (fmtR 0x10 0 d.toNat a.toNat 0 (bit e) 0 (bit s * 128 + 9))
  | .feq d a b e f s => some (fmtR 0x10 0 d.toNat a.toNat b.toNat (bit e) (bit f) (bit s * 128 + 0xA))
  | .flt d a b e f s => some (fmtR 0x10 0 d.toNat a.toNat b.toNat (bit e) (bit f) (bit s * 128 + 0xB))
  | .fle d a b e f s => some (fmtR 0x10 0 d.toNat a.toNat b.toNat (bit e) (bit f) (bit s * 128 + 0xC))
  | .fclass d a e s => some (fmtR 0x10 0 d.toNat a.toNat 0 (bit e) 0 (bit s * 128 + 0xD))
  | .fcvti d a e s => some (fmtR 0x10 0 d.toNat a.toNat 0 (bit e) 0 (bit s * 128 + 0xE))
  | .fcvtf d a e s => some (fmtR 0x10 0 d.toNat a.toNat 0 (bit e) 0 (bit s * 128 + 0xF))
  | .fcvtp d a e s => some (fmtR 0x10 0 d.toNat a.toNat 0 (bit e) 0 (bit s * 128 + 0x10))
  | .fcvtit d a e s => some (fmtR 0x10 0 d.toNat a.toNat 0 (bit e) 0 (bit s * 128 + 0x11))
  | .fmak d a k => some (fmtK 0x11 d.toNat a.toNat k.toNat 0)
  | .faddk d a k => some (fmtK 0x11 d.toNat a.toNat k.toNat 1)
  | .fmulk d a k => some (fmtK 0x11 d.toNat a.toNat k.toNat 2)
  | .movk d k => some (fmtK 0x11 d.toNat 0 k.toNat 3)
  | .br a b c o => some (fmtB 0x12 a.toNat b.toNat c.code o.toNat)
  | .j i => some (fmtW 0x13 0 i.toNat)
  | .jal d i => some (fmtW 0x14 d.toNat i.toNat)
  | .callc d i => some (fmtW 0x17 d.toNat i.toNat)
  | .jr a e => some (fmtR 0x15 0 0 a.toNat 0 (bit e) 0 0)
  | .jalr d a e => some (fmtR 0x15 0 d.toNat a.toNat 0 (bit e) 0 1)
  | .ret => some (fmtR 0x15 0 0 0 0 0 0 2)
  | .align => some (fmtR 0x15 0 0 0 0 0 0 3)
  | .endact => some (fmtR 0x15 0 0 0 0 0 0 4)
  | .yield => some (fmtR 0x15 0 0 0 0 0 0 5)
  | .trigger => some (fmtR 0x15 0 0 0 0 0 0 6)
  | .resume d a b e f => some (fmtR 0x15 0 d.toNat a.toNat b.toNat (bit e) (bit f) 7)
  | .rep n d a b => some (fmtP 0x16 n.toNat d.toNat a.toNat b.toNat 0)
  | .ld p d a l w e o => some (fmtM 0x18 (bit p) d.toNat a.toNat l.code w.code (bit e) o.toNat)
  | .st p d a l w e o => some (fmtM 0x19 (bit p) d.toNat a.toNat l.code w.code (bit e) o.toNat)
  | .ldx p d a b e f l w => some (fmtR 0x1A (bit p) d.toNat a.toNat b.toNat (bit e) (bit f) (l.code * 8 + w.code))
  | .stx p d a b e f l w => some (fmtR 0x1A (bit p) d.toNat a.toNat b.toNat (bit e) (bit f) (l.code * 8 + w.code + 0x20))
  | .ldacq p d a e l w => some (fmtR 0x1A (bit p) d.toNat a.toNat 0 (bit e) 0 (l.code * 8 + w.code + 0x40))
  | .strel p a b e f l w => some (fmtR 0x1A (bit p) 0 a.toNat b.toNat (bit e) (bit f) (l.code * 8 + w.code + 0x60))
  | .aadd d a b e f s o => some (fmtR 0x1B 0 d.toNat a.toNat b.toNat (bit e) (bit f) (bit s * 128 + o.code * 32))
  | .aand d a b e f s o => some (fmtR 0x1B 0 d.toNat a.toNat b.toNat (bit e) (bit f) (bit s * 128 + o.code * 32 + 1))
  | .aor d a b e f s o => some (fmtR 0x1B 0 d.toNat a.toNat b.toNat (bit e) (bit f) (bit s * 128 + o.code * 32 + 2))
  | .axor d a b e f s o => some (fmtR 0x1B 0 d.toNat a.toNat b.toNat (bit e) (bit f) (bit s * 128 + o.code * 32 + 3))
  | .amin d a b e f s o => some (fmtR 0x1B 0 d.toNat a.toNat b.toNat (bit e) (bit f) (bit s * 128 + o.code * 32 + 4))
  | .amax d a b e f s o => some (fmtR 0x1B 0 d.toNat a.toNat b.toNat (bit e) (bit f) (bit s * 128 + o.code * 32 + 5))
  | .aminn d a b e f s o => some (fmtR 0x1B 0 d.toNat a.toNat b.toNat (bit e) (bit f) (bit s * 128 + o.code * 32 + 6))
  | .amaxn d a b e f s o => some (fmtR 0x1B 0 d.toNat a.toNat b.toNat (bit e) (bit f) (bit s * 128 + o.code * 32 + 7))
  | .aswap d a b e f s o => some (fmtR 0x1B 0 d.toNat a.toNat b.toNat (bit e) (bit f) (bit s * 128 + o.code * 32 + 8))
  | .acas d a b e f s o => some (fmtR 0x1B 0 d.toNat a.toNat b.toNat (bit e) (bit f) (bit s * 128 + o.code * 32 + 9))
  | .afadd d a b e f o => some (fmtR 0x1B 0 d.toNat a.toNat b.toNat (bit e) (bit f) (o.code * 32 + 0xA))
  | .fence s k => some (fmtR 0x1C 0 0 s.code k.code 0 0 0)
  | .acq s => some (fmtR 0x1C 0 0 s.code 0 0 0 1)
  | .rel s => some (fmtR 0x1C 0 0 s.code 0 0 0 2)
  | .clean a e => some (fmtR 0x1C 0 0 a.toNat 0 (bit e) 0 3)
  | .drop a e => some (fmtR 0x1C 0 0 a.toNat 0 (bit e) 0 4)
  | .pref a l e => some (fmtR 0x1C 0 0 a.toNat l.code (bit e) 0 5)
  | .spmap d a b e f => some (fmtR 0x1C 0 d.toNat a.toNat b.toNat (bit e) (bit f) 6)
  | .spunmap d a e => some (fmtR 0x1C 0 d.toNat a.toNat 0 (bit e) 0 7)
  | .waitc d a b e f => some (fmtR 0x1C 0 d.toNat a.toNat b.toNat (bit e) (bit f) 8)
  | .testc d a e => some (fmtR 0x1C 0 d.toNat a.toNat 0 (bit e) 0 9)
  | .ecat d a b e f => some (fmtR 0x1D 0 d.toNat a.toNat b.toNat (bit e) (bit f) 0)
  | .efilt d a b e f => some (fmtR 0x1D 0 d.toNat a.toNat b.toNat (bit e) (bit f) 1)
  | .efiltx d a b e f => some (fmtR 0x1D 0 d.toNat a.toNat b.toNat (bit e) (bit f) 2)
  | .ereb a b e f => some (fmtR 0x1D 0 0 a.toNat b.toNat (bit e) (bit f) 3)
  | .eapply a b e f => some (fmtR 0x1D 0 0 a.toNat b.toNat (bit e) (bit f) 4)
  | .eapplyO a b e f => some (fmtR 0x1D 0 0 a.toNat b.toNat (bit e) (bit f) 5)
  | .edrop a e => some (fmtR 0x1D 0 0 a.toNat 0 (bit e) 0 6)
  | .einfo d a b e f => some (fmtR 0x1D 0 d.toNat a.toNat b.toNat (bit e) (bit f) 7)
  | .espill d a b e f => some (fmtR 0x1D 0 d.toNat a.toNat b.toNat (bit e) (bit f) 8)
  | .eload d a e => some (fmtR 0x1D 0 d.toNat a.toNat 0 (bit e) 0 9)
  | .callcr d a e => some (fmtR 0x1D 0 d.toNat a.toNat 0 (bit e) 0 0xA)
  | .send d a b e f => some (fmtR 0x1E 0 d.toNat a.toNat b.toNat (bit e) (bit f) 0)
  | .sendr d a b e f => some (fmtR 0x1E 0 d.toNat a.toNat b.toNat (bit e) (bit f) 1)
  | .tsend d a b e f => some (fmtR 0x1E 0 d.toNat a.toNat b.toNat (bit e) (bit f) 2)
  | .put d a b e f => some (fmtR 0x1E 0 d.toNat a.toNat b.toNat (bit e) (bit f) 3)
  | .puth d a b e f => some (fmtR 0x1E 0 d.toNat a.toNat b.toNat (bit e) (bit f) 4)
  | .recv d a e => some (fmtR 0x1E 0 d.toNat a.toNat 0 (bit e) 0 5)
  | .msgfree d a e => some (fmtR 0x1E 0 d.toNat a.toNat 0 (bit e) 0 6)
  | .chstat d a b e f => some (fmtR 0x1E 0 d.toNat a.toNat b.toNat (bit e) (bit f) 7)
  | .alloc d a e => some (fmtR 0x1E 0 d.toNat a.toNat 0 (bit e) 0 8)
  | .free a b e f => some (fmtR 0x1E 0 0 a.toNat b.toNat (bit e) (bit f) 9)
  | .copy d a b e f => some (fmtR 0x1E 0 d.toNat a.toNat b.toNat (bit e) (bit f) 0xA)
  | .copys d a b e f => some (fmtR 0x1E 0 d.toNat a.toNat b.toNat (bit e) (bit f) 0xB)
  | .ginfo d a b e f => some (fmtR 0x1F 0 d.toNat a.toNat b.toNat (bit e) (bit f) 0)
  | .gmcast d a b e f => some (fmtR 0x1F 0 d.toNat a.toNat b.toNat (bit e) (bit f) 1)
  | .gred d a b e f => some (fmtR 0x1F 0 d.toNat a.toNat b.toNat (bit e) (bit f) 2)
  | .gset d a b e f => some (fmtR 0x1F 0 d.toNat a.toNat b.toNat (bit e) (bit f) 3)
  | .barcfg d a b e f => some (fmtR 0x1F 0 d.toNat a.toNat b.toNat (bit e) (bit f) 4)
  | .bararr d a e => some (fmtR 0x1F 0 d.toNat a.toNat 0 (bit e) 0 5)
  | .barwait d a e => some (fmtR 0x1F 0 d.toNat a.toNat 0 (bit e) 0 6)
  | .bararw d a e => some (fmtR 0x1F 0 d.toNat a.toNat 0 (bit e) 0 7)
  | .barq d a b e f => some (fmtR 0x1F 0 d.toNat a.toNat b.toNat (bit e) (bit f) 8)
  | .vadd d a b m => some (fmtV 0x20 d.toNat a.toNat b.toNat m.toNat 0)
  | .vsub d a b m => some (fmtV 0x20 d.toNat a.toNat b.toNat m.toNat 1)
  | .vmul d a b m => some (fmtV 0x20 d.toNat a.toNat b.toNat m.toNat 2)
  | .vmin d a b m => some (fmtV 0x20 d.toNat a.toNat b.toNat m.toNat 3)
  | .vmax d a b m => some (fmtV 0x20 d.toNat a.toNat b.toNat m.toNat 4)
  | .vminn d a b m => some (fmtV 0x20 d.toNat a.toNat b.toNat m.toNat 5)
  | .vmaxn d a b m => some (fmtV 0x20 d.toNat a.toNat b.toNat m.toNat 6)
  | .vand d a b m => some (fmtV 0x20 d.toNat a.toNat b.toNat m.toNat 7)
  | .vor d a b m => some (fmtV 0x20 d.toNat a.toNat b.toNat m.toNat 8)
  | .vxor d a b m => some (fmtV 0x20 d.toNat a.toNat b.toNat m.toNat 9)
  | .vsll d a b m => some (fmtV 0x20 d.toNat a.toNat b.toNat m.toNat 0xA)
  | .vsrl d a b m => some (fmtV 0x20 d.toNat a.toNat b.toNat m.toNat 0xB)
  | .vsra d a b m => some (fmtV 0x20 d.toNat a.toNat b.toNat m.toNat 0xC)
  | .vcmpeq d a b m => some (fmtV 0x20 d.toNat a.toNat b.toNat m.toNat 0xD)
  | .vcmplt d a b m => some (fmtV 0x20 d.toNat a.toNat b.toNat m.toNat 0xE)
  | .vcmpltn d a b m => some (fmtV 0x20 d.toNat a.toNat b.toNat m.toNat 0xF)
  | .vfadd d a b m => some (fmtV 0x21 d.toNat a.toNat b.toNat m.toNat 0)
  | .vfsub d a b m => some (fmtV 0x21 d.toNat a.toNat b.toNat m.toNat 1)
  | .vfmul d a b m => some (fmtV 0x21 d.toNat a.toNat b.toNat m.toNat 2)
  | .vffma d a b m => some (fmtV 0x21 d.toNat a.toNat b.toNat m.toNat 3)
  | .vfmin d a b m => some (fmtV 0x21 d.toNat a.toNat b.toNat m.toNat 4)
  | .vfmax d a b m => some (fmtV 0x21 d.toNat a.toNat b.toNat m.toNat 5)
  | .vfneg d a m => some (fmtV 0x21 d.toNat a.toNat 0 m.toNat 6)
  | .vfabs d a m => some (fmtV 0x21 d.toNat a.toNat 0 m.toNat 7)
  | .vfeq d a b m => some (fmtV 0x21 d.toNat a.toNat b.toNat m.toNat 8)
  | .vflt d a b m => some (fmtV 0x21 d.toNat a.toNat b.toNat m.toNat 9)
  | .vfle d a b m => some (fmtV 0x21 d.toNat a.toNat b.toNat m.toNat 0xA)
  | .vfdiv d a b m => some (fmtV 0x21 d.toNat a.toNat b.toNat m.toNat 0xB)
  | .vexp2 d a m => some (fmtV 0x22 d.toNat a.toNat 0 m.toNat 0)
  | .vlog2 d a m => some (fmtV 0x22 d.toNat a.toNat 0 m.toNat 1)
  | .vrcp d a m => some (fmtV 0x22 d.toNat a.toNat 0 m.toNat 2)
  | .vrsqrt d a m => some (fmtV 0x22 d.toNat a.toNat 0 m.toNat 3)
  | .vbcast d a m => some (fmtV 0x23 d.toNat a.toNat 0 m.toNat 0)
  | .vext d a b => some (fmtV 0x23 d.toNat a.toNat b.toNat 0 1)
  | .vidx d m => some (fmtV 0x23 d.toNat 0 0 m.toNat 2)
  | .vsel d a b m => some (fmtV 0x23 d.toNat a.toNat b.toNat m.toNat 3)
  | .vperm d a b m => some (fmtV 0x23 d.toNat a.toNat b.toNat m.toNat 4)
  | .vcvtfi d a m => some (fmtV 0x23 d.toNat a.toNat 0 m.toNat 5)
  | .vcvtif d a m => some (fmtV 0x23 d.toNat a.toNat 0 m.toNat 6)
  | .vrsum d a m => some (fmtV 0x23 d.toNat a.toNat 0 m.toNat 7)
  | .vfrsum d a m => some (fmtV 0x23 d.toNat a.toNat 0 m.toNat 8)
  | .vfrmax d a m => some (fmtV 0x23 d.toNat a.toNat 0 m.toNat 9)
  | .mand d a b => some (fmtV 0x23 d.toNat a.toNat b.toNat 0 0xA)
  | .mor d a b => some (fmtV 0x23 d.toNat a.toNat b.toNat 0 0xB)
  | .mnot d a => some (fmtV 0x23 d.toNat a.toNat 0 0 0xC)
  | .mpop d a => some (fmtV 0x23 d.toNat a.toNat 0 0 0xD)
  | .mset d a => some (fmtV 0x23 d.toNat a.toNat 0 0 0xE)
  | .vld p d a x l m e => some (fmtVM 0x24 (bit p) d.toNat a.toNat x.toNat l.code m.toNat 0 0 (bit e))
  | .vst p d a x l m e => some (fmtVM 0x24 (bit p) d.toNat a.toNat x.toNat l.code m.toNat 1 0 (bit e))
  | .vlds p d a x l m e => some (fmtVM 0x24 (bit p) d.toNat a.toNat x.toNat l.code m.toNat 2 0 (bit e))
  | .vsts p d a x l m e => some (fmtVM 0x24 (bit p) d.toNat a.toNat x.toNat l.code m.toNat 3 0 (bit e))
  | .vgath p d a l m nf e => some (fmtVM 0x24 (bit p) d.toNat a.toNat 0 l.code m.toNat 4 (bit nf) (bit e))
  | .vscat p d a l m e => some (fmtVM 0x24 (bit p) d.toNat a.toNat 0 l.code m.toNat 5 0 (bit e))
  | .vldl p d a x m e => some (fmtVM 0x24 (bit p) d.toNat a.toNat x.toNat 0 m.toNat 6 0 (bit e))
  | .vstl p d a x m e => some (fmtVM 0x24 (bit p) d.toNat a.toNat x.toNat 0 m.toNat 7 0 (bit e))
  | .vclaim d a e => some (fmtR 0x25 0 d.toNat a.toNat 0 (bit e) 0 0)
  | .vrel => some (fmtR 0x25 0 0 0 0 0 0 1)
  | .vlen d => some (fmtR 0x25 0 d.toNat 0 0 0 0 2)
  | .mzero c => some (fmtT 0x26 0 0 0 (bit c) 0 0)
  | .mweave a b c set => some (fmtT 0x26 0 a.toNat b.toNat (bit c) (bit set) 1)
  | .mweaves d a b c set => some (fmtT 0x26 d.toNat a.toNat b.toNat (bit c) (bit set) 2)
  | .mread d a c m => some (fmtT 0x26 d.toNat a.toNat 0 (bit c) m.code 3)
  | .bload d a b => some (fmtT 0x26 d.toNat a.toNat b.toNat 0 0 4)
  | .mstat d a => some (fmtT 0x26 d.toNat a.toNat 0 0 0 5)
  | .msave a c => some (fmtT 0x26 0 a.toNat 0 (bit c) 0 6)
  | .mrestore a c => some (fmtT 0x26 0 a.toNat 0 (bit c) 0 7)
  | .crr d n => some (fmtS 0x27 d.toNat 0 n.toNat 0)
  | .crw a n => some (fmtS 0x27 0 a.toNat n.toNat 1)
  | .ecall a s => some (fmtS 0x27 0 a.toNat s.toNat 2)
  | .eret => some (fmtS 0x27 0 0 0 3)
  | .trapi s => some (fmtS 0x27 0 0 s.toNat 4)
  | .tlbi d a => some (fmtS 0x27 d.toNat a.toNat 0 5)
  | .gstop d a => some (fmtS 0x27 d.toNat a.toNat 0 6)
  | .gresume d a => some (fmtS 0x27 d.toNat a.toNat 0 7)
  | .dict d a => some (fmtS 0x27 d.toNat a.toNat 0 8)
  | .kload d a => some (fmtS 0x27 d.toNat a.toNat 0 9)
  | .pwrset d a => some (fmtS 0x27 d.toNat a.toNat 0 0xA)
  | .killcore d a => some (fmtS 0x27 d.toNat a.toNat 0 0xB)
  | .foffer d a b e f => some (fmtR 0x28 0 d.toNat a.toNat b.toNat (bit e) (bit f) 0)
  | .faccept d a b e f => some (fmtR 0x28 0 d.toNat a.toNat b.toNat (bit e) (bit f) 1)
  | .flend d a b e f => some (fmtR 0x28 0 d.toNat a.toNat b.toNat (bit e) (bit f) 2)
  | .frecall d a b e f => some (fmtR 0x28 0 d.toNat a.toNat b.toNat (bit e) (bit f) 3)
  | .freturn d a b e f => some (fmtR 0x28 0 d.toNat a.toNat b.toNat (bit e) (bit f) 4)
  | .fquery d a b e f => some (fmtR 0x28 0 d.toNat a.toNat b.toNat (bit e) (bit f) 5)
  | .movl d _ => some (fmtL 0x0C d.toNat 0 0 0 0)
  | .movlz d _ => some (fmtL 0x0C d.toNat 0 0 0 1)
  | .movlh d a e _ => some (fmtL 0x0C d.toNat a.toNat (bit e) 0 2)
  | .addl d a e _ => some (fmtL 0x0C d.toNat a.toNat (bit e) 0 3)
  | .fmal d a e _ => some (fmtL 0x0C d.toNat a.toNat (bit e) 0 4)
  | .faddl d a e _ => some (fmtL 0x0C d.toNat a.toNat (bit e) 0 5)
  | .fmull d a e _ => some (fmtL 0x0C d.toNat a.toNat (bit e) 0 6)
  | _ => none

/-- The literal word of a literal-class instruction (R63). -/
def literalOf : Instr → Option (BitVec 32)
  | .movl _ lit => some lit
  | .movlz _ lit => some lit
  | .movlh _ _ _ lit => some lit
  | .addl _ _ _ lit => some lit
  | .fmal _ _ _ lit => some lit
  | .faddl _ _ _ lit => some lit
  | .fmull _ _ _ lit => some lit
  | _ => none

/-- The two parcels of a word, the one at the lower address first: bits 31:16, then bits 15:0 (R47). -/
def parcelsOf (w : Nat) : List Nat := [w / 2 ^ 16 % 2 ^ 16, w % 2 ^ 16]

/-- The parcels of an instruction in memory order (R47, R60, R63); `none` for an agent's step. -/
def encode (i : Instr) : Option (List Nat) :=
  match i with
  | .d16 n => some [0xE000 + n.toNat * 8]
  | _ =>
    match encodeWord i with
    | none => none
    | some w =>
      match literalOf i with
      | none => some (parcelsOf w)
      | some l => some (parcelsOf w ++ parcelsOf l.toNat)

/-- The bytes of a list of parcels, each little-endian (R47). -/
def parcelBytes : List Nat → List Byte
  | [] => []
  | p :: ps => BitVec.ofNat 8 p :: BitVec.ofNat 8 (p / 2 ^ 8) :: parcelBytes ps

/-! ## The decoder -/

/-- Assignments of major 0x01 (R64). -/
def major01 (w : Nat) : Decoded Instr :=
  match fld w 0 8 with
  | 0 => .ok (.add (flag w 25) (reg w 20) (reg w 15) (reg w 10) (flag w 9) (flag w 8))
  | 1 => .ok (.sub (flag w 25) (reg w 20) (reg w 15) (reg w 10) (flag w 9) (flag w 8))
  | 2 => .ok (.mul (reg w 20) (reg w 15) (reg w 10) (flag w 9) (flag w 8))
  | 3 => .ok (.mulh (reg w 20) (reg w 15) (reg w 10) (flag w 9) (flag w 8))
  | 4 => .ok (.mulhn (reg w 20) (reg w 15) (reg w 10) (flag w 9) (flag w 8))
  | 5 => .ok (.div (reg w 20) (reg w 15) (reg w 10) (flag w 9) (flag w 8))
  | 6 => .ok (.divn (reg w 20) (reg w 15) (reg w 10) (flag w 9) (flag w 8))
  | 7 => .ok (.rem (reg w 20) (reg w 15) (reg w 10) (flag w 9) (flag w 8))
  | 8 => .ok (.remn (reg w 20) (reg w 15) (reg w 10) (flag w 9) (flag w 8))
  | 9 => .ok (.and (flag w 25) (reg w 20) (reg w 15) (reg w 10) (flag w 9) (flag w 8))
  | 10 => .ok (.or (flag w 25) (reg w 20) (reg w 15) (reg w 10) (flag w 9) (flag w 8))
  | 11 => .ok (.xor (flag w 25) (reg w 20) (reg w 15) (reg w 10) (flag w 9) (flag w 8))
  | 12 => .ok (.andn (flag w 25) (reg w 20) (reg w 15) (reg w 10) (flag w 9) (flag w 8))
  | 13 => .ok (.sll (flag w 25) (reg w 20) (reg w 15) (reg w 10) (flag w 9) (flag w 8))
  | 14 => .ok (.srl (flag w 25) (reg w 20) (reg w 15) (reg w 10) (flag w 9) (flag w 8))
  | 15 => .ok (.sra (flag w 25) (reg w 20) (reg w 15) (reg w 10) (flag w 9) (flag w 8))
  | 16 => .ok (.rol (reg w 20) (reg w 15) (reg w 10) (flag w 9) (flag w 8))
  | 17 => .ok (.min (reg w 20) (reg w 15) (reg w 10) (flag w 9) (flag w 8))
  | 18 => .ok (.max (reg w 20) (reg w 15) (reg w 10) (flag w 9) (flag w 8))
  | 19 => .ok (.minn (reg w 20) (reg w 15) (reg w 10) (flag w 9) (flag w 8))
  | 20 => .ok (.maxn (reg w 20) (reg w 15) (reg w 10) (flag w 9) (flag w 8))
  | 21 => .ok (.slt (reg w 20) (reg w 15) (reg w 10) (flag w 9) (flag w 8))
  | 22 => .ok (.sltn (reg w 20) (reg w 15) (reg w 10) (flag w 9) (flag w 8))
  | 23 => .ok (.seq (reg w 20) (reg w 15) (reg w 10) (flag w 9) (flag w 8))
  | 24 => .ok (.clz (reg w 20) (reg w 15) (flag w 9))
  | 25 => .ok (.ctz (reg w 20) (reg w 15) (flag w 9))
  | 26 => .ok (.popc (reg w 20) (reg w 15) (flag w 9))
  | 27 => .ok (.padd (flag w 25) (reg w 20) (reg w 15) (reg w 10) (flag w 9) (flag w 8))
  | 28 => .ok (.pdiff (reg w 20) (reg w 15) (reg w 10) (flag w 9) (flag w 8))
  | 29 => .ok (.fatset (flag w 25) (reg w 20) (reg w 15) (reg w 10) (flag w 9) (flag w 8))
  | 30 => .ok (.fatget (flag w 25) (reg w 20) (reg w 15) (flag w 9))
  | _ => .error .undef

/-- Assignments of major 0x02 (R64). -/
def major02 (w : Nat) : Decoded Instr :=
  match fld w 0 8 with
  | 0 => .ok (.addw (reg w 20) (reg w 15) (reg w 10) (flag w 9) (flag w 8))
  | 1 => .ok (.subw (reg w 20) (reg w 15) (reg w 10) (flag w 9) (flag w 8))
  | 2 => .ok (.mulw (reg w 20) (reg w 15) (reg w 10) (flag w 9) (flag w 8))
  | 3 => .ok (.divw (reg w 20) (reg w 15) (reg w 10) (flag w 9) (flag w 8))
  | 4 => .ok (.divnw (reg w 20) (reg w 15) (reg w 10) (flag w 9) (flag w 8))
  | 5 => .ok (.remw (reg w 20) (reg w 15) (reg w 10) (flag w 9) (flag w 8))
  | 6 => .ok (.remnw (reg w 20) (reg w 15) (reg w 10) (flag w 9) (flag w 8))
  | 7 => .ok (.sllw (reg w 20) (reg w 15) (reg w 10) (flag w 9) (flag w 8))
  | 8 => .ok (.srlw (reg w 20) (reg w 15) (reg w 10) (flag w 9) (flag w 8))
  | 9 => .ok (.sraw (reg w 20) (reg w 15) (reg w 10) (flag w 9) (flag w 8))
  | _ => .error .undef

/-- Assignment of major 0x03 (R64). -/
def major03 (w : Nat) : Decoded Instr :=
  .ok (.addi (flag w 25) (reg w 20) (reg w 15) (flag w 14) (BitVec.ofNat 14 (fld w 0 14)))

/-- Assignment of major 0x04 (R64). -/
def major04 (w : Nat) : Decoded Instr :=
  .ok (.andi (flag w 25) (reg w 20) (reg w 15) (flag w 14) (BitVec.ofNat 14 (fld w 0 14)))

/-- Assignment of major 0x05 (R64). -/
def major05 (w : Nat) : Decoded Instr :=
  .ok (.ori (flag w 25) (reg w 20) (reg w 15) (flag w 14) (BitVec.ofNat 14 (fld w 0 14)))

/-- Assignment of major 0x06 (R64). -/
def major06 (w : Nat) : Decoded Instr :=
  .ok (.xori (flag w 25) (reg w 20) (reg w 15) (flag w 14) (BitVec.ofNat 14 (fld w 0 14)))

/-- Assignments of major 0x07 (R64). -/
def major07 (w : Nat) : Decoded Instr :=
  match fld w 12 2 with
  | 0 => .ok (.slli (flag w 25) (reg w 20) (reg w 15) (flag w 14) (BitVec.ofNat 6 (fld w 0 6)))
  | 1 => .ok (.srli (flag w 25) (reg w 20) (reg w 15) (flag w 14) (BitVec.ofNat 6 (fld w 0 6)))
  | 2 => .ok (.srai (flag w 25) (reg w 20) (reg w 15) (flag w 14) (BitVec.ofNat 6 (fld w 0 6)))
  | 3 => .ok (.roli (flag w 25) (reg w 20) (reg w 15) (flag w 14) (BitVec.ofNat 6 (fld w 0 6)))
  | _ => .error .undef

/-- Assignment of major 0x08 (R64). -/
def major08 (w : Nat) : Decoded Instr :=
  .ok (.slti (reg w 20) (reg w 15) (flag w 14) (BitVec.ofNat 14 (fld w 0 14)))

/-- Assignment of major 0x09 (R64). -/
def major09 (w : Nat) : Decoded Instr :=
  .ok (.sltni (reg w 20) (reg w 15) (flag w 14) (BitVec.ofNat 14 (fld w 0 14)))

/-- Assignment of major 0x0A (R64). -/
def major0A (w : Nat) : Decoded Instr :=
  .ok (.movi (reg w 21) (BitVec.ofNat 21 (fld w 0 21)))

/-- Assignment of major 0x0B (R64). -/
def major0B (w : Nat) : Decoded Instr :=
  .ok (.adr (reg w 21) (BitVec.ofNat 21 (fld w 0 21)))

/-- Assignments of major 0x0C (R64): literal-class instructions, `lit` the literal word (R63). -/
def major0C (w : Nat) (lit : BitVec 32) : Decoded Instr :=
  match fld w 0 8 with
  | 0 => .ok (.movl (reg w 21) lit)
  | 1 => .ok (.movlz (reg w 21) lit)
  | 2 => .ok (.movlh (reg w 21) (reg w 16) (flag w 15) lit)
  | 3 => .ok (.addl (reg w 21) (reg w 16) (flag w 15) lit)
  | 4 => .ok (.fmal (reg w 21) (reg w 16) (flag w 15) lit)
  | 5 => .ok (.faddl (reg w 21) (reg w 16) (flag w 15) lit)
  | 6 => .ok (.fmull (reg w 21) (reg w 16) (flag w 15) lit)
  | _ => .error .undef

/-- Assignment of major 0x0D (R64). -/
def major0D (w : Nat) : Decoded Instr :=
  .ok (.fmovi (reg w 21) (BitVec.ofNat 20 (fld w 0 20)))

/-- Assignment of major 0x0E (R64). -/
def major0E (w : Nat) : Decoded Instr :=
  .ok (.faddi (reg w 21) (BitVec.ofNat 20 (fld w 0 20)))

/-- Assignment of major 0x0F (R64). -/
def major0F (w : Nat) : Decoded Instr :=
  .ok (.fmuli (reg w 21) (BitVec.ofNat 20 (fld w 0 20)))

/-- Assignments of major 0x10 (R64). -/
def major10 (w : Nat) : Decoded Instr :=
  match fld w 0 7 with
  | 0 => .ok (.fadd (reg w 20) (reg w 15) (reg w 10) (flag w 9) (flag w 8) (flag w 7))
  | 1 => .ok (.fsub (reg w 20) (reg w 15) (reg w 10) (flag w 9) (flag w 8) (flag w 7))
  | 2 => .ok (.fmul (reg w 20) (reg w 15) (reg w 10) (flag w 9) (flag w 8) (flag w 7))
  | 3 => .ok (.fdiv (reg w 20) (reg w 15) (reg w 10) (flag w 9) (flag w 8) (flag w 7))
  | 4 => .ok (.fsqrt (reg w 20) (reg w 15) (flag w 9) (flag w 7))
  | 5 => .ok (.fma (reg w 20) (reg w 15) (reg w 10) (flag w 9) (flag w 8) (flag w 7))
  | 6 => .ok (.fmin (reg w 20) (reg w 15) (reg w 10) (flag w 9) (flag w 8) (flag w 7))
  | 7 => .ok (.fmax (reg w 20) (reg w 15) (reg w 10) (flag w 9) (flag w 8) (flag w 7))
  | 8 => .ok (.fneg (reg w 20) (reg w 15) (flag w 9) (flag w 7))
  | 9 => .ok (.fabs (reg w 20) (reg w 15) (flag w 9) (flag w 7))
  | 10 => .ok (.feq (reg w 20) (reg w 15) (reg w 10) (flag w 9) (flag w 8) (flag w 7))
  | 11 => .ok (.flt (reg w 20) (reg w 15) (reg w 10) (flag w 9) (flag w 8) (flag w 7))
  | 12 => .ok (.fle (reg w 20) (reg w 15) (reg w 10) (flag w 9) (flag w 8) (flag w 7))
  | 13 => .ok (.fclass (reg w 20) (reg w 15) (flag w 9) (flag w 7))
  | 14 => .ok (.fcvti (reg w 20) (reg w 15) (flag w 9) (flag w 7))
  | 15 => .ok (.fcvtf (reg w 20) (reg w 15) (flag w 9) (flag w 7))
  | 16 => .ok (.fcvtp (reg w 20) (reg w 15) (flag w 9) (flag w 7))
  | 17 => .ok (.fcvtit (reg w 20) (reg w 15) (flag w 9) (flag w 7))
  | _ => .error .undef

/-- Assignments of major 0x11 (R64). -/
def major11 (w : Nat) : Decoded Instr :=
  match fld w 0 8 with
  | 0 => .ok (.fmak (reg w 21) (reg w 16) (BitVec.ofNat 8 (fld w 8 8)))
  | 1 => .ok (.faddk (reg w 21) (reg w 16) (BitVec.ofNat 8 (fld w 8 8)))
  | 2 => .ok (.fmulk (reg w 21) (reg w 16) (BitVec.ofNat 8 (fld w 8 8)))
  | 3 => .ok (.movk (reg w 21) (BitVec.ofNat 8 (fld w 8 8)))
  | _ => .error .undef

/-- Assignment of major 0x12 (R64). -/
def major12 (w : Nat) : Decoded Instr :=
  (Cond.ofCode (fld w 13 3)).bind fun cc => .ok (.br (reg w 21) (reg w 16) cc (BitVec.ofNat 13 (fld w 0 13)))

/-- Assignment of major 0x13 (R64). -/
def major13 (w : Nat) : Decoded Instr :=
  .ok (.j (BitVec.ofNat 21 (fld w 0 21)))

/-- Assignment of major 0x14 (R64). -/
def major14 (w : Nat) : Decoded Instr :=
  .ok (.jal (reg w 21) (BitVec.ofNat 21 (fld w 0 21)))

/-- Assignments of major 0x15 (R64). -/
def major15 (w : Nat) : Decoded Instr :=
  match fld w 0 8 with
  | 0 => .ok (.jr (reg w 15) (flag w 9))
  | 1 => .ok (.jalr (reg w 20) (reg w 15) (flag w 9))
  | 2 => .ok .ret
  | 3 => .ok .align
  | 4 => .ok .endact
  | 5 => .ok .yield
  | 6 => .ok .trigger
  | 7 => .ok (.resume (reg w 20) (reg w 15) (reg w 10) (flag w 9) (flag w 8))
  | _ => .error .undef

/-- Assignment of major 0x16 (R64). -/
def major16 (w : Nat) : Decoded Instr :=
  .ok (.rep (BitVec.ofNat 8 (fld w 18 8)) (BitVec.ofNat 3 (fld w 15 3)) (BitVec.ofNat 3 (fld w 12 3)) (BitVec.ofNat 3 (fld w 9 3)))

/-- Assignment of major 0x17 (R64). -/
def major17 (w : Nat) : Decoded Instr :=
  .ok (.callc (reg w 21) (BitVec.ofNat 21 (fld w 0 21)))

/-- Assignment of major 0x18 (R64). -/
def major18 (w : Nat) : Decoded Instr :=
  (Policy.ofCode (fld w 13 2)).bind fun lc => (LoadWidth.ofCode (fld w 10 3)).bind fun wc => .ok (.ld (flag w 25) (reg w 20) (reg w 15) lc wc (flag w 9) (BitVec.ofNat 9 (fld w 0 9)))

/-- Assignment of major 0x19 (R64). -/
def major19 (w : Nat) : Decoded Instr :=
  (Policy.ofCode (fld w 13 2)).bind fun lc => (StoreWidth.ofCode (fld w 10 3)).bind fun wc => .ok (.st (flag w 25) (reg w 20) (reg w 15) lc wc (flag w 9) (BitVec.ofNat 9 (fld w 0 9)))

/-- Assignments of major 0x1A (R64). -/
def major1A (w : Nat) : Decoded Instr :=
  match fld w 5 3 with
  | 0 => (Policy.ofCode (fld w 3 2)).bind fun lc => (LoadWidth.ofCode (fld w 0 3)).bind fun wc => .ok (.ldx (flag w 25) (reg w 20) (reg w 15) (reg w 10) (flag w 9) (flag w 8) lc wc)
  | 1 => (Policy.ofCode (fld w 3 2)).bind fun lc => (StoreWidth.ofCode (fld w 0 3)).bind fun wc => .ok (.stx (flag w 25) (reg w 20) (reg w 15) (reg w 10) (flag w 9) (flag w 8) lc wc)
  | 2 => (Policy.ofCode (fld w 3 2)).bind fun lc => (LoadWidth.ofCode (fld w 0 3)).bind fun wc => .ok (.ldacq (flag w 25) (reg w 20) (reg w 15) (flag w 9) lc wc)
  | 3 => (Policy.ofCode (fld w 3 2)).bind fun lc => (StoreWidth.ofCode (fld w 0 3)).bind fun wc => .ok (.strel (flag w 25) (reg w 15) (reg w 10) (flag w 9) (flag w 8) lc wc)
  | _ => .error .undef

/-- Assignments of major 0x1B (R64). -/
def major1B (w : Nat) : Decoded Instr :=
  match fld w 0 5 with
  | 0 => (AtomicOrder.ofCode (fld w 5 2)).bind fun oc => .ok (.aadd (reg w 20) (reg w 15) (reg w 10) (flag w 9) (flag w 8) (flag w 7) oc)
  | 1 => (AtomicOrder.ofCode (fld w 5 2)).bind fun oc => .ok (.aand (reg w 20) (reg w 15) (reg w 10) (flag w 9) (flag w 8) (flag w 7) oc)
  | 2 => (AtomicOrder.ofCode (fld w 5 2)).bind fun oc => .ok (.aor (reg w 20) (reg w 15) (reg w 10) (flag w 9) (flag w 8) (flag w 7) oc)
  | 3 => (AtomicOrder.ofCode (fld w 5 2)).bind fun oc => .ok (.axor (reg w 20) (reg w 15) (reg w 10) (flag w 9) (flag w 8) (flag w 7) oc)
  | 4 => (AtomicOrder.ofCode (fld w 5 2)).bind fun oc => .ok (.amin (reg w 20) (reg w 15) (reg w 10) (flag w 9) (flag w 8) (flag w 7) oc)
  | 5 => (AtomicOrder.ofCode (fld w 5 2)).bind fun oc => .ok (.amax (reg w 20) (reg w 15) (reg w 10) (flag w 9) (flag w 8) (flag w 7) oc)
  | 6 => (AtomicOrder.ofCode (fld w 5 2)).bind fun oc => .ok (.aminn (reg w 20) (reg w 15) (reg w 10) (flag w 9) (flag w 8) (flag w 7) oc)
  | 7 => (AtomicOrder.ofCode (fld w 5 2)).bind fun oc => .ok (.amaxn (reg w 20) (reg w 15) (reg w 10) (flag w 9) (flag w 8) (flag w 7) oc)
  | 8 => (AtomicOrder.ofCode (fld w 5 2)).bind fun oc => .ok (.aswap (reg w 20) (reg w 15) (reg w 10) (flag w 9) (flag w 8) (flag w 7) oc)
  | 9 => (AtomicOrder.ofCode (fld w 5 2)).bind fun oc => .ok (.acas (reg w 20) (reg w 15) (reg w 10) (flag w 9) (flag w 8) (flag w 7) oc)
  | 10 => if flag w 7 then .error .code else (AtomicOrder.ofCode (fld w 5 2)).bind fun oc => .ok (.afadd (reg w 20) (reg w 15) (reg w 10) (flag w 9) (flag w 8) oc)
  | _ => .error .undef

/-- Assignments of major 0x1C (R64). -/
def major1C (w : Nat) : Decoded Instr :=
  match fld w 0 8 with
  | 0 => (Scope.ofCode (fld w 15 5)).bind fun sc => (FenceKind.ofCode (fld w 10 5)).bind fun kc => .ok (.fence sc kc)
  | 1 => (Scope.ofCode (fld w 15 5)).bind fun sc => .ok (.acq sc)
  | 2 => (Scope.ofCode (fld w 15 5)).bind fun sc => .ok (.rel sc)
  | 3 => .ok (.clean (reg w 15) (flag w 9))
  | 4 => .ok (.drop (reg w 15) (flag w 9))
  | 5 => (Policy.ofCode (fld w 10 5)).bind fun lc => .ok (.pref (reg w 15) lc (flag w 9))
  | 6 => .ok (.spmap (reg w 20) (reg w 15) (reg w 10) (flag w 9) (flag w 8))
  | 7 => .ok (.spunmap (reg w 20) (reg w 15) (flag w 9))
  | 8 => .ok (.waitc (reg w 20) (reg w 15) (reg w 10) (flag w 9) (flag w 8))
  | 9 => .ok (.testc (reg w 20) (reg w 15) (flag w 9))
  | _ => .error .undef

/-- Assignments of major 0x1D (R64). -/
def major1D (w : Nat) : Decoded Instr :=
  match fld w 0 8 with
  | 0 => .ok (.ecat (reg w 20) (reg w 15) (reg w 10) (flag w 9) (flag w 8))
  | 1 => .ok (.efilt (reg w 20) (reg w 15) (reg w 10) (flag w 9) (flag w 8))
  | 2 => .ok (.efiltx (reg w 20) (reg w 15) (reg w 10) (flag w 9) (flag w 8))
  | 3 => .ok (.ereb (reg w 15) (reg w 10) (flag w 9) (flag w 8))
  | 4 => .ok (.eapply (reg w 15) (reg w 10) (flag w 9) (flag w 8))
  | 5 => .ok (.eapplyO (reg w 15) (reg w 10) (flag w 9) (flag w 8))
  | 6 => .ok (.edrop (reg w 15) (flag w 9))
  | 7 => .ok (.einfo (reg w 20) (reg w 15) (reg w 10) (flag w 9) (flag w 8))
  | 8 => .ok (.espill (reg w 20) (reg w 15) (reg w 10) (flag w 9) (flag w 8))
  | 9 => .ok (.eload (reg w 20) (reg w 15) (flag w 9))
  | 10 => .ok (.callcr (reg w 20) (reg w 15) (flag w 9))
  | _ => .error .undef

/-- Assignments of major 0x1E (R64). -/
def major1E (w : Nat) : Decoded Instr :=
  match fld w 0 8 with
  | 0 => .ok (.send (reg w 20) (reg w 15) (reg w 10) (flag w 9) (flag w 8))
  | 1 => .ok (.sendr (reg w 20) (reg w 15) (reg w 10) (flag w 9) (flag w 8))
  | 2 => .ok (.tsend (reg w 20) (reg w 15) (reg w 10) (flag w 9) (flag w 8))
  | 3 => .ok (.put (reg w 20) (reg w 15) (reg w 10) (flag w 9) (flag w 8))
  | 4 => .ok (.puth (reg w 20) (reg w 15) (reg w 10) (flag w 9) (flag w 8))
  | 5 => .ok (.recv (reg w 20) (reg w 15) (flag w 9))
  | 6 => .ok (.msgfree (reg w 20) (reg w 15) (flag w 9))
  | 7 => .ok (.chstat (reg w 20) (reg w 15) (reg w 10) (flag w 9) (flag w 8))
  | 8 => .ok (.alloc (reg w 20) (reg w 15) (flag w 9))
  | 9 => .ok (.free (reg w 15) (reg w 10) (flag w 9) (flag w 8))
  | 10 => .ok (.copy (reg w 20) (reg w 15) (reg w 10) (flag w 9) (flag w 8))
  | 11 => .ok (.copys (reg w 20) (reg w 15) (reg w 10) (flag w 9) (flag w 8))
  | _ => .error .undef

/-- Assignments of major 0x1F (R64). -/
def major1F (w : Nat) : Decoded Instr :=
  match fld w 0 8 with
  | 0 => .ok (.ginfo (reg w 20) (reg w 15) (reg w 10) (flag w 9) (flag w 8))
  | 1 => .ok (.gmcast (reg w 20) (reg w 15) (reg w 10) (flag w 9) (flag w 8))
  | 2 => .ok (.gred (reg w 20) (reg w 15) (reg w 10) (flag w 9) (flag w 8))
  | 3 => .ok (.gset (reg w 20) (reg w 15) (reg w 10) (flag w 9) (flag w 8))
  | 4 => .ok (.barcfg (reg w 20) (reg w 15) (reg w 10) (flag w 9) (flag w 8))
  | 5 => .ok (.bararr (reg w 20) (reg w 15) (flag w 9))
  | 6 => .ok (.barwait (reg w 20) (reg w 15) (flag w 9))
  | 7 => .ok (.bararw (reg w 20) (reg w 15) (flag w 9))
  | 8 => .ok (.barq (reg w 20) (reg w 15) (reg w 10) (flag w 9) (flag w 8))
  | _ => .error .undef

/-- Assignments of major 0x20 (R64). -/
def major20 (w : Nat) : Decoded Instr :=
  match fld w 0 8 with
  | 0 => .ok (.vadd (reg w 21) (reg w 16) (reg w 11) (BitVec.ofNat 3 (fld w 8 3)))
  | 1 => .ok (.vsub (reg w 21) (reg w 16) (reg w 11) (BitVec.ofNat 3 (fld w 8 3)))
  | 2 => .ok (.vmul (reg w 21) (reg w 16) (reg w 11) (BitVec.ofNat 3 (fld w 8 3)))
  | 3 => .ok (.vmin (reg w 21) (reg w 16) (reg w 11) (BitVec.ofNat 3 (fld w 8 3)))
  | 4 => .ok (.vmax (reg w 21) (reg w 16) (reg w 11) (BitVec.ofNat 3 (fld w 8 3)))
  | 5 => .ok (.vminn (reg w 21) (reg w 16) (reg w 11) (BitVec.ofNat 3 (fld w 8 3)))
  | 6 => .ok (.vmaxn (reg w 21) (reg w 16) (reg w 11) (BitVec.ofNat 3 (fld w 8 3)))
  | 7 => .ok (.vand (reg w 21) (reg w 16) (reg w 11) (BitVec.ofNat 3 (fld w 8 3)))
  | 8 => .ok (.vor (reg w 21) (reg w 16) (reg w 11) (BitVec.ofNat 3 (fld w 8 3)))
  | 9 => .ok (.vxor (reg w 21) (reg w 16) (reg w 11) (BitVec.ofNat 3 (fld w 8 3)))
  | 10 => .ok (.vsll (reg w 21) (reg w 16) (reg w 11) (BitVec.ofNat 3 (fld w 8 3)))
  | 11 => .ok (.vsrl (reg w 21) (reg w 16) (reg w 11) (BitVec.ofNat 3 (fld w 8 3)))
  | 12 => .ok (.vsra (reg w 21) (reg w 16) (reg w 11) (BitVec.ofNat 3 (fld w 8 3)))
  | 13 => .ok (.vcmpeq (BitVec.ofNat 3 (fld w 21 3)) (reg w 16) (reg w 11) (BitVec.ofNat 3 (fld w 8 3)))
  | 14 => .ok (.vcmplt (BitVec.ofNat 3 (fld w 21 3)) (reg w 16) (reg w 11) (BitVec.ofNat 3 (fld w 8 3)))
  | 15 => .ok (.vcmpltn (BitVec.ofNat 3 (fld w 21 3)) (reg w 16) (reg w 11) (BitVec.ofNat 3 (fld w 8 3)))
  | _ => .error .undef

/-- Assignments of major 0x21 (R64). -/
def major21 (w : Nat) : Decoded Instr :=
  match fld w 0 8 with
  | 0 => .ok (.vfadd (reg w 21) (reg w 16) (reg w 11) (BitVec.ofNat 3 (fld w 8 3)))
  | 1 => .ok (.vfsub (reg w 21) (reg w 16) (reg w 11) (BitVec.ofNat 3 (fld w 8 3)))
  | 2 => .ok (.vfmul (reg w 21) (reg w 16) (reg w 11) (BitVec.ofNat 3 (fld w 8 3)))
  | 3 => .ok (.vffma (reg w 21) (reg w 16) (reg w 11) (BitVec.ofNat 3 (fld w 8 3)))
  | 4 => .ok (.vfmin (reg w 21) (reg w 16) (reg w 11) (BitVec.ofNat 3 (fld w 8 3)))
  | 5 => .ok (.vfmax (reg w 21) (reg w 16) (reg w 11) (BitVec.ofNat 3 (fld w 8 3)))
  | 6 => .ok (.vfneg (reg w 21) (reg w 16) (BitVec.ofNat 3 (fld w 8 3)))
  | 7 => .ok (.vfabs (reg w 21) (reg w 16) (BitVec.ofNat 3 (fld w 8 3)))
  | 8 => .ok (.vfeq (BitVec.ofNat 3 (fld w 21 3)) (reg w 16) (reg w 11) (BitVec.ofNat 3 (fld w 8 3)))
  | 9 => .ok (.vflt (BitVec.ofNat 3 (fld w 21 3)) (reg w 16) (reg w 11) (BitVec.ofNat 3 (fld w 8 3)))
  | 10 => .ok (.vfle (BitVec.ofNat 3 (fld w 21 3)) (reg w 16) (reg w 11) (BitVec.ofNat 3 (fld w 8 3)))
  | 11 => .ok (.vfdiv (reg w 21) (reg w 16) (reg w 11) (BitVec.ofNat 3 (fld w 8 3)))
  | _ => .error .undef

/-- Assignments of major 0x22 (R64). -/
def major22 (w : Nat) : Decoded Instr :=
  match fld w 0 8 with
  | 0 => .ok (.vexp2 (reg w 21) (reg w 16) (BitVec.ofNat 3 (fld w 8 3)))
  | 1 => .ok (.vlog2 (reg w 21) (reg w 16) (BitVec.ofNat 3 (fld w 8 3)))
  | 2 => .ok (.vrcp (reg w 21) (reg w 16) (BitVec.ofNat 3 (fld w 8 3)))
  | 3 => .ok (.vrsqrt (reg w 21) (reg w 16) (BitVec.ofNat 3 (fld w 8 3)))
  | _ => .error .undef

/-- Assignments of major 0x23 (R64). -/
def major23 (w : Nat) : Decoded Instr :=
  match fld w 0 8 with
  | 0 => .ok (.vbcast (reg w 21) (reg w 16) (BitVec.ofNat 3 (fld w 8 3)))
  | 1 => .ok (.vext (reg w 21) (reg w 16) (reg w 11))
  | 2 => .ok (.vidx (reg w 21) (BitVec.ofNat 3 (fld w 8 3)))
  | 3 => .ok (.vsel (reg w 21) (reg w 16) (reg w 11) (BitVec.ofNat 3 (fld w 8 3)))
  | 4 => .ok (.vperm (reg w 21) (reg w 16) (reg w 11) (BitVec.ofNat 3 (fld w 8 3)))
  | 5 => .ok (.vcvtfi (reg w 21) (reg w 16) (BitVec.ofNat 3 (fld w 8 3)))
  | 6 => .ok (.vcvtif (reg w 21) (reg w 16) (BitVec.ofNat 3 (fld w 8 3)))
  | 7 => .ok (.vrsum (reg w 21) (reg w 16) (BitVec.ofNat 3 (fld w 8 3)))
  | 8 => .ok (.vfrsum (reg w 21) (reg w 16) (BitVec.ofNat 3 (fld w 8 3)))
  | 9 => .ok (.vfrmax (reg w 21) (reg w 16) (BitVec.ofNat 3 (fld w 8 3)))
  | 10 => .ok (.mand (BitVec.ofNat 3 (fld w 21 3)) (BitVec.ofNat 3 (fld w 16 3)) (BitVec.ofNat 3 (fld w 11 3)))
  | 11 => .ok (.mor (BitVec.ofNat 3 (fld w 21 3)) (BitVec.ofNat 3 (fld w 16 3)) (BitVec.ofNat 3 (fld w 11 3)))
  | 12 => .ok (.mnot (BitVec.ofNat 3 (fld w 21 3)) (BitVec.ofNat 3 (fld w 16 3)))
  | 13 => .ok (.mpop (reg w 21) (BitVec.ofNat 3 (fld w 16 3)))
  | 14 => .ok (.mset (BitVec.ofNat 3 (fld w 21 3)) (reg w 16))
  | _ => .error .undef

/-- Assignments of major 0x24 (R64). -/
def major24 (w : Nat) : Decoded Instr :=
  match fld w 2 3 with
  | 0 => (Policy.ofCode (fld w 8 2)).bind fun lc => .ok (.vld (flag w 25) (reg w 20) (reg w 15) (reg w 10) lc (BitVec.ofNat 3 (fld w 5 3)) (flag w 0))
  | 1 => (Policy.ofCode (fld w 8 2)).bind fun lc => .ok (.vst (flag w 25) (reg w 20) (reg w 15) (reg w 10) lc (BitVec.ofNat 3 (fld w 5 3)) (flag w 0))
  | 2 => (Policy.ofCode (fld w 8 2)).bind fun lc => .ok (.vlds (flag w 25) (reg w 20) (reg w 15) (reg w 10) lc (BitVec.ofNat 3 (fld w 5 3)) (flag w 0))
  | 3 => (Policy.ofCode (fld w 8 2)).bind fun lc => .ok (.vsts (flag w 25) (reg w 20) (reg w 15) (reg w 10) lc (BitVec.ofNat 3 (fld w 5 3)) (flag w 0))
  | 4 => (Policy.ofCode (fld w 8 2)).bind fun lc => .ok (.vgath (flag w 25) (reg w 20) (reg w 15) lc (BitVec.ofNat 3 (fld w 5 3)) (flag w 1) (flag w 0))
  | 5 => (Policy.ofCode (fld w 8 2)).bind fun lc => .ok (.vscat (flag w 25) (reg w 20) (reg w 15) lc (BitVec.ofNat 3 (fld w 5 3)) (flag w 0))
  | 6 => .ok (.vldl (flag w 25) (reg w 20) (reg w 15) (reg w 10) (BitVec.ofNat 3 (fld w 5 3)) (flag w 0))
  | 7 => .ok (.vstl (flag w 25) (reg w 20) (reg w 15) (reg w 10) (BitVec.ofNat 3 (fld w 5 3)) (flag w 0))
  | _ => .error .undef

/-- Assignments of major 0x25 (R64). -/
def major25 (w : Nat) : Decoded Instr :=
  match fld w 0 8 with
  | 0 => .ok (.vclaim (reg w 20) (reg w 15) (flag w 9))
  | 1 => .ok .vrel
  | 2 => .ok (.vlen (reg w 20))
  | _ => .error .undef

/-- Assignments of major 0x26 (R64). -/
def major26 (w : Nat) : Decoded Instr :=
  match fld w 0 8 with
  | 0 => .ok (.mzero (flag w 10))
  | 1 => if flag w 9 then .error .code else .ok (.mweave (reg w 16) (reg w 11) (flag w 10) (flag w 8))
  | 2 => if flag w 9 then .error .code else .ok (.mweaves (reg w 21) (reg w 16) (reg w 11) (flag w 10) (flag w 8))
  | 3 => (Readout.ofCode (fld w 8 2)).bind fun mc => .ok (.mread (reg w 21) (reg w 16) (flag w 10) mc)
  | 4 => .ok (.bload (reg w 21) (reg w 16) (reg w 11))
  | 5 => .ok (.mstat (reg w 21) (reg w 16))
  | 6 => .ok (.msave (reg w 16) (flag w 10))
  | 7 => .ok (.mrestore (reg w 16) (flag w 10))
  | _ => .error .undef

/-- Assignments of major 0x27 (R64). -/
def major27 (w : Nat) : Decoded Instr :=
  match fld w 0 4 with
  | 0 => .ok (.crr (reg w 21) (BitVec.ofNat 12 (fld w 4 12)))
  | 1 => .ok (.crw (reg w 16) (BitVec.ofNat 12 (fld w 4 12)))
  | 2 => .ok (.ecall (reg w 16) (BitVec.ofNat 8 (fld w 4 8)))
  | 3 => .ok .eret
  | 4 => .ok (.trapi (BitVec.ofNat 8 (fld w 4 8)))
  | 5 => .ok (.tlbi (reg w 21) (reg w 16))
  | 6 => .ok (.gstop (reg w 21) (reg w 16))
  | 7 => .ok (.gresume (reg w 21) (reg w 16))
  | 8 => .ok (.dict (reg w 21) (reg w 16))
  | 9 => .ok (.kload (reg w 21) (reg w 16))
  | 10 => .ok (.pwrset (reg w 21) (reg w 16))
  | 11 => .ok (.killcore (reg w 21) (reg w 16))
  | _ => .error .undef

/-- Assignments of major 0x28 (R64). -/
def major28 (w : Nat) : Decoded Instr :=
  match fld w 0 8 with
  | 0 => .ok (.foffer (reg w 20) (reg w 15) (reg w 10) (flag w 9) (flag w 8))
  | 1 => .ok (.faccept (reg w 20) (reg w 15) (reg w 10) (flag w 9) (flag w 8))
  | 2 => .ok (.flend (reg w 20) (reg w 15) (reg w 10) (flag w 9) (flag w 8))
  | 3 => .ok (.frecall (reg w 20) (reg w 15) (reg w 10) (flag w 9) (flag w 8))
  | 4 => .ok (.freturn (reg w 20) (reg w 15) (reg w 10) (flag w 9) (flag w 8))
  | 5 => .ok (.fquery (reg w 20) (reg w 15) (reg w 10) (flag w 9) (flag w 8))
  | _ => .error .undef

/-- Assignment of major 0x29 (R64). -/
def major29 (w : Nat) : Decoded Instr :=
  .ok (.paddi (flag w 25) (reg w 20) (reg w 15) (flag w 14) (BitVec.ofNat 14 (fld w 0 14)))

/-- The assignment of a word by the opcode map (R64): UNDEF for every word outside the assignments, CODE for a
sub-field code outside R59, R130 and R243. Fields that the instruction does not use are not looked at here. -/
def assigned (w : Nat) (lit : BitVec 32) : Decoded Instr :=
  match fld w 26 6 with
  | 0x01 => major01 w
  | 0x02 => major02 w
  | 0x03 => major03 w
  | 0x04 => major04 w
  | 0x05 => major05 w
  | 0x06 => major06 w
  | 0x07 => major07 w
  | 0x08 => major08 w
  | 0x09 => major09 w
  | 0x0A => major0A w
  | 0x0B => major0B w
  | 0x0C => major0C w lit
  | 0x0D => major0D w
  | 0x0E => major0E w
  | 0x0F => major0F w
  | 0x10 => major10 w
  | 0x11 => major11 w
  | 0x12 => major12 w
  | 0x13 => major13 w
  | 0x14 => major14 w
  | 0x15 => major15 w
  | 0x16 => major16 w
  | 0x17 => major17 w
  | 0x18 => major18 w
  | 0x19 => major19 w
  | 0x1A => major1A w
  | 0x1B => major1B w
  | 0x1C => major1C w
  | 0x1D => major1D w
  | 0x1E => major1E w
  | 0x1F => major1F w
  | 0x20 => major20 w
  | 0x21 => major21 w
  | 0x22 => major22 w
  | 0x23 => major23 w
  | 0x24 => major24 w
  | 0x25 => major25 w
  | 0x26 => major26 w
  | 0x27 => major27 w
  | 0x28 => major28 w
  | 0x29 => major29 w
  | _ => .error .undef

/-- A = 1 where R58 forbids it: on R-format and I-format words other than those R58 lists. -/
def abitBroken (w : Nat) : Bool :=
  flag w 25 &&
    match fld w 26 6 with
    | 0x01 => !([0x00, 0x01, 0x09, 0x0A, 0x0B, 0x0C, 0x0D, 0x0E, 0x0F, 0x1B, 0x1D, 0x1E].contains (fld w 0 8))
    | 0x02 | 0x08 | 0x09 | 0x10 | 0x15 | 0x1B | 0x1C | 0x1D | 0x1E | 0x1F | 0x25 | 0x28 => true
    | _ => false

/-- An instruction of a register pair whose first register is 31 (R56, R225, R323, R347, R367). -/
def pairBroken : Instr → Bool
  | .acas _ _ b _ _ _ _ | .spmap _ _ b _ _ | .efilt _ _ b _ _ | .efiltx _ _ b _ _ | .put _ _ b _ _ | .puth _ _ b _ _
  | .copy _ _ b _ _ | .gmcast _ _ b _ _ | .gred _ _ b _ _ | .bload _ _ b => b == 31
  | .gstop _ a | .tlbi _ a | .dict _ a | .kload _ a => a == 31
  | .vgath _ d _ _ _ _ _ | .vscat _ d _ _ _ _ => d == 31
  | _ => false

/-- A field that holds a nonzero value where the instruction's own rule wants zero: nf = 1 with m = 0 (R226). -/
def fieldBroken : Instr → Bool
  | .vgath _ _ _ _ m nf _ => nf && m == 0
  | _ => false

/-- What the issuing core offers (R15, R16, R65): the weave array, gang issue on it, and a die. -/
structure Offer where
  weave : Bool
  gang : Bool
  die : Bool
  deriving DecidableEq, Repr

/-- Everything offered: an ordinary compute core. -/
def Offer.full : Offer := ⟨true, true, true⟩

/-- The subcode for an assigned word that the core does not offer (R66, R235). -/
def notOffered (o : Offer) (w : Nat) : Option IllSub :=
  match fld w 26 6 with
  | 0x26 =>
    if !o.weave then some .noweave
    else if !o.gang && (fld w 0 8 == 1 || fld w 0 8 == 2) then some .noweave
    else none
  | 0x1F => if o.die then none else some .nodie
  | _ => none

/-- Decodes one instruction word, the literal word beside it, on a core that offers `o`. The first subcode of the order
of R66 is recorded. ZFIELD: every bit outside the fields the instruction uses must be zero (R55), so the word must be the
one that encodes what was read. -/
def decodeOn (o : Offer) (w : Nat) (lit : BitVec 32) : Decoded Instr :=
  match assigned w lit with
  | .error .undef => .error .undef
  | r =>
    match notOffered o w with
    | some e => .error e
    | none =>
      if abitBroken w then .error .abit
      else
        match r with
        | .error e => .error e
        | .ok i =>
          if encodeWord i ≠ some w || fieldBroken i then .error .zfield
          else if pairBroken i then .error .pair
          else .ok i

/-- Decodes a word on an ordinary compute core. -/
def decodeWord (w : Nat) (lit : BitVec 32) : Decoded Instr := decodeOn Offer.full w lit

/-- The length in bytes that a first parcel decides (R48). DEDUCED (log entry 46): 8 bytes for major 0x0C, as R63 and R100
say; the bits that R48 prints beside that major are those of another one. -/
def lengthOf (parcel : Nat) : Nat :=
  if fld parcel 13 3 == 7 then 2 else if fld parcel 10 6 == 0x0C then 8 else 4

/-- Decodes a dictionary parcel (R60). -/
def decodeParcel (p : Nat) : Decoded Instr :=
  if fld p 0 3 ≠ 0 then .error .d16low else .ok (.d16 (BitVec.ofNat 10 (fld p 3 10)))

/-- Decodes the instruction at the head of a list of parcels; `none` where the list ends inside it. -/
def decodeParcels : List Nat → Option (Decoded Instr)
  | [] => none
  | p :: ps =>
    match lengthOf p, ps with
    | 2, _ => some (decodeParcel p)
    | 8, q :: r :: t :: _ => some (decodeWord (p * 2 ^ 16 + q) (BitVec.ofNat 32 (r * 2 ^ 16 + t)))
    | 4, q :: _ => some (decodeWord (p * 2 ^ 16 + q) 0)
    | _, _ => none

/-- The parcels of a list of bytes, each little-endian (R47); a last odd byte is dropped. -/
def parcelsOfBytes : List Byte → List Nat
  | a :: b :: bs => (a.toNat + b.toNat * 2 ^ 8) :: parcelsOfBytes bs
  | _ => []

/-- Decodes the instruction at the head of a list of bytes. -/
def decodeBytes (bs : List Byte) : Option (Decoded Instr) := decodeParcels (parcelsOfBytes bs)

/-- The bytes of a table word of `nbits` bits whose number is `w`: a dictionary parcel is one parcel; a longer word is
one 32-bit instruction word and, above it, the literal word (R47, R63). Bits above `nbits` are zero. -/
def tableBytes (nbits w : Nat) : List Byte :=
  if nbits ≤ 16 then parcelBytes [w % 2 ^ 16]
  else parcelBytes (parcelsOf (w % 2 ^ 32) ++ parcelsOf (w / 2 ^ 32 % 2 ^ 32))

/-- The instruction that the decoder reads from a table word. -/
def decodeTableWord (nbits w : Nat) : Option Instr :=
  match decodeBytes (tableBytes nbits w) with
  | some (.ok i) => some i
  | _ => none

end Sys2Proof
end

