-- ==== Sys2Proof/Machine/State.lean ====
section
/-! DEFINITION. The machine's state: plain data, every register, table and queue the spec names, and the model's own
fields that say which agent moves next. A record that is not listed in a `Store` holds its reset value. -/

namespace Sys2Proof.Machine

/-! ## Sparse tables and memory -/

/-- A table by number, keys strictly rising; a key that is not listed holds a default. -/
abbrev Store (α : Type) := List (Nat × α)

/-- The entry of a key, if it is listed. -/
def Store.find? {α : Type} : Store α → Nat → Option α
  | [], _ => none
  | (j, a) :: st, k => if k = j then some a else Store.find? st k

/-- The entry of a key, or the default. -/
def Store.get {α : Type} (st : Store α) (k : Nat) (d : α) : α := (st.find? k).getD d

/-- Lists an entry under a key. -/
def Store.put {α : Type} : Store α → Nat → α → Store α
  | [], k, a => [(k, a)]
  | (j, b) :: st, k, a =>
    if k < j then (k, a) :: (j, b) :: st else if k = j then (k, a) :: st else (j, b) :: Store.put st k a

/-- Removes a key. -/
def Store.del {α : Type} (st : Store α) (k : Nat) : Store α := st.filter fun p => p.1 != k

/-- Byte memory: pairs of an address and a byte, addresses strictly rising, no byte 0 listed. -/
abbrev Mem := List Host.Cell

/-- What an address that is not listed reads as: 0 (log entry 2). -/
def Mem.unlisted : Byte := 0

/-- Reads one byte. -/
def Mem.byte : Mem → Nat → Byte
  | [], _ => Mem.unlisted
  | (j, b) :: m, a => if a < j then Mem.unlisted else if a = j then b else Mem.byte m a

/-- Writes one byte and keeps the canonical form. -/
def Mem.setByte : Mem → Nat → Byte → Mem
  | [], a, v => if v = Mem.unlisted then [] else [(a, v)]
  | (j, b) :: m, a, v =>
    if a < j then (if v = Mem.unlisted then (j, b) :: m else (a, v) :: (j, b) :: m)
    else if a = j then (if v = Mem.unlisted then m else (a, v) :: m)
    else (j, b) :: Mem.setByte m a v

/-- Every listed address is above `lo` and rises, and no listed byte is what an unlisted address reads as. -/
def Mem.wfFrom : Nat → Mem → Bool
  | _, [] => true
  | lo, (j, b) :: m => decide (lo ≤ j) && b != Mem.unlisted && Mem.wfFrom (j + 1) m

/-- The canonical form holds. -/
def Memory.wf (m : Mem) : Bool := Mem.wfFrom 0 m

/-- The `n` bytes from an address on, lowest first. -/
def Mem.bytes (m : Mem) (a : Nat) : Nat → List Byte
  | 0 => []
  | n + 1 => m.byte a :: Mem.bytes m (a + 1) n

/-- Writes bytes from an address on. -/
def Mem.setBytes (m : Mem) (a : Nat) : List Byte → Mem
  | [] => m
  | b :: bs => Mem.setBytes (m.setByte a b) (a + 1) bs

/-- Makes `n` bytes from `a` on read as zero. -/
def Mem.zero (m : Mem) (a n : Nat) : Mem := m.filter fun c => decide (c.1 < a) || decide (a + n ≤ c.1)

/-! ## Causes, reasons, faults -/

/-- Trap causes (R93). -/
inductive Cause where
  | ill | priv | empty | misalign | page | custody | policy | format | shape | ecap | ebad | blost | gang | bartime
  | bardouble | barmember | chan | pipe | memabort | linkabort | repx | ecall | trapi | fpx
  deriving DecidableEq, Repr

/-- The code of a cause (R93). -/
def Cause.code : Cause → Nat
  | .ill => 0x01 | .priv => 0x02 | .empty => 0x03 | .misalign => 0x04 | .page => 0x05 | .custody => 0x06
  | .policy => 0x07 | .format => 0x08 | .shape => 0x09 | .ecap => 0x0A | .ebad => 0x0B | .blost => 0x0C
  | .gang => 0x0D | .bartime => 0x0E | .bardouble => 0x0F | .barmember => 0x10 | .chan => 0x11 | .pipe => 0x12
  | .memabort => 0x13 | .linkabort => 0x14 | .repx => 0x15 | .ecall => 0x16 | .trapi => 0x17 | .fpx => 0x19

/-- What a trap records: cause, subcode, FADDR and FINFO (R92, R93). -/
structure Trap where
  cause : Cause
  sub : Nat := 0
  faddr : Word := 0
  finfo : Word := 0
  deriving DecidableEq, Repr

/-- Why a thread is parked (R69, R246, R296), with what it waits for; `d` is the register that a parked WAITC or RECV
targets. -/
inductive Reason where
  | empty (r : Nat)
  | dest (r : Nat)
  | waitc (place d : Nat)
  | recv (cls d : Nat)
  | barwait (die bar phase : Nat)
  | send (chan : Nat)
  | fpx
  | align (deadline : Nat)
  | gang
  | gred
  deriving DecidableEq, Repr

/-- The code of a reason (R69, R246, R296). -/
def Reason.code : Reason → Nat
  | .empty _ => 1 | .dest _ => 2 | .waitc _ _ => 3 | .recv _ _ => 4 | .barwait _ _ _ => 5 | .send _ => 6
  | .fpx => 7 | .align _ => 8 | .gang => 9 | .gred => 10

/-- The state of a hardware thread (R69, R70); `stopped` keeps the state that a gang-stop saved. -/
inductive RunState where
  | dormant
  | runnable
  | parked (r : Reason)
  | trapped
  | stopped (was : Option Reason) (trapped : Bool)
  deriving DecidableEq, Repr

/-- Faults: none. Every stop the spec describes is a trap, a park or a status; a reviewer finds no fault reason here. The
one constructor is for an issue named by `State.cur` that no thread of the package has. -/
inductive Fault where
  /-- Raised by `step` when the agenda names a thread that the package does not have. Safe: the machine stops. -/
  | noSuchThread
  deriving DecidableEq, Repr

/-- Refusals. -/
inductive Refusal where
  /-- Raised by `exec` for an instruction that has no meaning yet. Safe: the machine stops. -/
  | notModelled (mnemonic : String)
  deriving DecidableEq, Repr

/-- How the body of an instruction ends without completing. -/
inductive Stop where
  /-- The instruction traps (R92, R346). -/
  | trap (t : Trap)
  /-- The instruction is not performed and its thread parks (R70). -/
  | park (r : Reason)
  /-- The instruction is not performed yet: it waits for an agent and issues again (log entry 17). -/
  | stall
  /-- The machine stops. -/
  | fault (f : Fault)
  deriving DecidableEq, Repr

/-! ## Translation and caches -/

/-- The two sides of custody (R371). -/
inductive Side where
  | host | device
  deriving DecidableEq, Repr

/-- What tags a translation (R358, R363): a context, or a kernel's side with its die or hub core. -/
inductive Space where
  | ctx (n : Nat)
  | dev (die : Nat)
  | hub (who : Nat)
  deriving DecidableEq, Repr

/-- Where a page lies: a physical address, or a page of another device (R359, R360). -/
inductive Target where
  | phys (base : Nat)
  | remote (tag : Nat) (base : Nat)
  deriving DecidableEq, Repr

/-- A TLB entry (R359 to R363): `units` 256 KiB units of addresses from `vbase`. `kept`: the thread whose next gather keeps
it (R230). -/
structure TlbEntry where
  space : Space
  vbase : Nat
  units : Nat
  target : Target
  w : Bool
  x : Bool
  k : Bool
  trace : Bool
  kept : Option Nat := none
  deriving DecidableEq, Repr

/-- A walk-cache entry (R363): the non-leaf entry for an address prefix. Level 1 covers VA bits 51:48, level 2 bits 51:33. -/
structure WalkEntry where
  space : Space
  level : Nat
  pfx : Nat
  table : Nat
  deriving DecidableEq, Repr

/-- A line of a cluster's instruction cache (R12, R52), by physical line. -/
structure CodeLine where
  pline : Nat
  data : Line
  deriving DecidableEq, Repr

/-- Kinds of a copy in an L1 (R141). `none`: registered words alone. -/
inductive CopyKind where
  | none | self | sharer | exclusive | privatised
  deriving DecidableEq, Repr

/-- Where a line's home is: a physical line of this package, or a line of another device (R158). -/
inductive Home where
  | here (pline : Nat)
  | away (tag tline : Nat)
  deriving DecidableEq, Repr

/-- A store whose bytes an L1 holds dirty (R124): the thread, its place in program order (the model's clock at its issue),
the store's address, and the bytes that are still its own. -/
structure Mark where
  thread : Nat
  order : Nat
  faddr : Word
  mask : BitVec 64
  /-- FINFO of the store (R123). -/
  finfo : Word := 0
  /-- The store is an engine's: an OWN entry of an application (R180, R202). -/
  engine : Bool := false
  deriving DecidableEq, Repr

/-- A line of an L1 (R120, R141): named by virtual line and space; masks count bytes, `reg` counts words. -/
structure L1Line where
  vline : Nat
  space : Space
  home : Home
  kind : CopyKind
  valid : BitVec 64
  dirty : BitVec 64
  reg : BitVec 16
  data : Line
  w : Bool
  k : Bool
  trace : Bool
  /-- The bytes that the home granted with the copy: the byte mask of a privatised copy (R151), else the bytes that the fill
  returned as valid (R142). -/
  held : BitVec 64 := 0
  /-- Bytes whose latest store is a SELF store (R141): of the dirty ones, those that a release writes home (R131). -/
  soft : BitVec 64 := 0
  /-- The stores that made the dirty bytes, oldest first. -/
  marks : List Mark := []
  deriving DecidableEq, Repr

/-- Who owns a word at its home (R143): a core that registered it, or a scratchpad byte address that pins it. -/
inductive Owner where
  | core (who : Nat)
  | pin (who : Nat) (place : Nat)
  deriving DecidableEq, Repr

/-- The sharers of a line (R143): up to 4 exact cores; beyond 4, a bit per cluster of the package and one for all hub
cores. -/
inductive Sharers where
  | exact (cores : List Nat)
  | coarse (clusters : BitVec 1024) (hubs : Bool)
  deriving DecidableEq, Repr

/-- The line state of a directory entry (R143). -/
inductive LineState where
  | n
  | s (sharers : Sharers)
  | m (holder : Nat)
  | p (writers : List (Nat × BitVec 64))
  deriving DecidableEq, Repr

/-- Requests to a home (R146). -/
inductive ReqKind where
  | fillu | fills | upg | getm | ext | regw | rdh | wrh | atom | wbs | wbo | dereg | leave
  deriving DecidableEq, Repr

/-- Who made a request (R146, R180): the core, the context, and whether it is an engine's or came over the link. -/
structure Source where
  who : Nat
  ctx : Nat
  engine : Bool := false
  dev : Option Nat := none
  deriving DecidableEq, Repr

/-- An atomic to perform at home (R128). -/
structure AtomOp where
  op : Nat
  wide : Bool
  b : Word
  b1 : Word
  deriving DecidableEq, Repr

/-- A request to the home of a line (R146): the bytes asked for or carried, and the name of the copy to install. -/
structure Req where
  kind : ReqKind
  src : Source
  pline : Nat
  mask : BitVec 64
  data : Line := 0
  vline : Nat := 0
  space : Space := .ctx 0
  w : Bool := false
  k : Bool := false
  trace : Bool := false
  atom : Option AtomOp := none
  reg : BitVec 16 := 0
  /-- The store bytes that a RegW carries (R140, OWN). -/
  put : BitVec 64 := 0
  /-- The issuer's own copies took the bytes when the request was queued (R149, R169). -/
  issued : Bool := false
  /-- A plain SELF load of the issuer has read those bytes (R169, R175). -/
  read : Bool := false
  /-- Thread of a posted store, for STORELOST (R124), its place in program order, its address and FINFO. -/
  thread : Option Nat := none
  order : Nat := 0
  faddr : Word := 0
  finfo : Word := 0
  /-- Link request that the answer completes (R392). -/
  link : Option Nat := none
  /-- Dirty bytes that acknowledgements have brought so far, and the cores and contexts whose bytes they were. -/
  dx : BitVec 64 := 0
  gave : List (Nat × Nat) := []
  deriving DecidableEq, Repr

/-- What a home asks of an L1 (R147): give the copy up, or send dirty bytes and keep the copy as another kind; or give up
the registration of words (R148). -/
inductive Ask where
  | invalidate
  | probe (becomes : CopyKind)
  | unregister (words : BitVec 16)
  deriving DecidableEq, Repr

/-- A directory entry (R143). `used` orders entries by last use (R145). -/
structure Dir where
  st : LineState := .n
  owners : Store Owner := []
  busy : Option Req := none
  trace : Bool := false
  used : Nat := 0
  deriving DecidableEq, Repr

/-- A message of the home protocol in flight (R147): to an L1, or back with dirty bytes. -/
structure Inval where
  pline : Nat
  core : Nat
  ask : Ask
  deriving DecidableEq, Repr

/-- An acknowledgement in flight to a home, with the bytes it carries. -/
structure Ack where
  pline : Nat
  core : Nat
  ask : Ask
  mask : BitVec 64
  data : Line
  /-- CTXID of the copy that held the bytes, and whether an engine wrote some of them (R180). -/
  ctx : Nat := 0
  engine : Bool := false
  deriving DecidableEq, Repr

/-! ## Effect lists (R192 to R196) -/

/-- An entry of an effect list (R192): its 128 bits, and for a send entry the channel that its endpoint named when it was
recorded, as die and number (R274; log entry 83). -/
structure Entry where
  word : BitVec 128
  chan : Option (Nat × Nat) := none
  deriving DecidableEq, Repr

/-- The state of a list (R196); `applying` keeps the state it left, the applications outstanding and a pending drop;
`committing` is APPLYING of an ordered list, its commit counted among the applications (log entry 57). -/
inductive ListState where
  | active
  | closed
  | spilled
  | applying (left : Bool) (count : Nat) (drop : Bool)
  | committing (count : Nat) (drop : Bool)
  deriving DecidableEq, Repr

/-- An effect list (R192 to R196): resident entries oldest first, and the newest image that holds older ones (R205). -/
structure EList where
  st : ListState := .active
  owner : Nat := 0
  /-- The thread whose running activation made it (R75). -/
  maker : Option Nat := none
  ctx : Nat := 0
  entries : List Entry := []
  image : Option Nat := none
  spilled : Nat := 0
  faddr : Word := 0
  fault : Bool := false
  deriving DecidableEq, Repr

/-- A list descriptor of a cluster (R193). -/
structure Descr where
  gen : Nat := 1
  list : Option EList := none
  deriving DecidableEq, Repr

/-! ## Messages (R265 to R280) -/

/-- Where a slot lies: a core's inbox offset, with its channel on the core's die, or a system pool (R266, R280). -/
structure Slot where
  off : Nat
  size : Nat
  /-- Channel number, or `none` for a system pool. -/
  chan : Option Nat
  cls : Nat
  deriving DecidableEq, Repr

/-- A message that waits for a thread (R74, R267): its slot and header. -/
structure Pending where
  slot : Slot
  header : BitVec 128
  /-- The thread whose parked RECV the message goes to (R276). -/
  claim : Option Nat := none
  deriving DecidableEq, Repr

/-- The source of a system message (R280): a core, a die's front end, an engine by number, a die's allocator, a die's commit
arbiter, or the link agent. -/
inductive Origin where
  | core (who : Nat)
  | front (die : Nat)
  | engine (id : Nat)
  | allocator (die : Nat)
  | arbiter (die : Nat)
  | link
  deriving DecidableEq, Repr

/-- A message on its way to its reserved slot, or a system message at its source (R266, R280). -/
structure Flight where
  src : Nat
  dst : Nat
  cls : Nat
  /-- Channel and reserved slot index; `none` for a system message. -/
  place : Option (Nat × Nat)
  header : BitVec 128
  bytes : List Byte
  ep : Option (Nat × Nat) := none
  /-- The system pool, 14 or 15, and the source of a system message (R280). -/
  pool : Nat := 0
  origin : Origin := .link
  /-- CTXID of the launch the message belongs to, 0 for a system message. -/
  ctx : Nat := 0
  deriving DecidableEq, Repr

/-- An activation on a thread (R71, R75). -/
structure Activation where
  cls : Nat
  slot : Slot
  header : BitVec 128
  prio : Nat := 0
  ordered : Bool := false
  /-- MSGFREE freed its start slot (R277). -/
  freed : Bool := false
  started : Bool := false
  /-- Read signature bits that are set (R207). -/
  sig : List Nat := []
  /-- Commits of the die's arbiter when it was bound (R208). -/
  since : Nat := 0
  deriving DecidableEq, Repr

/-- A sender endpoint (R265). -/
structure Endpoint where
  chan : Option (Nat × Nat) := none
  seq : BitVec 32 := 0
  lastts : BitVec 32 := 0
  isOpen : Bool := false
  deriving DecidableEq, Repr

/-- States of a channel (R269). -/
inductive ChanState where
  | unbound | bound | open | draining | closed | error | sealed
  deriving DecidableEq, Repr

/-- A channel record (R265). `used` marks the reserved slots. -/
structure Channel where
  st : ChanState := .unbound
  receiver : Nat := 0
  remote : Option Nat := none
  cls : Nat := 0
  allow : Nat := 0
  size : Nat := 0
  pool : Nat := 0
  ord : Bool := false
  used : List Nat := []
  /-- Senders that have a slot kept for them: woken ones (R269), and those whose payload is still on its way. -/
  promised : List Nat := []
  /-- Endpoints of other devices that have sent here and are not known to be closed (R208, R269; log entry 80). -/
  feeders : List Nat := []
  launch : Nat := 0
  deriving DecidableEq, Repr

/-! ## Threads -/

/-- Control registers a thread holds in the user range (R29, R30, R72, R73, R86, R91, R232, R282). -/
structure Ctl where
  fpc : Word := 0
  fpf : Word := 0
  fpsup : Word := 0
  repcnt : BitVec 8 := 0
  rsptr : BitVec 52 := 0
  spilled : BitVec 16 := 0
  cause : Word := 0
  epc : Word := 0
  faddr : Word := 0
  finfo : Word := 0
  utrap : BitVec 52 := 0
  engflt : Word := 0
  engaddr : Word := 0
  deriving DecidableEq, Repr

/-- Control registers a thread holds in the kernel range (R72, R333, R342, R345, R358). -/
structure Kern where
  ctxid : BitVec 16 := 0
  kmode : Bool := false
  kvec : Word := 0
  kepc : Word := 0
  kstatus : BitVec 4 := 0
  kirq : Word := 0
  stktop : Word := 0
  rstop : Word := 0
  qstat : BitVec 2 := 0
  ctxstat : BitVec 7 := 0
  deriving DecidableEq, Repr

/-- Vector state of a thread (R210, R211): the grant, the pool groups held in order, v registers by number × 256 + lane,
and m1 to m7 (bit i is lane i; entry 0 is never read). -/
structure Vec where
  vlen : Nat := 8
  target : Nat := 8
  groups : List Nat := []
  v : Store (BitVec 32) := []
  m : Vector (BitVec 256) 8 := Vector.replicate 8 0
  deriving DecidableEq, Repr

/-- An enabled floating-point exception that the instruction just raised (R33, R233): the flags, those enabled, and the
fields of FINFO and FADDR. It is reported when the instruction has completed. -/
structure FpxHold where
  raised : Nat
  enabled : Nat
  vec : Bool
  lane : Nat
  addr : BitVec 52
  deriving DecidableEq, Repr

/-- A store that aborted after its thread passed it (R124): its place in program order, its address, and the LINKABORT
subcode where another device or an isolated die is the cause (R157, R394). -/
structure Lost where
  order : Nat
  faddr : Word
  link : Option Nat := none
  /-- FINFO of the store (R123). -/
  finfo : Word := 0
  deriving DecidableEq, Repr

/-- A REP unit at the thread's PC whose checks of R66 passed and whose instances run (R67, R91): its operands, and the word
and length of its follower. -/
structure RepUnit where
  count : BitVec 8
  sd : BitVec 3
  sa : BitVec 3
  sb : BitVec 3
  word : Nat
  len : Nat
  deriving DecidableEq, Repr

/-- A hardware thread (R69, R71, R73). -/
structure Thread where
  st : RunState := .dormant
  g : Vector (BitVec 64) 32 := Vector.replicate 32 0
  /-- Bit r: g[r] is empty (R57). -/
  empty : BitVec 32 := 0
  /-- Results of outstanding producers (R78), oldest first. -/
  results : List (Nat × Word) := []
  /-- Bit r: the latest result of g[r] came from the access pipe, or from the execute pipe, and may still be on its way to
  the other (R78, R80). -/
  fromAccess : BitVec 32 := 0
  fromExecute : BitVec 32 := 0
  /-- The REP unit that is under way (R67, R91). -/
  rep : Option RepUnit := none
  pc : BitVec 52 := 0
  /-- Return-stack entries on chip, newest first (R86). -/
  rstack : List Word := []
  ctl : Ctl := {}
  kern : Kern := {}
  vec : Vec := {}
  /-- EDEPTH is the length: descriptors of the ACTIVE lists, outermost first (R183). -/
  lists : List Nat := []
  act : Option Activation := none
  /-- Slots that RECV took (R267). -/
  held : List (Slot × BitVec 128) := []
  /-- Stores that aborted after the thread passed them (R124). -/
  lost : List Lost := []
  /-- The instruction at this address trapped PIPE once (R396), and whether RESUME mode 0 has sent the thread back to it. -/
  pipeMark : Option Nat := none
  retry : Bool := false
  /-- The instruction that is under way and waits for an agent: it issues again as it was fetched (log entry 17). -/
  doing : Option Instr := none
  fpx : Option FpxHold := none
  /-- Phases this thread's BARARW waits for: die, barrier, phase (R303). -/
  arrived : Option (Nat × Nat × Nat) := none
  /-- ALIGN issued here at this TIME (R85). -/
  alignAt : Option Nat := none
  /-- A custody transaction or power change of this thread is under way, or the transaction's status waits for its thread
  (R379, R413). -/
  waiting : Option (Option Nat) := none
  deriving DecidableEq, Repr

/-! ## The weave array (R235 to R257) -/

/-- What the contents of a slab are (R239); a slab with a BLOAD outstanding is LOADING. -/
inductive SlabState where
  | empty | valid | lost
  deriving DecidableEq, Repr

/-- The side record and contents of a slab (R236, R239): the BLOADs outstanding on it and the format of the latest. -/
structure Slab where
  st : SlabState := .empty
  fmt : Nat := 0
  data : List Byte := []
  sup : Nat := 0
  blocks : List Byte := []
  loads : Nat := 0
  loadFmt : Nat := 0
  deriving DecidableEq, Repr

/-- A long accumulator (R41): 640 bits in two's complement and the two side bits. -/
structure Acc where
  v : BitVec 640 := 0
  side : BitVec 2 := 0
  deriving DecidableEq, Repr

/-- States of a gang operation in the queue (R247). -/
inductive GangState where
  | queued | running | stopped
  deriving DecidableEq, Repr

/-- A gang operation (R246, R249): its number in join order, the checked operands, the A rows from an offset in region 0x1,
the progress, and the eight threads that issued it. -/
structure GangOp where
  id : Nat
  tile : Bool
  setMode : Bool
  ctx : Nat
  slab : Nat
  nstep : Nat
  row0 : Nat
  nrow : Nat
  afmt : Nat
  bfmt : Nat
  abase : Nat
  astride : Nat
  threads : List Nat
  st : GangState := .queued
  t : Nat := 0
  r : Nat := 0
  /-- The slabs of step t are still to be checked: at its start, and after GRESUME (R247, R248). -/
  unchecked : Bool := true
  /-- Bytes of its A operand that were read before their row step, by their number in the order of the row steps (R250). -/
  early : Store Byte := []
  deriving DecidableEq, Repr

/-- An arrival at the wired barrier (R246): the operands compared, and the length of the instruction. -/
structure Arrival where
  thread : Nat
  len : Nat
  shaped : Bool
  tile : Bool
  setMode : Bool
  ctx : Nat
  ga : Word
  gb : Word
  gd : Word
  deriving DecidableEq, Repr

/-- The weave array of a cluster (R12, R236, R246 to R252). -/
structure Weave where
  /-- By tile × 4096 + row × 128 + column. -/
  acc : Store Acc := []
  /-- By core × 2048 + column × 128 + slab. -/
  slabs : Store Slab := []
  arrivals : List Arrival := []
  /-- An operation whose checks passed and that waits for a place in the queue, with its arrivals (R246). -/
  checked : Option (GangOp × List Arrival) := none
  queue : List GangOp := []
  /-- The number of the operation that gathers or gathers next. -/
  nextId : Nat := 0
  drop0 : Nat := 0
  drop1 : Nat := 0
  /-- Armed reports: tile × 8 + core. -/
  armed : List Nat := []
  /-- Last BLOAD fault of each core: selector 3 word and address (R256). -/
  bfault : Store (Nat × Nat) := []
  deriving DecidableEq, Repr

/-! ## Cores, clusters, dies -/

/-- An SPMAP entry (R133, R135): local place, length, global start, context, and the pages. -/
structure MapEntry where
  ctx : Nat
  localVa : Nat
  place : Nat
  len : Nat
  globalVa : Nat
  /-- Physical line of each 64 bytes. -/
  plines : List Nat
  evicted : Bool := false
  deriving DecidableEq, Repr

/-- Registers of a core that the launch sequencer writes (R72, R117, R194, R286). -/
structure CoreRegs where
  classes : Vector Word 16 := Vector.replicate 16 0
  ecaplim : Nat := 1024
  cspbase : Word := 0
  cspsize : Word := 0
  clsbase : Word := 0
  clssize : Word := 0
  allocbase : Word := 0
  kptroot : Word := 0
  deriving DecidableEq, Repr

/-- Message state of a core (R74, R265 to R268, R280). -/
structure Inbox where
  /-- Headers by slot offset (R268). -/
  headers : Store (BitVec 128) := []
  pending : List Pending := []
  eps : Store Endpoint := []
  /-- Offsets of system-pool slots in use, and the pools' SEQ counters (R280). -/
  sysUsed : List Nat := []
  seq14 : BitVec 32 := 0
  seq15 : BitVec 32 := 0
  /-- Threads parked in RECV with their classes, in the order they parked (R276). -/
  waiters : List (Nat × Nat) := []
  deriving DecidableEq, Repr

/-- A core (R13, R16). -/
structure Core where
  regs : CoreRegs := {}
  dict : Store (BitVec 32) := []
  bank : Store (BitVec 32) := []
  l1 : List L1Line := []
  tlb : List TlbEntry := []
  maps : List MapEntry := []
  inbox : Inbox := {}
  /-- The launch and stage that hold the core (R314). -/
  held : Option (Nat × Nat) := none
  killed : Bool := false
  /-- An undeclared kill holds the core (R402). -/
  undeclared : Bool := false
  /-- A double fault stopped the core (R346). -/
  halted : Bool := false
  /-- Stores whose bytes the core lost when it was cut off from their home: the next release of the core reports them
  (R157). -/
  lost : List Lost := []
  /-- Pending interrupts, oldest first, as KIRQ words (R346). -/
  irqs : List Word := []
  /-- Round-robin order of the threads, front next (R76, R109). -/
  order : List Nat := [0, 1, 2, 3, 4, 5, 6, 7]
  deriving DecidableEq, Repr

/-- A cluster (R12). -/
structure Cluster where
  /-- Pool group of 8 lanes → thread that holds it (R210). -/
  pool : Store Nat := []
  descrs : Store Descr := []
  weave : Weave := {}
  tlb : List TlbEntry := []
  /-- The instruction cache of the fetch port (R12, R52), oldest first. -/
  code : List CodeLine := []
  deriving DecidableEq, Repr

/-- States of a group (R288). -/
inductive GroupState where
  | free | bound | broken
  deriving DecidableEq, Repr

/-- A member's arrival at a reduction (R296). -/
structure GredArrival where
  who : Nat
  thread : Nat
  src : Word
  dst : Word
  ctl : Word
  obj : Word
  deriving DecidableEq, Repr

/-- A reduction whose result is being written (R296): the pieces that are left, as member, address and bytes, and the first
fault. -/
structure RedWork where
  todo : List (Nat × Nat × List Byte)
  fault : Option Trap := none
  deriving DecidableEq, Repr

/-- A group (R288): the members in WHO order. -/
structure Group where
  st : GroupState := .free
  ctx : Nat := 0
  members : List Nat := []
  /-- Open reductions, oldest first (R296). -/
  reds : List (List GredArrival) := []
  /-- The oldest of them, once its result is known. -/
  work : Option RedWork := none
  launch : Nat := 0
  deriving DecidableEq, Repr

/-- States of a barrier (R298). -/
inductive BarState where
  | free | idle | filling | broken
  deriving DecidableEq, Repr

/-- A barrier record (R298). -/
structure Barrier where
  st : BarState := .free
  ctx : Nat := 0
  group : Nat := 0
  count : Nat := 0
  phase : BitVec 32 := 0
  arr : List Nat := []
  last : Store (BitVec 32) := []
  wd : Nat := 1000000
  deadline : Nat := 0
  /-- TIME at which the owning context stopped; the watchdog is paused (R300). -/
  paused : Option Nat := none
  launch : Nat := 0
  deriving DecidableEq, Repr

/-- States of a queue the front end knows (R331). -/
inductive QState where
  | idle | ready | resident | active | waiting | error | frozen
  deriving DecidableEq, Repr

/-- What a queue waits for before its next entry (R326, R331). -/
inductive QWait where
  | count (obj : Nat) (target : Nat)
  | launches
  deriving DecidableEq, Repr

/-- A command taken and not finished starting (R329). -/
structure Command where
  kind : Nat
  bytes : List Byte
  idx : Nat
  deriving DecidableEq, Repr

/-- A queue at its front end (R324 to R335), keyed by CTXID × 512 + queue number. -/
structure Queue where
  st : QState := .idle
  prio : Nat := 0
  notify : Bool := false
  /-- The front end has begun to examine it and waits for a memory (R328). -/
  looking : Bool := false
  /-- Its header block, once a SWAPIN has found it (R331). -/
  hdr : Option Nat := none
  size : Nat := 0
  base : Nat := 0
  rd : BitVec 32 := 0
  inHand : Option Command := none
  wait : Option QWait := none
  /-- Launches and COPY operations started and not ended, oldest first (R326). -/
  live : List Nat := []
  /-- The last LAUNCH of the queue (R309 DEP). -/
  lastLaunch : Option Nat := none
  deriving DecidableEq, Repr

/-- States of the die's migration (R369). -/
inductive MigState where
  | idle | running | done
  deriving DecidableEq, Repr

/-- The migration engine of a die (R369), and whether the latest GO was refused. -/
structure Migration where
  st : MigState := .idle
  refused : Bool := false
  old : Nat := 0
  new : Nat := 0
  copied : Nat := 0
  obj : Word := 0
  thread : Nat := 0
  deriving DecidableEq, Repr

/-- A committed line set of the die's arbiter (R208). -/
structure Commits where
  /-- Commit number and virtual line with its space, newest first. -/
  lines : List (Nat × Nat) := []
  count : Nat := 0
  /-- Highest key committed, by channel. -/
  high : Store (List Nat) := []
  /-- Latest key received from each endpoint, by channel × 2^30 + sender × 64 + endpoint; a sender of another device counts
  from 2^14 × (tag + 1) on. -/
  latest : Store (List Nat) := []
  deriving DecidableEq, Repr

/-- A list handed to the commit arbiter (R208): the thread's activation and its list. -/
structure Awaiting where
  who : Nat
  act : Activation
  descr : Nat
  key : List Nat
  chan : Nat
  ctx : Nat
  htid : Nat
  /-- The entries of a commit that has begun, and how many are performed. -/
  work : Option (List Entry) := none
  pos : Nat := 0
  /-- VA of the first entry that aborted (R403). -/
  firstAbort : Option Nat := none
  /-- GEN of its descriptor (R193): the descriptor is another list's once it has moved on. -/
  gen : Nat := 0
  deriving DecidableEq, Repr

/-- Power states (R412). -/
inductive PState where
  | p0 | p1 | p2 | p3 | trip
  deriving DecidableEq, Repr

/-- Registers of a die (R121, R181, R340, R369, R370, R389, R401, R402, R404, R412). -/
structure DieRegs where
  ctxroot : Word := 0
  l2mode : Word := 0
  tracectl : Word := 0
  migobj : Word := 0
  swpool : Word := 0
  retbase : Word := 0
  killres : Word := 0
  devtag : Word := 0
  domtab : Word := 0
  errce : Word := 0
  errue : Word := 0
  errpipe : Word := 0
  errkill : Word := 0
  errstore : Word := 0
  errdbl : Word := 0
  power : PState := .p0
  /-- A PWRSET change still under way (R413). -/
  pchange : Option PState := none
  tripClear : Bool := false
  deriving DecidableEq, Repr

/-- A compute die, or as number 4 the hub die's own copies of die registers. -/
structure Die where
  regs : DieRegs := {}
  chans : Store Channel := []
  groups : Store Group := []
  bars : Store Barrier := []
  /-- L3 TLBs by L2 slice (R14, R363). -/
  l3 : Store (List TlbEntry) := []
  /-- Walk caches by walker, slice × 2 + walker (R14, R363). -/
  walks : Store (List WalkEntry) := []
  /-- Custody-check caches by walker: side and frame of each grant (R374). -/
  grants : Store (List (Bool × Nat)) := []
  queues : Store Queue := []
  /-- Round-robin turn of the front end at each priority level: the queue chosen last (R332). -/
  turn : Store Nat := []
  traceSeq : Store Nat := []
  commits : Commits := {}
  awaiting : List Awaiting := []
  /-- Allocator table entries with ALLOCLOW sent and not re-armed (R287). -/
  lowSent : List Nat := []
  mig : Migration := {}
  isolated : Bool := false
  deriving DecidableEq, Repr

/-! ## Engines (R171) -/

/-- What an engine does: the operands it was issued with. `put`: the bytes that PUTH has read; the note's die, channel and
reserved slot. `gadd`: the completion add of a member of a reduction. `bload`: it waits for the gang operations numbered
below `before` (R245). -/
inductive EngOp where
  | copy (src dst len : Nat)
  | copys (src dst : List Byte)
  | put (src dst len : Nat) (data : Option (List Byte)) (note : Option (Nat × Nat × Nat)) (ep : Nat)
  | bload (word org : Word) (record : List Byte) (before : Nat)
  | eapply (descr : Option Nat) (image : Option Nat) (ordered : Bool)
  | gmcast (die group : Nat) (src off len : Nat) (members : List Nat)
  | gadd (die group : Nat)
  | alloc (reg : Nat) (size : Nat)
  | free (block size : Nat)
  | tlbi (ctx start count : Nat) (whole : Bool)
  | qcopy (src dst len : Nat) (queue idx : Nat)
  deriving DecidableEq, Repr

/-- An engine operation in flight (R136, R171): the issuing thread, its completion object, and where it translates. -/
structure Engine where
  id : Nat
  op : EngOp
  thread : Nat
  obj : Word
  fn : Nat
  ctx : Nat
  user : Bool
  launch : Option Nat := none
  /-- The entries of an effect list as read and checked, how many are performed, and the first abort among them (R201). -/
  work : Option (List Entry) := none
  pos : Nat := 0
  /-- The operation's fault, and whether it has only its completion add left. -/
  failed : Option Trap := none
  /-- It sets FAULT for a reason that is no trap: a killed member or unequal control words (R290, R296). -/
  faulty : Bool := false
  finished : Bool := false
  deriving DecidableEq, Repr

/-! ## Launches and contexts -/

/-- States of a launch (R320). -/
inductive LaunchState where
  | queued | binding | releasing | running | draining | done | cancelled | faulted
  deriving DecidableEq, Repr

/-- A stage of a launch (R310, R316). -/
structure Stage where
  cores : List Nat
  weave : Bool
  /-- It receives a start message. -/
  starts : Bool := false
  ended : Bool := false
  deriving DecidableEq, Repr

/-- A launch (R309 to R320). -/
structure Launch where
  st : LaunchState := .queued
  /-- The channels that its start messages name, by index (R313). -/
  starts : List Nat := []
  ctx : Nat
  die : Nat
  queue : Nat
  record : Nat
  dep : Bool := false
  early : Bool := false
  pred : Option Nat := none
  trign : Nat := 1
  triggers : Nat := 0
  failing : Bool := false
  cancelling : Bool := false
  stages : List Stage := []
  /-- Channels bound: die and number, in table order. -/
  chans : List (Nat × Nat) := []
  groups : List (Nat × Nat) := []
  bars : List (Nat × Nat) := []
  /-- Start messages not yet sent: channel index and bytes. -/
  msgs : List (Nat × List Byte) := []
  /-- Start messages sent so far: the send sequence of the front end's endpoint. -/
  sent : Nat := 0
  /-- Index of its queue entry. -/
  entry : Nat := 0
  status : Nat := 0
  /-- DONEOBJ of its header, once that has been read (R309). -/
  doneobj : Option Nat := none
  /-- It began to fail or to be cancelled, and the front end has still to freeze its queue and to cancel its early dependents
  (R318, R320). -/
  unsaid : Bool := false
  deriving DecidableEq, Repr

/-- What a stop saves of a core (R352) and what EVICT adds (R354): the pool slices of its threads, by thread key; the
core's record, its threads, its scratchpad, its part of region 0x1, its base slices, its inbox, and its cluster's weave
array. -/
structure Saved where
  ctx : Nat
  who : Nat
  lanes : List (Nat × Mem) := []
  evicted : Option (Core × Weave) := none
  threads : List (Nat × Thread) := []
  stores : Mem := []
  /-- Another launch has bound the core since EVICT (R354). -/
  rebound : Bool := false
  /-- KILLCORE killed the core, and the block is discarded (R353). -/
  dropped : Bool := false
  deriving DecidableEq, Repr

/-- A stop under way (R351): the object, the issuing thread's translation, and whether a save write was aborted. -/
structure Stopping where
  thread : Nat
  obj : Word
  user : Bool
  tctx : Nat
  aborted : Bool := false
  deriving DecidableEq, Repr

/-! ## Frames -/

/-- States of a custody record (R372). -/
inductive FrameState where
  | free | owned | offered | lent | recalling | revoking
  deriving DecidableEq, Repr

/-- What a revocation does when its drain ends (R375, R376). -/
inductive After where
  | none
  | free
  | accept (zero : Bool)
  | back (overrun : Bool)
  deriving DecidableEq, Repr

/-- The five transactions (R376). -/
inductive Deal where
  | offer | accept | lend | recall | give
  deriving DecidableEq, Repr

/-- A transaction that has arrived at the FCU while its frame is REVOKING (R376): its thread, its side, its argument word. -/
structure Turn where
  thread : Nat
  deal : Deal
  side : Side
  arg : BitVec 64
  deriving DecidableEq, Repr

/-- A custody record (R372). The default is FREE with OWNER 0. -/
structure Custody where
  st : FrameState := .free
  owner : Option Side := none
  borrower : Option Side := none
  keep : Bool := false
  interval : BitVec 32 := 0
  deadline : BitVec 64 := 0
  /-- The side being revoked and what follows (REVOKING only), and the thread whose transaction waits for it. -/
  revoked : Option Side := none
  after : After := .none
  waiter : Option Nat := none
  /-- TIME of the transaction, or the DEADLINE, that began the revocation: its notice carries it (R377). -/
  began : BitVec 64 := 0
  /-- The transactions that wait, in arrival order (R376). -/
  line : List Turn := []
  deriving DecidableEq, Repr

/-! ## Links -/

/-- States of a port or rim path (R388). -/
inductive LinkState where
  | down | training | up | degraded | failed
  deriving DecidableEq, Repr

/-- A request to another device that has not been answered (R392, R393). -/
structure LinkWait where
  id : Nat
  thread : Nat
  /-- WHO: the requesting core; SRCTAG: this device's tag. -/
  who : Nat
  src : Nat := 0
  op : LinkOp
  tag : Nat
  va : Nat
  len : Nat
  data : List Byte := []
  atop : Nat := 0
  posted : Bool := false
  ctx : Nat := 0
  sent : Nat := 0
  faddr : Word := 0
  /-- The store's FINFO (R123) and its place in program order (R124). -/
  finfo : Word := 0
  order : Nat := 0
  answer : Option (Nat × List Byte) := none
  deriving DecidableEq, Repr

/-- An answer this device sent to another (R392). -/
structure LinkAnswer where
  id : Nat
  tag : Nat
  status : Nat
  data : List Byte
  deriving DecidableEq, Repr

/-- A message sent to another device: SEND, PUT note or error message (R392). -/
structure LinkSend where
  tag : Nat
  chan : Nat
  header : BitVec 128
  bytes : List Byte
  deriving DecidableEq, Repr

/-- Link state of the package (R388 to R394). -/
structure Links where
  ports : Vector LinkState 16 := Vector.replicate 16 .down
  /-- Rim paths: route r has paths 2r and 2r + 1 (R10, R389). -/
  rims : Vector LinkState 20 := Vector.replicate 20 .down
  waits : List LinkWait := []
  /-- Answered requests that the attempt under way has taken (log entry 17). -/
  asked : List Nat := []
  answers : List LinkAnswer := []
  sends : List LinkSend := []
  /-- Requests from other devices waiting at a home, by id: the source tag. -/
  incoming : Store Nat := []
  nextId : Nat := 0
  /-- Flits resent: by port, and by 16 + rim route (R389). -/
  resent : Store (BitVec 32) := []
  /-- Ports and paths that became FAILED and have not been UP since (R390). -/
  wasFailed : List Nat := []
  deriving DecidableEq, Repr

/-! ## Environment -/

/-- The caches whose entries have parity and hold no data of their own (R398): a core's TLB, a cluster's, a die's by slice,
the walk caches and custody-check caches by die and walker, and a cluster's instruction cache. -/
inductive CacheOf where
  | tlb (who : Nat)
  | tlb2 (cl : Nat)
  | tlb3 (die slice : Nat)
  | walk (die walker : Nat)
  | grants (die walker : Nat)
  | code (cl : Nat)
  deriving DecidableEq, Repr

/-- Checker events of the hardware that a step may meet (R395, R398, R399): plain data that the model's run supplies. -/
inductive Upset where
  /-- A checker mismatch at the next instruction of a thread (R395): the unit's subcode and the lane. -/
  | pipe (thread unit lane : Nat)
  /-- A register or dictionary word of a core becomes uncorrectable (R398): the core is killed. -/
  | badCore (who : Nat)
  /-- A slab becomes uncorrectable (R398): core × 2048 + column × 128 + slab of a cluster. -/
  | badSlab (cl slab : Nat)
  /-- A correctable error counted on a die (R398, R404). -/
  | correctable (die : Nat)
  /-- A message from another device arrives for a channel of a die: device tag, sender, its endpoint, timestamp, sequence,
  NOTE, ERR, payload. -/
  | remoteSend (die chan tag who ep ts seq : Nat) (note err : Bool) (bytes : List Byte)
  /-- A sender endpoint of another device closes (R269). -/
  | remoteClosed (die chan tag who ep : Nat)
  /-- A memory line becomes uncorrectable (R399). -/
  | badLine (pline : Nat)
  /-- A local-store byte address becomes uncorrectable (R399). -/
  | badLocal (place : Nat)
  /-- A checker mismatch at a row step of a cluster's weave array, and whether the repeated step mismatches too (R397). -/
  | weave (cl : Nat) (twice : Bool)
  /-- An entry of a list in a cluster's effect store becomes uncorrectable (R398): descriptor and index. -/
  | badEntry (cl descr i : Nat)
  /-- A line of a core's L1 fails its parity (R398): its index. -/
  | badL1 (who i : Nat)
  /-- An entry of another cache fails its parity (R398): its index. -/
  | parity (c : CacheOf) (i : Nat)
  /-- A function fails its bring-up (R410). -/
  | fails (f : ReadyFn)
  /-- The junction temperature of a die falls below 100 °C, or is at or above it again (R413, R414). -/
  | cool (die : Nat)
  | warm (die : Nat)
  deriving DecidableEq, Repr

/-- One move of an agent, as the model's run supplies it (log entry 3). -/
inductive Act where
  | issue (thread : Nat)
  | event (i : Instr)
  | upset (u : Upset)
  deriving DecidableEq, Repr

/-- The model's own fields: which thread issues, the moves the run supplies, the choices of hardware, and counters
(log entries 3 to 6). -/
structure Run where
  cur : Nat := 0
  agenda : List Act := []
  oracle : List Nat := []
  lapse : List Nat := []
  free : Nat := 0
  clock : Nat := 0
  /-- Threads whose latest instruction waits for an agent and issues again (log entry 17). -/
  stalled : List Nat := []
  /-- Checker mismatches to come: thread, unit and lane. -/
  pipe : List (Nat × Nat × Nat) := []
  deriving DecidableEq, Repr

/-- Home protocol state of the package (R143 to R155). -/
structure Homes where
  dir : Store Dir := []
  reqs : List Req := []
  invals : List Inval := []
  acks : List Ack := []
  deriving DecidableEq, Repr

/-- Bring-up state (R405 to R409). -/
structure Boot where
  /-- Far memory fitted behind each die, in bytes (R9): 512 GiB for TRC-880-M2 (log entry 7). -/
  farBytes : Nat := 512 * 2 ^ 30
  minver : Nat := 0
  rdycore : Word := 0
  rdymem : Word := 0
  rdylink : Word := 0
  rdyeng : Word := 0
  bootstat : Word := 0
  /-- DEVENTRY of the booted image, for a die that comes up later (R407, R412). -/
  deventry : Word := 0
  /-- Functions whose bring-up failed (R410). -/
  failed : List ReadyFn := []
  /-- Key hashes fused at manufacture (R406): 48 bytes for ECDSA, then the one for LMS. -/
  fuses : List Byte := []
  /-- The ROM has looked at the boot flash. -/
  romDone : Bool := false
  /-- Answers of the SPDM responder (R411), oldest first. -/
  spdmOut : List (List Byte) := []
  deriving DecidableEq, Repr

/-- Custody unit (R371 to R377). -/
structure Fcu where
  records : Store Custody := []
  ringHost : Word := 0
  ringDevice : Word := 0
  overruns : Nat := 0
  dropped : Nat := 0
  deriving DecidableEq, Repr

/-- A background walk of a gather (R230). -/
structure Walk where
  thread : Nat
  space : Space
  va : Nat
  deriving DecidableEq, Repr

/-- The machine. -/
structure State where
  time : Nat := 0
  mem : Mem := []
  threads : Store Thread := []
  cores : Store Core := []
  clusters : Store Cluster := []
  dies : Store Die := []
  homes : Homes := {}
  fcu : Fcu := {}
  /-- Lines detected as uncorrectable (R399), and lines that will be found so at their next read. -/
  bad : List Nat := []
  latent : List Nat := []
  /-- The same for local stores, by place / 8. -/
  badLocal : List Nat := []
  latentLocal : List Nat := []
  /-- Notify bits set: CTXID × 512 + queue (R328); and the notify blocks known: CTXID and physical address. -/
  notified : List Nat := []
  notifyAt : List (Nat × Nat) := []
  engines : List Engine := []
  engineSeq : Nat := 0
  flights : List Flight := []
  sysmsgs : List Flight := []
  /-- Error messages of killed cores that wait for a slot (R281): core and endpoint. -/
  errmsgs : List (Nat × Nat) := []
  launches : Store Launch := []
  walks : List Walk := []
  saved : List Saved := []
  stopping : Store Stopping := []
  links : Links := {}
  boot : Boot := {}
  run : Run := {}
  deriving DecidableEq, Repr

/-! ## Numbers of agents (R11, R15, R16) and reset -/

/-- A hub core's WHO has bit 13 set (R16). -/
def isHub (who : Nat) : Bool := decide (0x2000 ≤ who)

/-- The device-kernel core of a die is core 0 of its cluster 0 (R15). -/
def isDevKernel (who : Nat) : Bool := !isHub who && who % 2048 == 0

/-- A WHO value of the package (R11, R16). -/
def validWho (who : Nat) : Bool := decide (who < 0x2000) || (isHub who && decide (who < 0x2010))

/-- The die of a core; 4 for a hub core, which has none. -/
def dieOf (who : Nat) : Nat := if isHub who then 4 else who / 2048

/-- A thread before anything ran on it (R407, R408, R345, R215; log entry 1): DORMANT; KERNEL on device-kernel and hub
cores; 32 lanes on a hub core. -/
def Thread.fresh (key : Nat) : Thread :=
  let who := key / 8
  { kern := { kmode := isHub who || isDevKernel who }
    vec := if isHub who then { vlen := 32, target := 32 } else {} }

/-- A thread by its key, WHO × 8 + HTID. -/
def State.thread (s : State) (key : Nat) : Thread := s.threads.get key (Thread.fresh key)

/-- Replaces a thread. -/
def State.setThread (s : State) (key : Nat) (t : Thread) : State := { s with threads := s.threads.put key t }

/-- A core by its WHO. -/
def State.core (s : State) (who : Nat) : Core := s.cores.get who {}

/-- Replaces a core. -/
def State.setCore (s : State) (who : Nat) (c : Core) : State := { s with cores := s.cores.put who c }

/-- A cluster by WHO / 8. -/
def State.cluster (s : State) (cl : Nat) : Cluster := s.clusters.get cl {}

/-- Replaces a cluster. -/
def State.setCluster (s : State) (cl : Nat) (c : Cluster) : State := { s with clusters := s.clusters.put cl c }

/-- A die by number; 4 is the hub die. -/
def State.die (s : State) (d : Nat) : Die := s.dies.get d {}

/-- Replaces a die. -/
def State.setDie (s : State) (d : Nat) (x : Die) : State := { s with dies := s.dies.put d x }

/-- The machine right after package reset, before the boot ROM runs (R388, R407, R408; log entries 1, 2 and 8): TIME 0, every
record at its reset value, every link in training, memory with nothing listed, no thread started. -/
def State.reset : State :=
  { links := { ports := Vector.replicate 16 .training, rims := Vector.replicate 20 .training } }

end Sys2Proof.Machine
end

