-- ==== Sys2Proof/Machine/Ops.lean ====
section
/-! DEFINITION. The named operations over registers, local stores, messages and traps: the monad of a meaning, taking a
trap and entering the local vector, system messages, interrupts, and the counters of R404. -/

namespace Sys2Proof.Machine

/-- A meaning: it changes the state and completes, or ends in a `Stop` that keeps what was already performed (R5). -/
abbrev M := EStateM Stop State

/-! ## Access to the state -/

/-- The thread that issues. -/
def me : M Nat := do return (← get).run.cur

/-- The core that issues. -/
def myWho : M Nat := do return (← me) / 8

/-- A thread record. -/
def getThread (k : Nat) : M Thread := do return (← get).thread k

/-- Changes a thread record. -/
def modThread (k : Nat) (f : Thread → Thread) : M Unit := modify fun s => s.setThread k (f (s.thread k))

/-- The issuing thread's record. -/
def myThread : M Thread := do getThread (← me)

/-- Changes the issuing thread's record. -/
def modMe (f : Thread → Thread) : M Unit := do modThread (← me) f

/-- A core record. -/
def getCore (w : Nat) : M Core := do return (← get).core w

/-- Changes a core record. -/
def modCore (w : Nat) (f : Core → Core) : M Unit := modify fun s => s.setCore w (f (s.core w))

/-- A cluster record. -/
def getCluster (c : Nat) : M Cluster := do return (← get).cluster c

/-- Changes a cluster record. -/
def modCluster (c : Nat) (f : Cluster → Cluster) : M Unit := modify fun s => s.setCluster c (f (s.cluster c))

/-- A die record. -/
def getDie (d : Nat) : M Die := do return (← get).die d

/-- Changes a die record. -/
def modDie (d : Nat) (f : Die → Die) : M Unit := modify fun s => s.setDie d (f (s.die d))

/-- Changes a die's registers. -/
def modDieRegs (d : Nat) (f : DieRegs → DieRegs) : M Unit := modDie d fun x => { x with regs := f x.regs }

/-- Ends the instruction with a trap. -/
def trap {α : Type} (cause : Cause) (sub : Nat := 0) (faddr : Word := 0) (finfo : Word := 0) : M α :=
  throw (.trap { cause := cause, sub := sub, faddr := faddr, finfo := finfo })

/-- Parks the thread; the instruction is not performed. -/
def park {α : Type} (r : Reason) : M α := throw (.park r)

/-- Runs a computation; where it traps, answers the trap. What it performed before the trap stays. -/
def attempt {α : Type} (m : M α) : M (Except Trap α) := fun s =>
  match m s with
  | .ok a s' => .ok (.ok a) s'
  | .error (.trap t) s' => .ok (.error t) s'
  | .error e s' => .error e s'

/-- A choice of the hardware among `n` outcomes that the text lists (log entry 4): the oracle's next number, or 0. -/
def choose (n : Nat) : M Nat := do
  let s ← get
  match s.run.oracle with
  | [] => return 0
  | c :: cs =>
    set { s with run := { s.run with oracle := cs } }
    return c % n

/-- A value the spec leaves undefined (log entry 6). -/
def freeWord : M Word := do
  let s ← get
  set { s with run := { s.run with free := s.run.free + 1 } }
  return Config.freeWord s.run.free

/-- A 512-bit value the spec leaves undefined (log entry 6). -/
def freeLine : M Line := do
  let s ← get
  set { s with run := { s.run with free := s.run.free + 1 } }
  return Config.freeLine s.run.free

/-! ## Registers -/

/-- Register `r` of a thread: g0 reads as zero (R57). -/
def Thread.reg (t : Thread) (r : Reg) : Word := if r = 0 then 0 else t.g[r.toNat]

/-- The register that a parked WAITC or RECV targets: it is empty while the thread is parked (R78, R81). -/
def RunState.target : RunState → Option Nat
  | .parked (.waitc _ d) | .parked (.recv _ d) | .stopped (some (.waitc _ d)) _ | .stopped (some (.recv _ d)) _ => some d
  | _ => none

/-- Whether a register is empty; g0 is always full (R57). -/
def Thread.isEmpty (t : Thread) (r : Reg) : Bool :=
  r != 0 && (t.empty.getLsbD r.toNat || t.st.target == some r.toNat)

/-- The bit of a register. -/
def regBit (r : Reg) : BitVec 32 := (1 : BitVec 32) <<< r.toNat

/-- Writes a register full; a write to g0 is discarded (R57). -/
def Thread.setReg (t : Thread) (r : Reg) (v : Word) : Thread :=
  if r = 0 then t
  else { t with g := t.g.set r.toNat v, empty := t.empty &&& ~~~regBit r,
                fromAccess := t.fromAccess &&& ~~~regBit r, fromExecute := t.fromExecute &&& ~~~regBit r }

/-- Whether the latest result of a register came from the other pipe than `p` (the access pipe) and may be outstanding
(R78). -/
def Thread.crosses (t : Thread) (p : Bool) (r : Reg) : Bool :=
  r != 0 && (if p then t.fromExecute else t.fromAccess).getLsbD r.toNat

/-- A register's latest result came from pipe `p` (R78). -/
def Thread.madeBy (t : Thread) (p : Bool) (r : Reg) : Thread :=
  if r = 0 then t
  else if p then { t with fromAccess := t.fromAccess ||| regBit r } else { t with fromExecute := t.fromExecute ||| regBit r }

/-- The other pipe has a register's latest result. -/
def Thread.crossed (t : Thread) (r : Reg) : Thread :=
  { t with fromAccess := t.fromAccess &&& ~~~regBit r, fromExecute := t.fromExecute &&& ~~~regBit r }

/-- Marks a register empty with its producer's result outstanding (R78). -/
def Thread.outstanding (t : Thread) (r : Reg) (v : Word) : Thread :=
  if r = 0 then t
  else { t with empty := t.empty ||| regBit r, results := t.results ++ [(r.toNat, v)] }

/-- Writes every outstanding result (R81). -/
def Thread.settle (t : Thread) : Thread :=
  let t' := t.results.foldl (fun u p => u.setReg (BitVec.ofNat 5 p.1) p.2) t
  { t' with results := [], fromAccess := 0, fromExecute := 0 }

/-- Reads a source register in the access pipe (`p`) or the execute pipe: an empty one parks the thread, or with empty-bit 1
raises EMPTY (R57). A result of the other pipe may have come or may still be outstanding (R78, R80). -/
def readIn (p : Bool) (r : Reg) (e : Bool) : M Word := do
  let t ← myThread
  let wait := if e then trap .empty else park (.empty r.toNat)
  if t.isEmpty r then wait
  if t.crosses p r then
    match ← choose 2 with
    | 0 => modMe fun t => t.crossed r
    | _ =>
      modMe fun t => (t.crossed r).outstanding r (t.reg r)
      wait
  return t.reg r

/-- Reads a source register in the execute pipe (R57, R82). -/
def readG (r : Reg) (e : Bool) : M Word := readIn false r e

/-- Reads a source register that no empty-bit governs (R57). -/
def readP (r : Reg) : M Word := readG r false

/-- A destination that an earlier producer still targets parks the thread (R79). -/
def checkDest (r : Reg) : M Unit := do
  let t ← myThread
  if t.isEmpty r then park (.dest r.toNat)

/-- Writes a destination full, as a result of pipe `p` (R78). -/
def writeIn (p : Bool) (r : Reg) (v : Word) : M Unit := modMe fun t => (t.setReg r v).madeBy p r

/-- Writes a destination full in the execute pipe. -/
def writeG (r : Reg) (v : Word) : M Unit := writeIn false r v

/-- Gives a long-latency producer's result (R78): marked empty until written back, or written at once (R80). -/
def produce (r : Reg) (v : Word) : M Unit := do
  match ← choose 2 with
  | 0 => modMe fun t => t.outstanding r v
  | _ => modMe fun t => t.setReg r v

/-- The address after an instruction of `len` bytes, modulo 2^52 (R48). -/
def after (pc : BitVec 52) (len : Nat) : BitVec 52 := pc + BitVec.ofNat 52 len

/-- Moves past an instruction of `len` bytes. -/
def advance (len : Nat) : M Unit := modMe fun t => { t with pc := after t.pc len }

/-- A body that falls through to the next instruction. -/
def straight (len : Nat) (m : M Unit) : M Unit := do m; advance len

/-- KERNEL mode of the issuing thread (R345). -/
def inKernel : M Bool := do return (← myThread).kern.kmode

/-- Collecting mode of the issuing thread (R183). -/
def collecting : M Bool := do return !(← myThread).lists.isEmpty

/-- EBAD FORBID in collecting mode (R186). -/
def forbidCollecting : M Unit := do
  if ← collecting then trap .ebad 3

/-! ## Byte strings -/

/-- The low `n` bytes of a number, lowest first (R3). -/
def leBytes : Nat → Nat → List Byte
  | 0, _ => []
  | n + 1, v => BitVec.ofNat 8 v :: leBytes n (v / 256)

/-- The number that bytes hold, lowest first (R3). -/
def leNat : List Byte → Nat
  | [] => 0
  | b :: bs => b.toNat + 256 * leNat bs

/-- `len` bytes of a string from offset `o`, as a number. -/
def bytesAt (bs : List Byte) (o len : Nat) : Nat := leNat ((bs.drop o).take len)

/-- Bits `hi : lo` of a register as a number (R2). -/
def bits (w : Word) (hi lo : Nat) : Nat := w.toNat / 2 ^ lo % 2 ^ (hi - lo + 1)

/-- The 52 address bits of a register (R113). -/
def vaOf (w : Word) : Nat := w.toNat % 2 ^ 52

/-! ## Where bytes are stored -/

/-- Address of a byte of near or far memory: its physical address. -/
def placePhys (pa : Nat) : Nat := pa

/-- Address of a byte of a core's scratchpad (R13). -/
def placeScratch (who off : Nat) : Nat := 2 ^ 44 + who * 2 ^ 16 + off

/-- Address of a byte of a cluster's shared memory (R12). -/
def placeShared (cl off : Nat) : Nat := 2 ^ 45 + cl * 2 ^ 20 + off

/-- Address of a byte of a die's chip scratchpad (R14). -/
def placeChip (die off : Nat) : Nat := 2 ^ 46 + die * 2 ^ 26 + off

/-- Address of a byte of a core's base lane slices (R214). -/
def placeBase (who off : Nat) : Nat := 2 ^ 47 + who * 2 ^ 13 + off

/-- Address of a byte of a pool group's eight lane slices (R214). -/
def placePool (cl group off : Nat) : Nat := 2 ^ 48 + cl * 2 ^ 18 + group * 2 ^ 13 + off

/-- Address of a byte of a core's inbox (R266). -/
def placeInbox (who off : Nat) : Nat := 2 ^ 49 + who * 2 ^ 16 + off

/-- Address of a byte of the boot flash (R405). -/
def placeFlash (off : Nat) : Nat := 2 ^ 50 + off

/-- Wakes a thread that is parked for a reason that satisfies `p`: the parked instruction issues again (R70). A stopped
thread forgets the park in the same way and stays stopped. -/
def Thread.wakeIf (p : Reason → Bool) (t : Thread) : Thread :=
  match t.st with
  | .parked r => if p r then { t with st := .runnable } else t
  | .stopped (some r) f => if p r then { t with st := .stopped none f } else t
  | _ => t

/-- Wakes every thread of the package parked for a reason that satisfies `p`. -/
def wakeAll (p : Reason → Bool) : M Unit :=
  modify fun s => { s with threads := s.threads.map fun kt => (kt.1, kt.2.wakeIf p) }

/-- Whether a WAITC object at `place` shares a byte with the `n` bytes from `a` on (R137). -/
def waitsOn (a n : Nat) : Reason → Bool
  | .waitc place _ => decide (place < a + n) && decide (a < place + 8)
  | _ => false

/-- Stores bytes at a place and wakes the threads whose WAITC object they touch (R137). -/
def putBytes (a : Nat) (bs : List Byte) : M Unit := do
  modify fun s => { s with mem := s.mem.setBytes a bs }
  wakeAll (waitsOn a bs.length)

/-- Reads bytes at a place. -/
def takeBytes (a n : Nat) : M (List Byte) := do return (← get).mem.bytes a n

/-! ## Counters, messages, interrupts -/

/-- Adds one to a 32-bit counter that saturates (R404, R377). -/
def satInc (w : Word) : Word := if w.toNat ≥ 2 ^ 32 - 1 then BitVec.ofNat 64 (2 ^ 32 - 1) else w + 1

/-- Adds one to a 64-bit counter that saturates (R404). -/
def satInc64 (w : Word) : Word := if w = BitVec.allOnes 64 then w else w + 1

/-- Queues a system message at its source for a pool of a device-kernel core, with the class of its header (R280); `src` is
the WHO of its header. -/
def sendSystemTo (origin : Origin) (src dst pool cls : Nat) (payload : List Byte) : M Unit :=
  modify fun s =>
    { s with sysmsgs := s.sysmsgs ++ [{ src := src, dst := dst, pool := pool, cls := cls, place := none, header := 0,
                                        bytes := (payload ++ List.replicate 32 0).take 32, origin := origin }] }

/-- Queues a system message of an agent for pool and class `cls` of the device-kernel core of a die (R280). -/
def sendSystemFrom (origin : Origin) (src die cls : Nat) (payload : List Byte) : M Unit :=
  sendSystemTo origin src (die * 2048) cls cls payload

/-- The same of a core. -/
def sendSystem (src die cls : Nat) (payload : List Byte) : M Unit := sendSystemFrom (.core src) src die cls payload

/-- A message in the layout of R279. -/
def faultMessage (who kind cls ctx chan : Nat) (addr : Nat := 0) (ts : Nat := 0) (sender : Nat := 0) (dev : Nat := 0) :
    List Byte :=
  leBytes 2 who ++ leBytes 1 kind ++ leBytes 1 cls ++ leBytes 2 ctx ++ leBytes 2 chan ++ leBytes 8 addr ++ leBytes 4 ts
    ++ leBytes 2 sender ++ leBytes 1 dev ++ leBytes 9 0

/-- The trap message of R92. -/
def trapPayload (key : Nat) (t : Thread) : List Byte :=
  leBytes 2 (key / 8) ++ leBytes 1 (key % 8) ++ leBytes 1 0 ++ leBytes 2 t.kern.ctxid.toNat
    ++ leBytes 2 t.ctl.cause.toNat ++ leBytes 8 t.ctl.epc.toNat ++ leBytes 8 t.ctl.faddr.toNat
    ++ leBytes 8 t.ctl.finfo.toNat

/-- The KIRQ word (R345). -/
def kirqWord (kind ctx info : Nat) : Word := BitVec.ofNat 64 (kind + ctx * 2 ^ 8 + info * 2 ^ 24)

/-- Queues an interrupt at a core (R346). -/
def postIrq (who : Nat) (w : Word) : M Unit := modCore who fun c => { c with irqs := c.irqs ++ [w] }

/-! ## Taking a trap (R92, R346) -/

/-- The trap registers of a trap at `epc` (R73, R92); a REP unit or an instruction under way ends. -/
def Thread.record (t : Thread) (x : Trap) (epc : BitVec 52) : Thread :=
  { t with
    rep := none
    doing := none
    ctl := { t.ctl with cause := BitVec.ofNat 64 (x.cause.code + x.sub * 2 ^ 8), epc := epc.setWidth 64, faddr := x.faddr,
                        finfo := x.finfo } }

/-- KVEC[0] = 1 or KVEC = 0 (R346). -/
def badVector (t : Thread) : Bool := t.kern.kvec.getLsbD 0 || t.kern.kvec == 0

/-- An address in the program counter, whose bit 0 is always zero (R49). -/
def evenPc (pc : BitVec 52) : BitVec 52 := pc &&& ~~~1

/-- Entry at the local vector (R346): the return address, whether it is an interrupt, and the mode change. -/
def Thread.enterVector (t : Thread) (ret : BitVec 52) (irq : Bool) : Thread :=
  let pm : BitVec 4 := if t.kern.kmode then 1 else 0
  let pie : BitVec 4 := if t.kern.kstatus.getLsbD 1 then 4 else 0
  { t with
    rep := none
    doing := none
    pc := evenPc (t.kern.kvec.setWidth 52)
    kern := { t.kern with kepc := ret.setWidth 64, kstatus := pm ||| pie ||| (if irq then 8 else 0), kmode := true } }

/-- A double fault stops the core and is counted (R346, R404). -/
def doubleFault (who : Nat) : M Unit := do
  modCore who fun c => { c with halted := true }
  modDieRegs (dieOf who) fun r => { r with errdbl := satInc r.errdbl }

/-- Whether a thread's traps enter the local vector (R92, R346): every thread of a hub core, and a device-kernel core in
KERNEL mode. -/
def localVector (k : Nat) (t : Thread) : Bool := isHub (k / 8) || (isDevKernel (k / 8) && t.kern.kmode)

/-- Whether a thread's ALLOC is still being served (R287): the register is empty until then. -/
def State.allocating (s : State) (k : Nat) : Bool :=
  s.engines.any fun e => e.thread == k && (match e.op with | .alloc r _ => r != 0 | _ => false)

/-- Takes a trap on the issuing thread (R92, R346). Earlier instructions complete first (R81, R83). A PIPE trap leaves a retry
mark (R396). -/
def takeTrap (x : Trap) : M Unit := do
  let k ← me
  modThread k Thread.settle
  let t ← getThread k
  let t := { t.record x t.pc with
    fpx := none
    pipeMark := if x.cause = .pipe || (x.cause = .repx && x.sub = Cause.pipe.code) then some t.pc.toNat else none
    retry := false }
  if localVector k t then
    let bad := badVector t
    modThread k fun _ => t.enterVector t.pc false
    if bad then doubleFault (k / 8)
  else
    modThread k fun _ => { t with st := .trapped }
    sendSystem (k / 8) (dieOf (k / 8)) 15 (trapPayload k t)

/-- The lowest flag bit that is set. -/
def lowestFlag (m : Nat) : Nat := ((List.range 6).find? fun i => m.testBit i).getD 0

/-- FINFO of a floating-point exception (R233). -/
def fpxInfo (h : FpxHold) : Word :=
  BitVec.ofNat 64 (h.raised % 32 + h.enabled % 32 * 2 ^ 5 + (if h.vec then 2 ^ 10 else 0) + h.lane % 256 * 2 ^ 11)

/-- Reports an enabled floating-point exception after its instruction (R33, R233, R234, R425): EPC is the address where
the thread continues. The message goes to the supervisor that FPSUP names, or to class 15 of the die (R232). -/
def settleFpx : M Unit := do
  let k ← me
  let t ← getThread k
  match t.fpx with
  | none => pure ()
  | some h =>
    let t := { t.record { cause := .fpx, sub := lowestFlag h.enabled, faddr := h.addr.setWidth 64, finfo := fpxInfo h } t.pc
               with fpx := none }
    if localVector k t then
      let bad := badVector t
      modThread k fun _ => t.enterVector t.pc false
      if bad then doubleFault (k / 8)
    else
      modThread k fun _ => { t with st := .parked .fpx }
      let sup := bits t.ctl.fpsup 13 0
      if t.ctl.fpsup.getLsbD 63 && isDevKernel sup then
        sendSystemTo (.core (k / 8)) (k / 8) sup 15 (bits t.ctl.fpsup 17 14) (trapPayload k t)
      else sendSystem (k / 8) (dieOf (k / 8)) 15 (trapPayload k t)

/-- The issuing thread's instruction waits for an agent (log entry 17). -/
def State.stallsNow (s : State) : State :=
  if s.run.stalled.contains s.run.cur then s
  else { s with run := { s.run with stalled := s.run.cur :: s.run.stalled } }

/-- Parks the issuing thread (R70). -/
def takePark (r : Reason) : M Unit := modMe fun t => { t with st := .parked r }

/-- Runs a meaning to one of the three outcomes: it completes, or its trap is taken, or its thread parks, or it waits. A trap
waits while an ALLOC of its thread is outstanding (R81): the instruction then has no effect yet, and issues again. -/
def finish (m : M Unit) (s : State) : Host.Outcome State Fault Refusal :=
  match m s with
  | .ok _ s' => (match settleFpx s' with | .ok _ s'' => .next s'' | .error _ s'' => .next s'')
  | .error (.trap x) s' =>
    if s.allocating s.run.cur then .next s.stallsNow
    else (match takeTrap x s' with | .ok _ s'' => .next s'' | .error _ s'' => .next s'')
  | .error (.park r) s' => (match takePark r s' with | .ok _ s'' => .next s'' | .error _ s'' => .next s'')
  | .error .stall s' => .next s'.stallsNow
  | .error (.fault f) _ => .fault f

/-- Runs the move of an agent that is no thread: whatever ends it, what it performed stays. -/
def agentStep (m : M Unit) (s : State) : Host.Outcome State Fault Refusal :=
  match m s with
  | .ok _ s' => .next s'
  | .error _ s' => .next s'

end Sys2Proof.Machine
end

