-- ==== Sys2Proof/Machine/Flags.lean ====
section
/-! DEFINITION. Floating-point control and flags of the issuing thread (R29 to R33, R101, R233). -/

namespace Sys2Proof.Machine

/-- The rounding control that an instruction samples at issue (R29, R31). -/
def sampleFpc : M Ctrl := do
  let c := (← myThread).ctl.fpc
  return { rm := bits c 1 0, ftz := c.getLsbD 2 }

/-- The enables among a set of flags: FPC bits 8:4 for FPF bits 4:0 (R29, R30). -/
def enabledFlags (fpc : Word) (flags : Nat) : Nat := flags &&& bits fpc 8 4

/-- Sets flags in FPF, and holds an enabled one for the end of the instruction (R31, R33, R233). `lane` is the lowest lane
that raised an enabled flag. -/
def raiseFlags (flags : Nat) (vec : Bool := false) (lane : Nat → Nat := fun _ => 0) : M Unit :=
  modMe fun t =>
    let en := enabledFlags t.ctl.fpc flags
    { t with
      ctl := { t.ctl with fpf := t.ctl.fpf ||| BitVec.ofNat 64 (flags % 64) }
      fpx := if en = 0 then t.fpx else some { raised := flags % 32, enabled := en, vec := vec, lane := lane en, addr := t.pc } }

/-- Sets FPF ACCOV of a thread (R41). -/
def raiseAccov (k : Nat) : M Unit :=
  modThread k fun t => { t with ctl := { t.ctl with fpf := t.ctl.fpf ||| BitVec.ofNat 64 fACCOV } }

/-- The format that the FP64 bit selects (R102). -/
def scalarFmt (dbl : Bool) : Fmt := if dbl then .fp64 else .fp32

/-- An operand of a scalar floating-point instruction (R23). -/
def fpOperand (dbl : Bool) (w : Word) : Nat := if dbl then w.toNat else w.toNat % 2 ^ 32

/-- Writes a floating-point result and its flags (R23, R101). -/
def fpWrite (d : Reg) (r : Nat × Nat) : M Unit := do
  writeG d (BitVec.ofNat 64 r.1)
  raiseFlags r.2

end Sys2Proof.Machine
end

