-- ==== Sys2Proof/Machine/Home.lean ====
section
/-! DEFINITION. Coherence: the lines of the L1 caches, the home directory and its state table, the trace ring, and withheld
data (R119, R140 to R157, R180, R328, R399). A request is served whole by `serve`, or in the separate steps of a message,
an acknowledgement and a completion (`Machine/HomeSteps.lean`). -/

namespace Sys2Proof.Machine

/-! ## Lines as numbers -/

/-- A line from its 64 bytes. -/
def packLine (bs : List Byte) : Line := BitVec.ofNat 512 (leNat bs)

/-- The 64 bytes of a line. -/
def lineBytes (l : Line) : List Byte := leBytes 64 l.toNat

/-- Every byte whose mask bit is set, as bits of a line. -/
def expand (m : BitVec 64) : Line :=
  (List.range 64).foldl (fun acc i => if m.getLsbD i then acc ||| ((0xFF : Line) <<< (8 * i)) else acc) 0

/-- `old` with the masked bytes of `new`. -/
def blend (old new : Line) (m : BitVec 64) : Line := (old &&& ~~~(expand m)) ||| (new &&& expand m)

/-- The byte mask of `n` bytes from byte `o` of a line. -/
def byteMask (o n : Nat) : BitVec 64 := BitVec.ofNat 64 ((2 ^ n - 1) * 2 ^ o)

/-- The byte mask of a set of words. -/
def wordBytes (ws : BitVec 16) : BitVec 64 :=
  (List.range 16).foldl (fun acc i => if ws.getLsbD i then acc ||| byteMask (4 * i) 4 else acc) 0

/-- The words that a byte mask touches. -/
def wordsOf (m : BitVec 64) : BitVec 16 :=
  (List.range 16).foldl (fun acc i => if (m &&& byteMask (4 * i) 4) != 0 then acc ||| ((1 : BitVec 16) <<< i) else acc) 0

/-- The `n` bytes from byte `o` of a line, as a number. -/
def lineNat (l : Line) (o n : Nat) : Nat := l.toNat / 2 ^ (8 * o) % 2 ^ (8 * n)

/-! ## Memory behind a line (R119, R369) -/

/-- The bit of RDYMEM for the memory of a physical address: near memory of its die, or far memory (R119, R409). -/
def memBit (pa : Nat) : Nat := pa / 2 ^ 40 % 4 + (if pa % 2 ^ 40 < 2 ^ 39 then 0 else 4)

/-- Whether memory lies behind a physical address (R119); memory whose bring-up failed does not (R410). -/
def State.hasMemory (s : State) (pa : Nat) : Bool :=
  let off := pa % 2 ^ 40
  decide (pa < 2 ^ 42) &&
    (if off < 2 ^ 39 then decide (off < Config.nearBytes) else decide (off - 2 ^ 39 < s.boot.farBytes)) &&
    !s.boot.failed.contains (.mem (memBit pa))

/-- Whether the memory of a line has come up (R409, R410). -/
def State.memReady (s : State) (pline : Nat) : Bool := s.boot.rdymem.getLsbD (memBit (pline * 64))

/-- The die that holds a physical line (R119). -/
def homeDie (pline : Nat) : Nat := pline * 64 / 2 ^ 40 % 4

/-- Whether a link neither works nor trains (R388). -/
def LinkState.dead (l : LinkState) : Bool := l == .failed || l == .down

/-- The rim route between two dies, the lower number first (R389). -/
def routeBetween (a b : Nat) : Nat := if b = 4 then 6 + a else if a = 0 then b - 1 else a + b

/-- Whether a rim route carries nothing (R388): neither path works or trains. -/
def State.routeDead (s : State) (r : Nat) : Bool :=
  (s.links.rims.toList.getD (2 * r) .down).dead && (s.links.rims.toList.getD (2 * r + 1) .down).dead

/-- Whether a request between two dies waits: the rim route between them comes up for the first time (R409, R410). -/
def State.routeWaits (s : State) (a b : Nat) : Bool :=
  let r := routeBetween (min a b) (max a b)
  a != b && !s.boot.rdylink.getLsbD (16 + r) && !s.routeDead r

/-- The die that a request comes from: a link agent's is the hub die (R8, R159). -/
def Source.die (x : Source) : Nat := if x.dev.isSome then 4 else dieOf x.who

/-- Whether a request can go to its home: the memory has come up, and the rim route to it (R409, R410). -/
def State.homeReady (s : State) (r : Req) : Bool := s.memReady r.pline && !s.routeWaits r.src.die (homeDie r.pline)

/-- Where requests for a line go: a line of a migrating frame that is already copied is redirected to NEW (R369). -/
def State.redirect (s : State) (pline : Nat) : Nat :=
  let g := (s.die (homeDie pline)).mig
  if (g.st == .running || g.st == .done) && decide (pline / 4096 = g.old) && decide (pline % 4096 < g.copied)
  then g.new * 4096 + pline % 4096 else pline

/-- Whether a sharer set covers a core (R143): beyond 4 sharers, whether its cluster, or the hub cores, are marked. -/
def Sharers.has : Sharers → Nat → Bool
  | .exact l, w => l.contains w
  | .coarse cs hubs, w => if isHub w then hubs else cs.getLsbD (w / 8)

/-- Marks a core in the form beyond 4 sharers (R143). -/
def Sharers.mark (p : BitVec 1024 × Bool) (w : Nat) : BitVec 1024 × Bool :=
  if isHub w then (p.1, true) else (p.1 ||| ((1 : BitVec 1024) <<< (w / 8)), p.2)

/-- Adds a core to a sharer set (R143). -/
def Sharers.add (p : Sharers) (w : Nat) : Sharers :=
  match p with
  | .exact l =>
    if l.contains w then .exact l
    else if l.length < 4 then .exact (l ++ [w])
    else let m := (l ++ [w]).foldl Sharers.mark (0, false); .coarse m.1 m.2
  | .coarse cs hubs => let m := Sharers.mark (cs, hubs) w; .coarse m.1 m.2

/-- Takes a core out of a sharer set; a mark stands for other cores too and stays (R143, R147). -/
def Sharers.remove (p : Sharers) (w : Nat) : Sharers :=
  match p with
  | .exact l => .exact (l.filter (· != w))
  | .coarse _ _ => p

/-- The cores that an invalidation of a sharer set goes to (R143). -/
def Sharers.cores : Sharers → List Nat
  | .exact l => l
  | .coarse cs hubs =>
    (List.range 8192).filter (fun w => cs.getLsbD (w / 8)) ++ (if hubs then (List.range 16).map (0x2000 + ·) else [])

/-- The state of a line with a sharer set: N when it is empty (R147). -/
def Sharers.state : Sharers → LineState
  | .exact [] => .n
  | p => .s p

/-- The directory entry of a line; a line without an entry is N with every word U (R143). -/
def State.dirOf (s : State) (pline : Nat) : Dir := s.homes.dir.get pline {}

/-- A line needs an entry only when a copy is tracked, a word is owned or a request is open (R143). -/
def Dir.needed (d : Dir) : Bool := d.st != .n || !d.owners.isEmpty || d.busy.isSome

/-- Sets a directory entry; one that is not needed is removed. -/
def setDir (pline : Nat) (d : Dir) : M Unit :=
  modify fun s =>
    { s with homes := { s.homes with
        dir := if d.needed then s.homes.dir.put pline { d with used := s.run.clock } else s.homes.dir.del pline } }

/-! ## Writes at home and notifies -/

/-- The kinds of R180. -/
def traceKind : ReqKind → Nat
  | .wrh => 0 | .wbs => 1 | .wbo => 2 | .dereg => 2 | .leave => 3 | .upg => 4 | .getm => 4 | .ext => 4 | .atom => 5
  | _ => 0

/-- Sets the notify bits of the queues whose notify words a write at home touches, in every context whose block the line
belongs to (R328). -/
def notifyHook (pline : Nat) (mask : BitVec 64) : M Unit :=
  modify fun s =>
    let blocks := s.notifyAt.filter fun p => decide (p.2 / 64 ≤ pline) && decide (pline < p.2 / 64 + 64)
    let words := (List.range 8).filter fun i => (mask &&& byteMask (8 * i) 8) != 0
    if blocks.isEmpty then s
    else { s with notified := (s.notified ++ blocks.flatMap fun p =>
      words.map fun i => p.1 * 512 + (pline - p.2 / 64) * 8 + i).eraseDups }

/-- What happens beside a write at home: the entry of the trace ring, if there is one. Arguments: the bytes, the kind and
the source (R180). -/
abbrev Note := BitVec 64 → Nat → Source → M Unit

/-- No entry. -/
def Note.quiet : Note := fun _ _ _ => pure ()

/-- Merges bytes into a line at home: the write takes its place in home order here (R163). A write of the whole line
clears BAD (R399). -/
def writeHome (note : Note) (pline : Nat) (mask : BitVec 64) (data : Line) (kind : Nat) (src : Source) : M Unit := do
  if mask != 0 then
    let s ← get
    let old := packLine (s.mem.bytes (pline * 64) 64)
    putBytes (pline * 64) (lineBytes (blend old data mask))
    if mask == BitVec.allOnes 64 then
      modify fun s => { s with bad := s.bad.filter (· != pline), latent := s.latent.filter (· != pline) }
    note mask kind src
    notifyHook pline mask

/-- The bytes of a line at its home. -/
def homeLine (pline : Nat) : M Line := do return packLine (← takeBytes (pline * 64) 64)

/-! ## Withheld data (R399) -/

/-- How an access completes when it does not complete. -/
inductive Abort where
  | withheld | nomem
  deriving DecidableEq, Repr

/-- The MEMERR interrupt: to the device-kernel core of the die where it arises, with CTXID 0 to hub core 0 as well, and
with a context to its HUBIRQ where HOSTMASK asks (R346). -/
def postMemerr (die ctx info : Nat) : M Unit := do
  postIrq (die * 2048) (kirqWord 1 ctx info)
  if ctx = 0 then postIrq 0x2000 (kirqWord 1 ctx info)
  else
    let s ← get
    let rec0 := vaOf (s.die die).regs.ctxroot + 128 * ctx
    let irq := leNat (s.mem.bytes (rec0 + 40) 2)
    if (s.mem.byte (rec0 + 42)).getLsbD 0 && isHub irq && validWho irq then postIrq irq (kirqWord 1 ctx info)

/-- Whether the data of a line is withheld; the first detection is counted and interrupts (R399, R404). -/
def withheld (pline ctx : Nat) : M Bool := do
  let s ← get
  if s.bad.contains pline then return true
  else if s.latent.contains pline then
    set { s with bad := pline :: s.bad, latent := s.latent.filter (· != pline) }
    modDieRegs (homeDie pline) fun r => { r with errue := satInc64 r.errue }
    postMemerr (homeDie pline) ctx pline
    return true
  else return false

/-- The core whose local word lies at a place (R399): of a core's scratchpad, base slices or inbox, that core; of a region that
cores share, the core `who` that reaches it (log entry 64). -/
def wordCore (place who : Nat) : Nat :=
  if place < 2 ^ 45 then (place - 2 ^ 44) / 2 ^ 16
  else if 2 ^ 47 ≤ place && place < 2 ^ 48 then (place - 2 ^ 47) / 2 ^ 13
  else if 2 ^ 49 ≤ place && place < 2 ^ 50 then (place - 2 ^ 49) / 2 ^ 16
  else who

/-- Whether a local word is withheld; the first detection is counted and interrupts (R399, R404). `who` reaches it. -/
def localWithheld (place n who ctx : Nat) : M Bool := do
  let s ← get
  let w := place / 8
  let hit := fun (l : List Nat) => l.any fun x => decide (w ≤ x) && decide (x ≤ (place + n - 1) / 8)
  if hit s.badLocal then return true
  else if hit s.latentLocal then
    set { s with badLocal := s.badLocal ++ s.latentLocal.filter (fun x => decide (w ≤ x) && decide (x ≤ (place + n - 1) / 8))
                 latentLocal := s.latentLocal.filter fun x => !(decide (w ≤ x) && decide (x ≤ (place + n - 1) / 8)) }
    let core := wordCore place who
    modDieRegs (dieOf core) fun r => { r with errue := satInc64 r.errue }
    postMemerr (dieOf core) ctx (core + 2 ^ 39)
    return true
  else return false

/-! ## Cores and homes that are cut off from one another (R157, R388) -/

/-- Whether a core cannot reach the homes of a die: the die is isolated, or the core is a hub core and its route to the die
has failed (R157, R388). -/
def State.cutOff (s : State) (who d : Nat) : Bool :=
  dieOf who != d && ((s.die d).isolated ||
    (isHub who && s.routeDead (routeBetween d 4)))

/-! ## L1 lines (R120, R141) -/

/-- Whether a line is a copy of a physical line. -/
def L1Line.copies (l : L1Line) (pline : Nat) : Bool := l.home == .here pline

/-- Whether a line bears a name. -/
def L1Line.named (l : L1Line) (vline : Nat) (space : Space) : Bool := l.vline == vline && l.space == space

/-- The copy a core holds under a name. -/
def Core.line? (c : Core) (vline : Nat) (space : Space) : Option L1Line := c.l1.find? (·.named vline space)

/-- Replaces the copy of a core under the line's name, or adds it as the newest. -/
def Core.putLine (c : Core) (l : L1Line) : Core :=
  if c.l1.any (·.named l.vline l.space) then
    { c with l1 := c.l1.map fun x => if x.named l.vline l.space then l else x }
  else { c with l1 := c.l1 ++ [l] }

/-- Changes every line of a core's L1. -/
def Core.mapL1 (f : L1Line → L1Line) (c : Core) : Core := { c with l1 := c.l1.map f }

/-- Bytes of registered words. -/
def L1Line.regBytes (l : L1Line) : BitVec 64 := wordBytes l.reg

/-- Whether the home tracks the copy (R141). -/
def L1Line.tracked (l : L1Line) : Bool := l.kind = .sharer || l.kind = .exclusive || l.kind = .privatised

/-- The bytes that the home would have to ask for: dirty ones, and the mask of a privatised copy (R151, R152). -/
def L1Line.carried (l : L1Line) : BitVec 64 :=
  (if l.kind = .privatised then l.held ||| l.dirty else l.dirty) &&& ~~~l.regBytes

/-- Keeps the marks of the bytes that are still dirty. -/
def L1Line.trim (l : L1Line) : L1Line :=
  { l with marks := (l.marks.map fun m => { m with mask := m.mask &&& l.dirty }).filter fun m => m.mask != 0 }

/-- Whether an engine wrote some of the bytes `m` (R180, R202). -/
def L1Line.byEngine (l : L1Line) (m : BitVec 64) : Bool := l.marks.any fun x => x.engine && (x.mask &&& m) != 0

/-- Writes bytes of the store that `by'` names into a copy and marks them dirty (R120, R141). -/
def L1Line.store (l : L1Line) (m : BitVec 64) (data : Line) (by' : Mark) : L1Line :=
  { l with
    data := blend l.data data m
    valid := l.valid ||| m
    dirty := l.dirty ||| m
    soft := l.soft &&& ~~~m
    marks := ((l.marks.map fun x => { x with mask := x.mask &&& ~~~m }).filter fun x => x.mask != 0)
      ++ [{ by' with mask := m }] }

/-- A SELF store into a copy (R141): a line that held registered words alone becomes a SELF copy beside them. -/
def L1Line.storeSelf (l : L1Line) (m : BitVec 64) (data : Line) (by' : Mark) : L1Line :=
  let l' := l.store m data by'
  { l' with soft := l'.soft ||| m, kind := if l.kind = .none && (m &&& ~~~l.regBytes) != 0 then .self else l.kind }

/-- The dirty SELF bytes of a copy (R120, R131): in an exclusive copy, those whose latest store is a SELF store. -/
def L1Line.selfBytes (l : L1Line) : BitVec 64 :=
  (if l.kind = .exclusive then l.dirty &&& l.soft else l.dirty) &&& ~~~l.regBytes

/-- What is left of a line when its copy goes and its registrations stay; nothing when no word is registered. -/
def L1Line.onlyReg (l : L1Line) : Option L1Line :=
  if l.reg = 0 then none
  else some (L1Line.trim { l with kind := .none, valid := l.valid &&& l.regBytes, dirty := l.dirty &&& l.regBytes, held := 0 })

/-- What one line of an L1 answers to a home, and what is left of it (R147, R148, R150, R152): a privatised copy returns
all the bytes of its mask; a probe concerns the exclusive copy alone. -/
def L1Line.answer (l : L1Line) : Ask → (BitVec 64 × Option L1Line)
  | .invalidate => (l.carried, l.onlyReg)
  | .probe k =>
    if l.kind = .exclusive then
      let m := l.dirty &&& ~~~l.regBytes
      let l' := L1Line.trim { l with kind := k, dirty := l.dirty &&& l.regBytes }
      (m, some (if k = .privatised then { l' with held := m, valid := m ||| (l.valid &&& l.regBytes) }
                else { l' with valid := l.valid &&& (l.held ||| l.regBytes) }))
    else (0, some l)
  | .unregister ws =>
    let gone := wordBytes (ws &&& l.reg)
    let l' := L1Line.trim
      { l with reg := l.reg &&& ~~~ws, valid := l.valid &&& ~~~gone, dirty := l.dirty &&& ~~~gone, held := l.held &&& ~~~gone }
    (gone &&& l.dirty, if l'.kind = .none && l'.reg = 0 then none else some l')

/-- CTXID of the accesses that a copy serves (R180). -/
def Space.ctxid : Space → Nat
  | .ctx n => n
  | _ => 0

/-- The bytes that an L1 returns to a home, with the context of the copy that held them. -/
structure Returned where
  mask : BitVec 64 := 0
  data : Line := 0
  ctx : Nat := 0
  engine : Bool := false
  deriving DecidableEq, Repr

/-- Who wrote the bytes that a core returned: the core, or its engine operation where one wrote some of them (R180; log
entry 58). -/
def Returned.source (x : Returned) (core : Nat) : Source := { who := core, ctx := x.ctx, engine := x.engine }

/-- Performs an ask at the L1 of a core: every copy of the line answers; the bytes go together. A core without a copy
acknowledges at once. -/
def askCore (core pline : Nat) (ask : Ask) : M Returned := do
  let c ← getCore core
  if c.l1.any (·.copies pline) then
    let r := c.l1.foldl (fun (acc : Returned × List L1Line) l =>
      if l.copies pline then
        let (m, left) := l.answer ask
        ({ mask := acc.1.mask ||| m, data := blend acc.1.data l.data m, ctx := if m = 0 then acc.1.ctx else l.space.ctxid,
           engine := acc.1.engine || l.byEngine m },
          acc.2 ++ left.toList)
      else (acc.1, acc.2 ++ [l])) ({}, [])
    modCore core fun c => { c with l1 := r.2 }
    return r.1
  else return {}

/-- The dirty bytes of the exclusive copy that a core holds of a line. -/
def State.dirtyAt (s : State) (core pline : Nat) : BitVec 64 :=
  (s.core core).l1.foldl
    (fun m l => if l.copies pline && l.kind = .exclusive then m ||| (l.dirty &&& ~~~l.regBytes) else m) 0

/-! ## The state table (R147, R148) -/

/-- The core that a request comes from as a holder of copies: engines, walkers and the link agent hold none (R159, R160). -/
def Req.core (r : Req) : Option Nat := if r.src.engine || r.src.dev.isSome then none else some r.src.who

/-- The cores of a sharer set other than the requester. -/
def othersOf (l : List Nat) (r : Req) : List Nat := l.filter fun x => some x != r.core

/-- Whether a store's bytes are disjoint from the masks of every other writer. -/
def apart (ws : List (Nat × BitVec 64)) (r : Req) : Bool :=
  ws.all fun w => some w.1 == r.core || (w.2 &&& r.mask) == 0

/-- Whether the bytes asked for lie outside every mask (R147, state P). -/
def outside (ws : List (Nat × BitVec 64)) (r : Req) : Bool := ws.all fun w => (w.2 &&& r.mask) == 0

/-- Whether an INV store keeps the privatised state (R147, R151): an Ext of a writer, or the Upg or GetM of a new core while
there are fewer than 4 writers, with bytes disjoint from every other mask. -/
def joins (ws : List (Nat × BitVec 64)) (r : Req) : Bool :=
  let writer := ws.any fun w => some w.1 == r.core
  apart ws r && (if r.kind = .ext then writer else !writer && decide (ws.length < 4))

/-- What the home asks of other L1s at the level of the line before it serves a request (R147). Rows that the table lacks,
and the holder's own RdH in M, follow log entry 67. -/
def lineAsks (s : State) (d : Dir) (r : Req) : List (Nat × Ask) :=
  let inval := fun (l : List Nat) => l.map fun x => (x, Ask.invalidate)
  match r.kind, d.st with
  | _, .n | .leave, _ => []
  | .wbo, .p ws | .dereg, .p ws => inval (ws.map (·.1))
  | .wbo, _ | .dereg, _ => []
  | .fillu, .s _ | .fills, .s _ | .rdh, .s _ => []
  | _, .s p => inval (othersOf p.cores r)
  | .fillu, .m x | .fills, .m x => if r.core = some x then [] else [(x, .probe .sharer)]
  | .rdh, .m x => [(x, .probe .exclusive)]
  | .upg, .m x | .getm, .m x | .ext, .m x =>
    if r.core = some x then []
    else if (s.dirtyAt x r.pline &&& r.mask) == 0 then [(x, .probe .privatised)] else [(x, .invalidate)]
  | .regw, .m x => if r.core = some x then [] else [(x, .invalidate)]
  | _, .m x => if r.core = some x then [(x, .probe .exclusive)] else [(x, .invalidate)]
  | .fillu, .p ws | .fills, .p ws | .rdh, .p ws => if outside ws r then [] else inval (ws.map (·.1))
  | .upg, .p ws | .getm, .p ws | .ext, .p ws => if joins ws r then [] else inval (ws.map (·.1))
  | _, .p ws => inval (ws.map (·.1))

/-- The registrations that end before a request is served (R148): of the words of a RegW at another core, and of the words
of an atomic at any core. -/
def wordAsks (d : Dir) (r : Req) : List (Nat × Ask) :=
  let ws := wordsOf r.mask
  d.owners.filterMap fun p =>
    match p.2 with
    | .core o =>
      if ws.getLsbD p.1 && (r.kind == .atom || (r.kind == .regw && r.core != some o))
      then some (o, .unregister ((1 : BitVec 16) <<< p.1)) else none
    | .pin _ _ => none

/-- Whether a request asks for the line under a name (R120). -/
def ReqKind.named : ReqKind → Bool
  | .fillu | .fills | .upg | .getm | .ext | .regw => true
  | _ => false

/-- Copies held under another name are recalled first (R120): the cores that hold one. -/
def synonyms (s : State) (r : Req) : List Nat :=
  if r.kind.named && r.core.isSome then
    s.cores.filterMap fun p =>
      if p.2.l1.any (fun l => l.copies r.pline && !l.named r.vline r.space) then some p.1 else none
  else []

/-- The line state after a request from core `c` (R147; log entry 67). `d` is the state before; `dx` the mask a probed holder
sent. -/
def nextState (d : Dir) (r : Req) (dx : BitVec 64) : LineState :=
  let c := r.src.who
  let grant := fun (l : LineState) => if r.core.isSome then l else LineState.n
  match r.kind, d.st with
  | .fillu, .m x => if r.core = some x then .m x else .s (.exact [x])
  | .fillu, .p ws => if outside ws r then .p ws else .n
  | .fillu, st => st
  | .fills, .n => grant (.s (.exact [c]))
  | .fills, .s p => .s (if r.core.isSome then p.add c else p)
  | .fills, .m x => if r.core = some x then .m x else if r.core.isSome then .s (.exact [x, c]) else .s (.exact [x])
  | .fills, .p ws => if outside ws r then .p ws else grant (.s (.exact [c]))
  | .upg, .m x | .getm, .m x | .ext, .m x =>
    if c = x then .m x else if (dx &&& r.mask) == 0 then .p [(x, dx), (c, r.mask)] else .m c
  | .upg, .p ws | .getm, .p ws | .ext, .p ws =>
    if joins ws r then
      if ws.any (fun w => w.1 == c) then .p (ws.map fun w => if w.1 = c then (c, w.2 ||| r.mask) else w)
      else .p (ws ++ [(c, r.mask)])
    else .m c
  | .upg, _ | .getm, _ | .ext, _ => .m c
  | .rdh, .p ws => if outside ws r then .p ws else .n
  | .rdh, st => st
  | .wbo, .p _ | .dereg, .p _ => .n
  | .wbo, st | .dereg, st => st
  | .leave, .s p => (p.remove c).state
  | .leave, .m x => if x = c then .n else .m x
  | .leave, .p ws => let w' := ws.filter fun w => w.1 != c; if w'.isEmpty then .n else .p w'
  | .leave, .n => .n
  | _, .n => .n
  | _, .s p => if r.core.isSome && p.has c then .s (.exact [c]) else .n
  | _, .m x => if r.core = some x then .m x else .n
  | _, .p _ => .n

/-! ## Performing a request -/

/-- What a request returns: the bytes of the line as the requester sees them. -/
structure Reply where
  data : Line := 0
  /-- Bytes that a fill may keep as valid (R142). -/
  valid : BitVec 64 := 0
  deriving DecidableEq, Repr

/-- The words of a line owned elsewhere than at the requester (R142). -/
def foreignWords (d : Dir) (r : Req) : BitVec 16 :=
  d.owners.foldl (fun acc p =>
    match p.2 with
    | .core o => if r.core = some o then acc else acc ||| ((1 : BitVec 16) <<< p.1)
    | .pin _ _ => acc ||| ((1 : BitVec 16) <<< p.1)) 0

/-- The words of a line that are owned, each with the current value of its serialisation point, over the value `base` of
the rest (R148, R163). -/
def State.ownedOver (s : State) (pline : Nat) (d : Dir) (base : Line) : Line :=
  d.owners.foldl (fun acc p =>
    let m := byteMask (4 * p.1) 4
    match p.2 with
    | .core o =>
      (s.core o).l1.foldl (fun a l => if l.copies pline && l.reg.getLsbD p.1 then blend a l.data (m &&& l.valid) else a) acc
    | .pin _ place => blend acc (BitVec.ofNat 512 (leNat (s.mem.bytes place 4) * 2 ^ (32 * p.1))) m) base

/-- The current value of a line's words, each from its serialisation point (R148, R163). -/
def currentLine (pline : Nat) (d : Dir) : M Line := do
  let base ← homeLine pline
  return (← get).ownedOver pline d base

/-- Performs the store bytes of a request, word by word, at each word's serialisation point (R148): registered words in
their registrant's copy, pinned words in the scratchpad, the rest at home. `atHome` false leaves the unowned words for
the requester's own copy. -/
def storeBytes (note : Note) (pline : Nat) (d : Dir) (mask : BitVec 64) (data : Line) (kind : Nat) (src : Source)
    (atHome : Bool) : M Unit := do
  d.owners.forM fun p => do
    let m := byteMask (4 * p.1) 4 &&& mask
    if m != 0 then
      match p.2 with
      | .core o =>
        modCore o <| Core.mapL1 fun l =>
          if l.copies pline && l.reg.getLsbD p.1 then
            { l with data := blend l.data data m, valid := l.valid ||| m, dirty := l.dirty ||| m } else l
        wakeAll (waitsOn (pline * 64 + 4 * p.1) 4)
        note m 6 src
      | .pin _ place =>
        let old := leNat (← takeBytes place 4)
        let v := blend (BitVec.ofNat 512 (old * 2 ^ (32 * p.1))) data m
        putBytes place (leBytes 4 (lineNat v (4 * p.1) 4))
        wakeAll (waitsOn (pline * 64 + 4 * p.1) 4)
        note m 7 src
  let owned := wordBytes (d.owners.foldl (fun acc p => acc ||| ((1 : BitVec 16) <<< p.1)) 0)
  if atHome then writeHome note pline (mask &&& ~~~owned) data kind src

/-- Bytes that an L1 gave back are merged, each at its word's serialisation point (R147, R148, R150). -/
def mergeBytes (note : Note) (pline : Nat) (mask : BitVec 64) (data : Line) (kind : Nat) (src : Source) : M Unit := do
  if mask != 0 then storeBytes note pline ((← get).dirOf pline) mask data kind src true

/-- The words of a line, as a mask, whose owner is a core. -/
def Dir.ownedBy (d : Dir) (c : Nat) : BitVec 16 :=
  d.owners.foldl (fun acc p => if p.2 = .core c then acc ||| ((1 : BitVec 16) <<< p.1) else acc) 0

/-- Removes the registrations of a core on a set of words. -/
def Dir.deregister (d : Dir) (c : Nat) (ws : BitVec 16) : Dir :=
  { d with owners := d.owners.filter fun p => !(p.2 == .core c && ws.getLsbD p.1) }

/-- The kind of copy a request leaves in the requester's L1. -/
def copyAfter (st : LineState) (k : ReqKind) : CopyKind :=
  match k, st with
  | .fillu, _ => .self
  | .regw, _ => .none
  | _, .m _ => .exclusive
  | _, .s _ => .sharer
  | _, .p _ => .privatised
  | _, .n => .self

/-- What a fill, a grant or a registration makes of a copy (R141, R142): bytes that are dirty or registered keep their
value, and the copy takes the kind the home gives it. `stored`: the bytes of `r.data` that the request stores in the copy;
where the copy took them at issue, a later SELF store of the core keeps its bytes. -/
def L1Line.install (old : L1Line) (r : Req) (rep : Reply) (kind : CopyKind) (newReg : BitVec 16) (stored : BitVec 64) :
    L1Line :=
  let keep := old.dirty ||| (old.regBytes &&& old.valid)
  let kind' := if kind = .none || (kind = .self && old.tracked) then old.kind else kind
  let priv := kind' = CopyKind.privatised
  let reg := old.reg ||| newReg
  let filled := if priv then 0 else if kind = .none then wordBytes newReg else rep.valid
  let new := if r.issued then stored &&& ~~~(old.dirty &&& ~~~old.regBytes) else stored
  let valid := if priv && old.kind = .privatised then old.valid
               else if priv then keep
               else if kind = .none then old.valid ||| filled
               else filled ||| keep
  let l : L1Line := { old with
    kind := kind'
    home := .here r.pline
    reg := reg
    data := blend (blend old.data rep.data (filled &&& ~~~keep)) r.data new
    valid := valid ||| new
    held := if priv then (if old.kind = .privatised then old.held else 0) ||| stored
            else if kind = .none then old.held else filled ||| stored
    w := r.w
    k := r.k
    trace := r.trace }
  let dirtied := if priv then new &&& wordBytes reg else new
  let clean := L1Line.trim { l with dirty := old.dirty &&& ~~~(new &&& ~~~dirtied) }
  match r.thread with
  | some k =>
    if dirtied = 0 then clean
    else clean.store dirtied r.data 
      { thread := k, order := r.order, faddr := r.faddr, finfo := r.finfo, engine := r.src.engine, mask := 0 }
  | none => { clean with dirty := clean.dirty ||| dirtied, soft := clean.soft &&& ~~~dirtied }

/-- Installs what a request returned in the L1 of core `c` (R141, R142). -/
def installCopy (c : Nat) (r : Req) (rep : Reply) (kind : CopyKind) (newReg : BitVec 16) (stored : BitVec 64) : M Unit :=
  modCore c fun core =>
    let old := (core.line? r.vline r.space).getD
      { vline := r.vline, space := r.space, home := .here r.pline, kind := .none, valid := 0, dirty := 0, reg := 0,
        data := 0, w := r.w, k := r.k, trace := r.trace }
    core.putLine (old.install r rep kind newReg stored)

/-- Updates the bytes of the requester's own copies (R149, THRU store and atomic; R169 rule 5, a store that waits). -/
def updateOwn (c : Nat) (pline : Nat) (mask : BitVec 64) (data : Line) : M Unit :=
  modCore c <| Core.mapL1 fun l =>
    if l.copies pline then
      L1Line.trim { l with data := blend l.data data (mask &&& l.valid), dirty := l.dirty &&& ~~~(mask &&& ~~~l.regBytes) }
    else l

/-- A copy that the requester keeps takes bytes that another core gave back for its request: an INV copy never holds a
value that was replaced at home (R140). -/
def refreshOwn (r : Req) (mask : BitVec 64) (data : Line) : M Unit :=
  match r.core with
  | some w =>
    if mask = 0 then pure ()
    else modCore w <| Core.mapL1 fun l =>
      if l.copies r.pline && l.tracked then
        { l with data := blend l.data data (mask &&& l.valid &&& ~~~l.dirty &&& ~~~l.regBytes) }
      else l
  | none => pure ()

/-- FP32 words are added at home by AFADD (R129); the float unit supplies the function (`Machine/Float.lean`). The other
atomics: the new value of a `w`-bit word (R128). 16 and 17 are an engine's completion adds (R136). -/
def atomNew (afadd : Nat → Nat → Nat) (op w old b b1 : Nat) : Nat :=
  let sgn := fun (x : Nat) => if x < 2 ^ (w - 1) then (x : Int) else (x : Int) - 2 ^ w
  match op with
  | 0 => (old + b) % 2 ^ w
  | 1 => old &&& b
  | 2 => old ||| b
  | 3 => old ^^^ b
  | 4 => if sgn b < sgn old then b else old
  | 5 => if sgn old < sgn b then b else old
  | 6 => min old b
  | 7 => max old b
  | 8 => b
  | 9 => if old = b then b1 else old
  | 10 => afadd old b
  | 16 => old / 2 ^ 63 * 2 ^ 63 + (old + 1) % 2 ^ 63
  | 17 => 2 ^ 63 + (old + 1) % 2 ^ 63
  | _ => old

/-! ## Serving a request -/

/-! ## Notices, and the trace ring (R147, R180, R181) -/

/-- The cores that a line state tracks (R143). -/
def LineState.holders : LineState → List Nat
  | .n => []
  | .s set => set.cores
  | .m x => [x]
  | .p ws => ws.map Prod.fst

/-- Whether a request is a notice: it carries bytes of stores performed earlier, or ends a registration or a copy (R146,
R147). -/
def ReqKind.notice : ReqKind → Bool
  | .wbo | .dereg | .leave => true
  | _ => false

/-- Performs a notice (R147, R148): the registrations it names end, the line state follows, and its bytes are merged; a
WbO's words are still registered to their core. -/
def takeNotice (note : Note) (q : Req) : M Unit := do
  let d := (← get).dirOf q.pline
  let d' := if q.kind = .dereg then d.deregister q.src.who q.reg else d
  setDir q.pline { d' with st := nextState d q 0, trace := d.trace || q.trace }
  if q.kind = .wbo then writeHome note q.pline q.mask q.data 2 q.src
  else mergeBytes note q.pline q.mask q.data (if q.kind = .dereg then 2 else 3) q.src

/-- Recalls every tracked copy of a line, with the bytes that it carries (R152, R154). -/
def recallHolders (note : Note) (pline : Nat) : M Unit := do
  ((← get).dirOf pline).st.holders.forM fun c => do
    let x ← askCore c pline .invalidate
    mergeBytes note pline x.mask x.data 3 (x.source c)

/-- A notice is taken before a request (R147): in state P, a WbO or Dereg merges first (R152). -/
def takeWaiting (note : Note) (q : Req) : M Unit := do
  match q.kind, ((← get).dirOf q.pline).st with
  | .wbo, .p _ | .dereg, .p _ => recallHolders note q.pline
  | _, _ => pure ()
  takeNotice note q

/-- The notices of other cores that wait at a line are taken before the home serves a request there: what they carry is
what the home lacks of copies and registrations that have already ended (R147, stale notices; log entry 68). -/
def absorb (note : Bool → Note) (pline : Nat) (but : Option Nat) : M Unit := do
  let s ← get
  let early := fun (q : Req) => q.pline == pline && q.kind.notice && but != some q.src.who
  if s.homes.reqs.any early then
    set { s with homes := { s.homes with reqs := s.homes.reqs.filter fun q => !early q } }
    (s.homes.reqs.filter early).forM fun q => do takeWaiting (note (((← get).dirOf pline).trace || q.trace)) q

/-- A write of the home's own, performed as WrH and not traced (R180): copies are recalled, and each word is written at its
serialisation point. Nothing is written where no memory lies. -/
def ringWrite (pline0 : Nat) (mask : BitVec 64) (data : Line) : M Unit := do
  let s ← get
  if s.hasMemory (pline0 * 64) then
    let pline := s.redirect pline0
    absorb (fun _ => Note.quiet) pline none
    recallHolders Note.quiet pline
    let d := (← get).dirOf pline
    setDir pline { d with st := .n }
    storeBytes Note.quiet pline d mask data 0 { who := 0, ctx := 0 } true

/-- Appends a trace-ring entry for a write to a traced line (R180, R181). -/
def traceAppend (pline : Nat) : Note := fun mask kind src => do
  let s ← get
  let d := homeDie pline
  let die := s.die d
  let ctl := die.regs.tracectl
  if ctl.getLsbD 0 && !ctl.getLsbD 1 then
    let slice := (Config.sliceOf (pline % 2 ^ 33)).toNat
    let n := die.traceSeq.get slice 0
    let base := bits ctl 41 24 * 2 ^ 24 + slice * 0x20000 + n % 4096 * 32
    let flags := (if src.dev.isSome then 2 ^ 22 else 0) + (if src.engine then 2 ^ 23 else 0)
    let entry := leBytes 8 s.time ++ leBytes 8 mask.toNat
      ++ leBytes 12 (pline + kind * 2 ^ 36 + src.who % 2 ^ 14 * 2 ^ 40 + (src.dev.getD 0) * 2 ^ 54
          + flags * 2 ^ 40 + n % 2 ^ 32 * 2 ^ 64)
      ++ leBytes 4 src.ctx
    modDie d fun x => { x with traceSeq := x.traceSeq.put slice (n + 1) }
    ringWrite (base / 64) (byteMask (base % 64) 32) (BitVec.ofNat 512 (leNat entry * 2 ^ (8 * (base % 64))))

/-- The trace-ring entry of a write to a line, if the line is traced (R143, R180). -/
def noteAt (pline : Nat) (traced : Bool) : Note := if traced then traceAppend pline else Note.quiet

/-- The `n` bytes at a physical address as a read at their home would find them now: with what exclusive and privatised
copies and notices on their way carry, and at the serialisation point of each word (R147, R148, R369). -/
def State.seen (s : State) (pa n : Nat) : Nat :=
  let pline := s.redirect (pa / 64)
  let d := s.dirOf pline
  let base := packLine (s.mem.bytes (pline * 64) 64)
  let noted := s.homes.reqs.foldl (fun a q => if q.pline = pline && q.kind.notice then blend a q.data q.mask else a) base
  let held := match d.st with
    | .m _ | .p _ =>
      d.st.holders.foldl (fun a c => (s.core c).l1.foldl
        (fun a l => if l.copies pline && l.tracked then blend a l.data l.carried else a) a) noted
    | _ => noted
  lineNat (s.ownedOver pline d held) (pa % 64) n

/-! ## Asks -/

/-- Merges what core `core` returned for request `r` (R147, R150), and ends the registrations that it gave up. -/
def takeReturned (r : Req) (core : Nat) (a : Ask) (x : Returned) : M Unit := do
  let d := (← get).dirOf r.pline
  let kind ← match a with
    | .unregister ws =>
      setDir r.pline (d.deregister core ws)
      pure 2
    | _ => pure 3
  mergeBytes (noteAt r.pline (d.trace || r.trace)) r.pline x.mask x.data kind (x.source core)
  if r.core != some core then refreshOwn r x.mask x.data

/-- Performs one ask at its L1 and merges what it returns at home (R147, R150). Answers the mask that came back. -/
def doAsk (r : Req) (a : Nat × Ask) : M (BitVec 64) := do
  let x ← askCore a.1 r.pline a.2
  takeReturned r a.1 a.2 x
  return x.mask

/-- Recalls the copies of a line that a core holds under another name, with their dirty bytes and registrations (R120). -/
def recallNames (r : Req) (core : Nat) : M Unit := do
  let c ← getCore core
  let gone := c.l1.filter fun l => l.copies r.pline && !l.named r.vline r.space
  modCore core fun c => { c with l1 := c.l1.filter fun l => !(l.copies r.pline && !l.named r.vline r.space) }
  gone.forM fun l => do
    let src : Source := { who := core, ctx := l.space.ctxid, engine := l.byEngine (l.dirty ||| l.carried) }
    let d := (← get).dirOf r.pline
    let d' := d.deregister core l.reg
    let note := noteAt r.pline (d.trace || l.trace || r.trace)
    setDir r.pline (if l.tracked then { d' with st := nextState d' { r with kind := .leave, src := src } 0 } else d')
    mergeBytes note r.pline (l.dirty &&& l.regBytes) l.data 2 src
    mergeBytes note r.pline l.carried l.data 3 src

/-- Evicts a directory entry (R154): sharers, the holder or the writers give up their copies, and registrations end. -/
def evictDir (pline : Nat) : M Unit := do
  absorb (noteAt pline) pline none
  let d := (← get).dirOf pline
  let r : Req := { kind := .wrh, src := { who := 0, ctx := 0, engine := true }, pline := pline, mask := 0 }
  d.st.holders.forM fun c => do
    let _ ← doAsk r (c, .invalidate)
  d.owners.forM fun p => do
    match p.2 with
    | .core o =>
      let lines := ((← get).core o).l1.filter fun l => l.copies pline && l.reg.getLsbD p.1
      setDir pline (((← get).dirOf pline).deregister o ((1 : BitVec 16) <<< p.1))
      lines.forM fun l =>
        mergeBytes (noteAt pline (d.trace || l.trace)) pline (l.dirty &&& byteMask (4 * p.1) 4) l.data 2
          { who := o, ctx := l.space.ctxid, engine := l.byEngine (byteMask (4 * p.1) 4) }
      modCore o <| Core.mapL1 fun l =>
        if l.copies pline && l.reg.getLsbD p.1 then
          L1Line.trim
            { l with reg := l.reg &&& ~~~((1 : BitVec 16) <<< p.1), dirty := l.dirty &&& ~~~(byteMask (4 * p.1) 4),
                     kind := if l.kind = .none then .self else l.kind }
        else l
    | .pin _ _ => pure ()
  setDir pline { (← get).dirOf pline with st := .n }

/-- The bytes of a line that are pinned (R134). -/
def State.pinnedBytes (s : State) (pline : Nat) : BitVec 64 :=
  (s.dirOf (s.redirect pline)).owners.foldl (fun acc p =>
    match p.2 with
    | .pin _ _ => acc ||| byteMask (4 * p.1) 4
    | .core _ => acc) 0

/-- Whether an entry holds a pinned word (R145). -/
def Dir.pinned (d : Dir) : Bool := d.owners.any fun p => match p.2 with | .pin _ _ => true | .core _ => false

/-- The directory set of a line (R145). -/
def setKey (p : Nat) : Nat × Nat × Nat := (homeDie p, (Config.sliceOf (p % 2 ^ 33)).toNat, (Config.dirSet p).toNat)

/-- The line of a set's least recently used entry. -/
def oldestOf : Store Dir → Option Nat
  | [] => none
  | e :: es => some (es.foldl (fun (b x : Nat × Dir) => if x.2.used < b.2.used then x else b) e).1

/-- Whether a request asks the home for the line, to keep a copy of it (R147): a fill, or a store of a core without one. -/
def Req.copies (r : Req) (d : Dir) : Bool :=
  match r.kind, d.st with
  | .fillu, _ | .fills, _ | .getm, _ => true
  | .upg, .s p | .ext, .s p => !p.has r.src.who
  | .upg, .n | .ext, .n => true
  | _, _ => false

/-- Whether a request asks for words that no owner holds. -/
def Req.unowned (r : Req) (d : Dir) : Bool :=
  (wordsOf r.mask &&& ~~~(d.owners.foldl (fun acc p => acc ||| ((1 : BitVec 16) <<< p.1)) 0)) != 0

/-- Whether serving a request reads the line's data at home for the words it asks for (R399). -/
def Req.reads (r : Req) (d : Dir) : Bool :=
  (r.copies d || r.kind == .regw || r.kind == .rdh || r.kind == .atom) && r.unowned d

/-- Whether a request reads a pinned word that a scratchpad withholds (R134, R399). -/
def pinWithheld (r : Req) (d : Dir) : M Bool :=
  d.owners.foldlM (fun (hit : Bool) p => do
    match p.2 with
    | .pin who place =>
      if (wordsOf r.mask).getLsbD p.1 && !hit then localWithheld place 4 who r.src.ctx else return hit
    | .core _ => return hit) false

/-- Whether a request is an INV store (R146). -/
def ReqKind.stores : ReqKind → Bool
  | .upg | .getm | .ext => true
  | _ => false

/-- The line state after the asks of a request whose data is withheld (R399): nothing is granted. -/
def abortState (d : Dir) (r : Req) (dx : BitVec 64) : LineState :=
  match r.kind, d.st with
  | .upg, .n | .ext, .n => .n
  | .upg, .s _ | .ext, .s _ => .n
  | .getm, .m x => if r.core = some x then .m x else if (dx &&& r.mask) == 0 then .p [(x, dx)] else .n
  | .getm, .s p => if r.core.isSome && p.has r.src.who then .s (.exact [r.src.who]) else .n
  | .getm, .p ws => if joins ws r then .p ws else .n
  | .fills, .m x => if r.core = some x then .m x else .s (.exact [x])
  | .fills, .p ws => if outside ws r then .p ws else .n
  | .getm, .n | .fills, .n => .n
  | .fills, .s p => .s p
  | _, _ => nextState d r dx

/-- A store that waited aborts: its issuer's copies no longer hold its bytes. -/
def dropIssued (r : Req) : M Unit :=
  if r.issued then
    modCore r.src.who <| Core.mapL1 fun l =>
      if l.copies r.pline then { l with valid := l.valid &&& ~~~(r.mask &&& ~~~l.dirty &&& ~~~l.regBytes) } else l
  else pure ()

/-- Performs a request whose asks are answered, and makes the line's next state (R147, R148). `dx` is the mask that a
probed holder sent. -/
def finishReq (afadd : Nat → Nat → Nat) (r : Req) (dx : BitVec 64) : M (Except Abort Reply) := do
  let d := (← get).dirOf r.pline
  let traced := d.trace || r.trace
  let note := noteAt r.pline traced
  let bad ← if r.reads d || r.copies d then withheld r.pline r.src.ctx else pure false
  let gone ← if r.copies d || r.kind = .rdh || r.kind = .atom then pinWithheld r d else pure false
  if (bad && r.reads d) || (gone && !r.kind.stores) then
    setDir r.pline { d with st := abortState d r dx }
    dropIssued r
    return .error .withheld
  if bad then
    setDir r.pline { d with st := abortState d r dx, trace := traced }
    if r.kind.stores then storeBytes note r.pline d r.mask r.data 4 r.src false
    return .ok { data := ← currentLine r.pline d }
  let c := r.src.who
  let st := nextState d r dx
  match d.st, r.kind with
  | .m x, .upg | .m x, .getm | .m x, .ext =>
    if r.core != some x && (dx &&& r.mask) != 0 then let _ ← doAsk r (x, .invalidate)
  | _, _ => pure ()
  let d := (← get).dirOf r.pline
  let foreign := foreignWords d r
  let line ← currentLine r.pline d
  let rep : Reply := { data := line, valid := ~~~(wordBytes foreign) }
  let put := fun (d' : Dir) => setDir r.pline { d' with trace := traced }
  match r.kind with
  | .fillu | .fills =>
    put { d with st := st }
    match st with
    | .p _ => pure ()
    | _ => if r.core.isSome then installCopy c r rep (copyAfter st r.kind) 0 0
    return .ok rep
  | .upg | .getm | .ext =>
    put { d with st := st }
    storeBytes note r.pline d (r.mask &&& wordBytes foreign) r.data 4 r.src false
    let own := r.mask &&& ~~~(wordBytes foreign)
    installCopy c r rep (copyAfter st r.kind) 0 own
    wakeAll (waitsOn (r.pline * 64) 64)
    if own != 0 then
      note own 4 r.src
      notifyHook r.pline own
    return .ok rep
  | .regw =>
    let ws := wordsOf r.mask &&& ~~~foreign
    let owners := (List.range 16).foldl
      (fun o i => if ws.getLsbD i then Store.put o i (.core c) else o) d.owners
    put { d with st := st, owners := owners }
    installCopy c r rep .none ws (r.put &&& wordBytes ws)
    storeBytes note r.pline d (r.put &&& wordBytes foreign) r.data 0 r.src false
    if r.put != 0 then wakeAll (waitsOn (r.pline * 64) 64)
    return .ok rep
  | .rdh =>
    put { d with st := st }
    return .ok rep
  | .wrh | .wbs =>
    put { d with st := st }
    storeBytes note r.pline d (if r.issued && r.core.isSome && d.st == .m c then r.mask &&& ~~~dx else r.mask) r.data
      (traceKind r.kind) r.src true
    if r.kind = .wrh && !r.issued then
      match r.core with
      | some w => updateOwn w r.pline r.mask r.data
      | none => pure ()
    return .ok rep
  | .atom =>
    put { d with st := st }
    match r.atom with
    | none => pure ()
    | some a =>
      let n := if a.wide then 8 else 4
      let o := (List.range 64).find? (fun i => r.mask.getLsbD i) |>.getD 0
      let old := lineNat line o n
      let new := atomNew afadd a.op (8 * n) old (a.b.toNat % 2 ^ (8 * n)) (a.b1.toNat % 2 ^ (8 * n))
      let data := BitVec.ofNat 512 (new * 2 ^ (8 * o))
      storeBytes note r.pline d r.mask data 5 r.src true
      match r.core with
      | some w => updateOwn w r.pline r.mask data
      | none => pure ()
    return .ok rep
  | .wbo | .dereg | .leave =>
    takeNotice note r
    return .ok rep

/-- What follows the completion of a request that nobody waits for: an aborted posted store is kept for the thread's next
release (R124); a request of the link agent is answered (R392). -/
def deliver (r : Req) (rep : Except Abort Reply) : M Unit := do
  match rep, r.thread with
  | .error _, some k => modThread k fun t => { t with lost := t.lost ++ [{ order := r.order, faddr := r.faddr, finfo := r.finfo }] }
  | _, _ => pure ()
  match r.link with
  | none => pure ()
  | some id =>
    let o := (List.range 64).find? (fun i => r.mask.getLsbD i) |>.getD 0
    let n := ((List.range 64).filter fun i => r.mask.getLsbD i).length
    let back := r.kind = ReqKind.rdh || r.kind = ReqKind.atom
    let answer : Nat × List Byte := match rep with
      | .error _ => (2, [])
      | .ok x => (0, if back then ((lineBytes x.data).drop o).take n else [])
    modify fun s =>
      let a : LinkAnswer :=
        { id := id, tag := s.links.incoming.get id 0, status := answer.1, data := answer.2 }
      { s with links := { s.links with incoming := s.links.incoming.del id, answers := s.links.answers ++ [a] } }

/-- Everything a home asks before it serves a request (R147, R148). -/
def allAsks (s : State) (r : Req) : List (Nat × Ask) :=
  lineAsks s (s.dirOf r.pline) r ++ wordAsks (s.dirOf r.pline) r

/-- The address of a request after the redirection of a migrating frame (R369); `none` where no memory lies behind it. -/
def placeReq (s : State) (r : Req) : Option Req :=
  if s.hasMemory (r.pline * 64) then some { r with pline := s.redirect r.pline } else none

/-- An acknowledgement arrives: its bytes are merged (R147). -/
def applyAck (a : Ack) (r : Req) : M Unit := 
  takeReturned r a.core a.ask { mask := a.mask, data := a.data, ctx := a.ctx, engine := a.engine }

/-- Completes the request that a busy entry waits with. -/
def completeBusy (afadd : Nat → Nat → Nat) (pline : Nat) (dx : BitVec 64) : M Unit := do
  let d := (← get).dirOf pline
  match d.busy with
  | none => pure ()
  | some r =>
    setDir pline { d with busy := none }
    absorb (noteAt pline) pline r.core
    deliver r (← finishReq afadd r dx)

/-- Ends what a busy entry waits for: its messages and acknowledgements in flight arrive, and its request completes. -/
def finishBusy (afadd : Nat → Nat → Nat) (pline : Nat) : M Unit := do
  let s ← get
  match (s.dirOf pline).busy with
  | none => pure ()
  | some r =>
    let invals := s.homes.invals.filter (·.pline == pline)
    let acks := s.homes.acks.filter (·.pline == pline)
    modify fun s => { s with homes := { s.homes with
        invals := s.homes.invals.filter (·.pline != pline), acks := s.homes.acks.filter (·.pline != pline) } }
    let dx0 := acks.foldl (fun m a => m ||| a.mask) r.dx
    acks.forM fun a => applyAck a r
    let dx ← invals.foldlM (fun (m : BitVec 64) i => do return m ||| (← doAsk r (i.core, i.ask))) dx0
    completeBusy afadd pline dx

/-- A new entry needs a free way of its set of 8: when none is free the least recently used entry without a pinned word is
evicted first; where all of those are busy, what the oldest waits for ends before it is evicted (R145). -/
def makeRoom (afadd : Nat → Nat → Nat) (pline : Nat) : M Unit := do
  let s ← get
  if s.homes.dir.length < 8 || (s.homes.dir.find? pline).isSome then pure ()
  else
    let mates : Store Dir := s.homes.dir.filter fun (e : Nat × Dir) => setKey e.1 == setKey pline
    if mates.length < 8 then pure ()
    else
      let free := mates.filter fun (e : Nat × Dir) => !e.2.pinned
      match oldestOf (free.filter fun (e : Nat × Dir) => e.2.busy.isNone), oldestOf free with
      | some p, _ => evictDir p
      | none, some p => do
        finishBusy afadd p
        evictDir p
      | none, none => pure ()

/-- Whether a request makes the line need an entry (R143). -/
def ReqKind.tracks : ReqKind → Bool
  | .fills | .upg | .getm | .ext | .regw => true
  | _ => false

/-- What the home does before it asks for copies: notices are taken, other names recalled, and a way found for the entry
(R120, R145, R147). -/
def prepare (afadd : Nat → Nat → Nat) (r : Req) : M Unit := do
  absorb (noteAt r.pline) r.pline r.core
  (synonyms (← get) r).forM (recallNames r)
  if r.kind.tracks then makeRoom afadd r.pline

/-- Serves a request whole: what comes before, asks and their merges, then the request (R144, R147). -/
def serveWhole (afadd : Nat → Nat → Nat) (r : Req) : M (Except Abort Reply) := do
  prepare afadd r
  let dx ← (allAsks (← get) r).foldlM (fun (m : BitVec 64) a => do return m ||| (← doAsk r a)) 0
  finishReq afadd r dx

/-- Serves the queued requests of a line in their order, at most `n` (R144). -/
def drainQueue (afadd : Nat → Nat → Nat) (pline : Nat) : Nat → M Unit
  | 0 => pure ()
  | n + 1 => do
    let s ← get
    match s.homes.reqs.find? (·.pline == pline) with
    | none => pure ()
    | some r =>
      set { s with homes := { s.homes with reqs := s.homes.reqs.erase r } }
      deliver r (← serveWhole afadd r)
      drainQueue afadd pline n

/-- Serves everything that waits at one line before a new request (R144): messages and acknowledgements in flight, the
request of the busy entry, then the queued requests in their order. -/
def drainLine (afadd : Nat → Nat → Nat) (pline : Nat) : M Unit := do
  finishBusy afadd pline
  drainQueue afadd pline ((← get).homes.reqs.length)

/-- Whether a request to a home that satisfies `p` waits there: queued, or in a busy entry (R144). -/
def State.waiting (s : State) (p : Req → Bool) : List Nat :=
  (s.homes.dir.filter fun e => e.2.busy.any p).map (·.1) ++ (s.homes.reqs.filter p).map (·.pline)

/-- Every request that waits at its home and satisfies `p` is served, with what waits before it (R144). -/
def drainReqs (afadd : Nat → Nat → Nat) (p : Req → Bool) : M Unit := do
  ((← get).waiting p).forM (drainLine afadd)

/-- Serves a request after everything that waits at its line (R144). A request to memory, or over a rim route, that has
not come up waits (R410). -/
def serveWith (afadd : Nat → Nat → Nat) (r : Req) : M (Except Abort Reply) := do
  match placeReq (← get) r with
  | none => return .error .nomem
  | some r' =>
    if !(← get).homeReady r' then throw .stall
    drainLine afadd r'.pline
    serveWhole afadd r'

/-- Queues a request at its home (R144). -/
def queueReq (r : Req) : M Unit := do
  match placeReq (← get) r with
  | none => deliver r (.error .nomem)
  | some r' =>
    if !(← get).homeReady r' then throw .stall
    modify fun s => { s with homes := { s.homes with reqs := s.homes.reqs ++ [r'] } }

end Sys2Proof.Machine
end

