-- ==== Sys2Proof/Machine/Translate.lean ====
section
/-! DEFINITION. Translation: the view of an access, custody of frames, the table walk, the TLBs and walk caches, and the
permission checks (R357 to R365, R371 to R374). -/

namespace Sys2Proof.Machine

/-- Serves a request at its home (R144, R147). -/
def serve (r : Req) : M (Except Abort Reply) := serveWith afadd r

/-- Who accesses: a core, its mode, and the context of USER-mode translation (R358). -/
structure View where
  who : Nat
  user : Bool
  ctx : Nat
  deriving DecidableEq, Repr

/-- The tag of its translations (R358, R363). -/
def View.space (v : View) : Space :=
  if v.user then .ctx v.ctx else if isHub v.who then .hub v.who else .dev (dieOf v.who)

/-- Its side (R373). -/
def View.side (v : View) : Side := if isHub v.who then .host else .device

/-- The source of its requests; `engine` for an engine or a walker. -/
def View.source (v : View) (engine : Bool) : Source :=
  { who := v.who, ctx := if v.user then v.ctx else 0, engine := engine }

/-- The view of a thread (R345, R358). -/
def viewOf (k : Nat) (t : Thread) : View := { who := k / 8, user := !t.kern.kmode, ctx := t.kern.ctxid.toNat }

/-- The view of the issuing thread. -/
def myView : M View := do
  let k ← me
  return viewOf k (← getThread k)

/-! ## Custody (R371 to R374) -/

/-- The custody record of a frame (R372). -/
def State.custody (s : State) (frame : Nat) : Custody := s.fcu.records.get frame {}

/-- Whether a record lets a side reach its frame (R373). -/
def Custody.allows (c : Custody) (side : Side) : Bool :=
  match c.st with
  | .free => false
  | .owned | .offered => c.owner == some side
  | .lent | .recalling => c.owner == some side || c.borrower == some side
  | .revoking => (c.owner == some side || c.borrower == some side) && c.revoked != some side

/-- A page walker (R14, R363): its die, and slice × 2 + walker. -/
structure Walker where
  die : Nat
  key : Nat
  deriving DecidableEq, Repr

/-- One of the two walkers of a slice (R363): the hardware's choice (log entry 4). -/
def walkerOf (die slice : Nat) : M Walker := do return { die := die, key := slice * 2 + (← choose 2) }

/-- Adds an entry to a cache of `cap` entries; the oldest goes (log entry 11). -/
def addCapped {α : Type} (cap : Nat) (l : List α) (x : α) : List α :=
  let l' := l ++ [x]
  l'.drop (l'.length - cap)

/-- Checks a frame for the side of an access through a walker's custody-check cache of 256 frames (R374). A frame with no
memory behind it passes; a check waits for the custody unit to come up (R410). -/
def checkCustody (v : View) (w : Walker) (frame : Nat) (table : Bool) (faddr finfo : Word) : M Unit := do
  let s ← get
  if s.hasMemory (frame * 2 ^ 18) then
    let key := (v.side == .host, frame)
    let had := (s.die w.die).grants.get w.key []
    let c := s.custody frame
    let up := s.boot.rdycore.getLsbD 8
    if up && c.allows v.side then
      modDie w.die fun x =>
        let grants := if had.contains key then x.grants else x.grants.put w.key (addCapped 256 had key)
        { x with grants := grants }
    else if !had.contains key then
      if !up then throw .stall
      else if table then trap .custody 2 faddr finfo
      else trap .custody (if c.st = .revoking && c.revoked = some v.side then 1 else 0) faddr finfo

/-! ## The walk (R357 to R363) -/

/-- One bit of a table entry. -/
def ebit (e i : Nat) : Bool := e.testBit i

/-- PFN of an entry as a physical address (R359). -/
def pfnOf (e : Nat) : Nat := e / 2 ^ 18 % 2 ^ 24 * 2 ^ 18

/-- Whether a non-leaf entry breaks a rule of R359. -/
def badTable (e : Nat) : Bool := e / 2 % 2 ^ 17 != 0 || e / 2 ^ 42 != 0

/-- Whether a leaf breaks a rule of R359 or R360. `big`: an 8 GiB leaf of level 2. A remote leaf's bit 8 is bit 0 of DEVTAG:
its layout has no MIG. -/
def badLeaf (e : Nat) (big : Bool) : Bool :=
  if ebit e 7 then e / 2 ^ 16 % 4 != 0 || e / 2 ^ 52 != 0 || (big && ebit e 5)
  else e / 2 ^ 9 % 2 ^ 9 != 0 || e / 2 ^ 42 != 0 || (big && (ebit e 5 || e / 2 ^ 18 % 2 ^ 15 != 0))

/-- The subcode of a not-present entry (R362, R365). -/
def absentSub (e : Nat) : Nat := if e / 2 % 8 = 1 then 1 else 0

/-- Reads a table entry at its home (R363), which an isolated die cannot be (R157). -/
def readTable (v : View) (pa : Nat) (faddr finfo : Word) : M Nat := do
  let o := pa % 64
  if (← get).cutOff v.who (homeDie (pa / 64)) then trap .linkabort 1 faddr finfo
  match ← serve { kind := .rdh, src := v.source true, pline := pa / 64, mask := byteMask o 8 } with
  | .error .withheld => trap .memabort 0 faddr finfo
  | .error .nomem => trap .memabort 2 faddr finfo
  | .ok rep => return lineNat rep.data o 8

/-- Physical address of a context's record, on the table of a core's die (R340). -/
def recordAddr (s : State) (who ctx : Nat) : Nat := bits (s.die (dieOf who)).regs.ctxroot 41 0 + 128 * ctx

/-- The root of a view's tables, read as R358 says. -/
def rootOf (v : View) (faddr finfo : Word) : M Nat := do
  if v.user then
    let s ← get
    let base := recordAddr s v.who v.ctx
    let st ← readTable v (base + 32) faddr finfo
    if st % 8 = 0 || st % 8 = 7 then trap .page 0 faddr finfo
    readTable v base faddr finfo
  else return bits ((← getCore v.who).regs.kptroot) 41 7 * 128

/-- The walker of an access (R363): of the slice that the hash selects, on the core's die; for a hub core, on the die that
holds its tables (R358). -/
def walkerFor (v : View) (va : Nat) (faddr finfo : Word) : M Walker := do
  let die ← if isHub v.who then (do let root ← rootOf v faddr finfo; pure (homeDie (root / 64))) else pure (dieOf v.who)
  walkerOf die (Config.tlbSlice (va / 2 ^ 25) v.space.ctxid).toNat

/-- The cached table of an address prefix, if any (R363). -/
def cachedWalk (s : State) (w : Walker) (sp : Space) (level pfx : Nat) : Option Nat :=
  (((s.die w.die).walks.get w.key []).find? fun e => e.space == sp && e.level == level && e.pfx == pfx).map (·.table)

/-- Caches the non-leaf entries of a walk: 64 entries a walker (R363). -/
def cacheWalk (w : Walker) (found : List WalkEntry) : M Unit :=
  if found.isEmpty then pure ()
  else modDie w.die fun d => { d with walks := d.walks.put w.key (found.foldl (addCapped 64) (d.walks.get w.key [])) }

/-- The level-2 table of an address, with the entry to cache if it was read. -/
def walkLevel1 (v : View) (w : Walker) (va : Nat) (faddr finfo : Word) : M (Nat × List WalkEntry) := do
  let pfx := va / 2 ^ 48
  match cachedWalk (← get) w v.space 1 pfx with
  | some t => return (t, [])
  | none =>
    let root ← rootOf v faddr finfo
    checkCustody v w (root / 2 ^ 18) true faddr finfo
    let e ← readTable v (root + 8 * pfx) faddr finfo
    if !ebit e 0 then trap .page (absentSub e) faddr finfo
    if badTable e then trap .page 5 faddr finfo
    checkCustody v w (pfnOf e / 2 ^ 18) true faddr finfo
    return (pfnOf e, [{ space := v.space, level := 1, pfx := pfx, table := pfnOf e }])

/-- The target a leaf names (R359, R360). -/
def leafTarget (e : Nat) : Target :=
  if ebit e 7 then .remote (e / 2 ^ 8 % 2 ^ 8) (e / 2 ^ 18 % 2 ^ 34 * 2 ^ 18) else .phys (pfnOf e)

/-- The translation of a leaf. -/
def leafEntry (v : View) (e vbase units : Nat) : TlbEntry :=
  { space := v.space, vbase := vbase, units := units, target := leafTarget e, w := ebit e 2, x := ebit e 3, k := ebit e 4,
    trace := ebit e 6 }

/-- Reads the aligned group of 128 entries that holds entry `idx`, itself read as `e` (R361, R363). -/
def readGroup (v : View) (table idx e : Nat) (faddr finfo : Word) : M (List Nat) :=
  let g := idx / 128 * 128
  (List.range 128).mapM fun i => if g + i = idx then pure e else readTable v (table + 8 * (g + i)) faddr finfo

/-- Whether a group of 128 entries makes one 32 MiB translation (R361). -/
def contiguous (es : List Nat) : Bool :=
  let e0 := es.headD 0
  (e0 / 2 ^ 18 % 128 == 0) &&
    (List.range 128).all fun i =>
      let e := es.getD i 0
      ebit e 0 && e % 2 ^ 18 == e0 % 2 ^ 18 && e / 2 ^ 18 == e0 / 2 ^ 18 + i

/-- The frame that an access reaches is checked for custody; a leaf on another device has none here. -/
def checkLeaf (v : View) (w : Walker) (t : TlbEntry) (va : Nat) (faddr finfo : Word) : M Unit :=
  match t.target with
  | .phys b => checkCustody v w ((b + (va - t.vbase * 2 ^ 18)) / 2 ^ 18) false faddr finfo
  | .remote _ _ => pure ()

/-- The translation that a level-3 table gives an address (R361, R363). -/
def walkLevel3 (v : View) (va table : Nat) (faddr finfo : Word) : M TlbEntry := do
  let idx := va / 2 ^ 18 % 2 ^ 15
  let e ← readTable v (table + 8 * idx) faddr finfo
  if !ebit e 0 then trap .page (absentSub e) faddr finfo
  if !ebit e 1 || badLeaf e false then trap .page 5 faddr finfo
  let one := leafEntry v e (va / 2 ^ 18) 1
  if ebit e 5 then
    let es ← readGroup v table idx e faddr finfo
    if contiguous es then return leafEntry v (es.headD 0) (va / 2 ^ 25 * 128) 128 else return one
  else return one

/-- Walks the tree (R363): the translation, and the non-leaf entries read. -/
def walkTree (v : View) (w : Walker) (va : Nat) (faddr finfo : Word) : M (TlbEntry × List WalkEntry) := do
  let pfx := va / 2 ^ 33
  match cachedWalk (← get) w v.space 2 pfx with
  | some table => return (← walkLevel3 v va table faddr finfo, [])
  | none =>
    let (table2, found) ← walkLevel1 v w va faddr finfo
    let e ← readTable v (table2 + 8 * (va / 2 ^ 33 % 2 ^ 15)) faddr finfo
    if !ebit e 0 then trap .page (absentSub e) faddr finfo
    if ebit e 1 then
      if badLeaf e true then trap .page 5 faddr finfo
      return (leafEntry v e (va / 2 ^ 33 * 2 ^ 15) (2 ^ 15), found)
    else
      if badTable e then trap .page 5 faddr finfo
      checkCustody v w (pfnOf e / 2 ^ 18) true faddr finfo
      let t ← walkLevel3 v va (pfnOf e) faddr finfo
      return (t, found ++ [{ space := v.space, level := 2, pfx := pfx, table := pfnOf e }])

/-- A walk (R363): the tree, the leaf frame's custody, and only then the walk cache. The caller installs the translation. -/
def walk (v : View) (va : Nat) (faddr finfo : Word) : M TlbEntry := do
  let w ← walkerFor v va faddr finfo
  let (t, found) ← walkTree v w va faddr finfo
  checkLeaf v w t va faddr finfo
  cacheWalk w found
  return t

/-! ## The TLBs (R13, R12, R363) -/

/-- Whether an entry translates an address of a space. -/
def TlbEntry.covers (t : TlbEntry) (sp : Space) (va : Nat) : Bool :=
  t.space == sp && decide (t.vbase ≤ va / 2 ^ 18) && decide (va / 2 ^ 18 < t.vbase + t.units)

/-- Adds an entry to a TLB of `cap` entries; the oldest that no gather keeps goes (R230; log entry 11). -/
def addTlb (cap : Nat) (l : List TlbEntry) (t : TlbEntry) : List TlbEntry :=
  let l' := l.filter (fun u => !(u.space == t.space && u.vbase == t.vbase && u.units == t.units)) ++ [t]
  if l'.length ≤ cap then l'
  else match l'.find? fun u => u.kept.isNone with
    | some u => l'.erase u
    | none => l'.drop 1

/-- The slice of an address's L3 TLB (R363). -/
def l3Slice (sp : Space) (va : Nat) : Nat := (Config.tlbSlice (va / 2 ^ 25) sp.ctxid).toNat

/-- Looks a translation up in the L3 TLB of an address's slice (R363). -/
def State.l3Find (s : State) (die : Nat) (sp : Space) (va : Nat) : Option TlbEntry :=
  ((s.die die).l3.get (l3Slice sp va) []).find? (·.covers sp va)

/-- Looks a translation up in the core's, the cluster's and the die's TLB (R363). -/
def State.tlbFind (s : State) (v : View) (va : Nat) : Option TlbEntry :=
  match (s.core v.who).tlb.find? (·.covers v.space va) with
  | some t => some t
  | none =>
    if isHub v.who then none
    else match (s.cluster (v.who / 8)).tlb.find? (·.covers v.space va) with
      | some t => some t
      | none => s.l3Find (dieOf v.who) v.space va

/-- Installs a translation in the L3 TLB of an address's slice (R14, R363): 8,192 entries each. -/
def installL3 (die va : Nat) (t : TlbEntry) : M Unit :=
  let slice := l3Slice t.space va
  modDie die fun d => { d with l3 := d.l3.put slice (addTlb 8192 (d.l3.get slice []) t) }

/-- Installs a translation in every level (R363). A hub core has TLBs of its own (R358), whose size the spec does not give:
one level of 64 entries (log entry 69). -/
def installTlb (v : View) (va : Nat) (t : TlbEntry) : M Unit := do
  modCore v.who fun c => { c with tlb := addTlb 64 c.tlb t }
  if !isHub v.who then
    modCluster (v.who / 8) fun c => { c with tlb := addTlb 1024 c.tlb t }
    installL3 (dieOf v.who) va t

/-- What an access needs of its page (R364). -/
structure Need where
  w : Bool := false
  x : Bool := false
  deriving DecidableEq, Repr

/-- Permissions, checked after every fault of the walk: KERN first, then WRITE or EXEC (R364). -/
def checkPerms (v : View) (t : TlbEntry) (n : Need) (faddr finfo : Word) : M Unit := do
  if v.user && t.k then trap .page 4 faddr finfo
  if n.w && !t.w then trap .page 2 faddr finfo
  if n.x && !t.x then trap .page 3 faddr finfo

/-- Whether a view is untranslated: KERNEL mode with KPTROOT.EN = 0 (R358). -/
def untranslated (s : State) (v : View) : Bool := !v.user && !(s.core v.who).regs.kptroot.getLsbD 0

/-- A USER-mode access has no tables with CTXID 0, no context table, or a record whose STATE reads FREE or DESTROYED at its
home (R358); a record whose data is withheld is left to the walk that reads it (R399). -/
def noTables (s : State) (v : View) : Bool :=
  v.user && (v.ctx == 0 || bits (s.die (dieOf v.who)).regs.ctxroot 41 0 == 0 ||
    (let pa := recordAddr s v.who v.ctx + 32
     let st := s.seen pa 1 % 8
     let line := s.redirect (pa / 64)
     s.hasMemory pa && !s.bad.contains line && !s.latent.contains line && (st == 0 || st == 7)))

/-- The frame that a hit in a translation of several frames reaches is checked for custody as a walk checks its leaf (R373,
R374; log entry 70). -/
def checkHit (v : View) (t : TlbEntry) (va : Nat) (faddr finfo : Word) : M Unit := do
  if t.units ≠ 1 then checkLeaf v (← walkerFor v va faddr finfo) t va faddr finfo

/-- Translates an address outside the local window (R358, R363, R364): the page it lies in. -/
def translate (v : View) (va : Nat) (n : Need) (faddr finfo : Word) : M TlbEntry := do
  let s ← get
  if untranslated s v then
    if va / 2 ^ 42 != 0 then trap .page 0 faddr finfo
    let w ← walkerOf (homeDie (va / 64)) (Config.sliceOf (va / 64 % 2 ^ 33)).toNat
    checkCustody v w (va / 2 ^ 18) false faddr finfo
    return { space := v.space, vbase := va / 2 ^ 18, units := 1, target := .phys (va / 2 ^ 18 * 2 ^ 18), w := true,
             x := true, k := true, trace := false }
  else
    if noTables s v then trap .page 0 faddr finfo
    match s.tlbFind v va with
    | some t =>
      checkHit v t va faddr finfo
      checkPerms v t n faddr finfo
      return t
    | none =>
      let t ← walk v va faddr finfo
      installTlb v va t
      checkPerms v t n faddr finfo
      return t

/-- The home of an address in a page; a remote target's offset is put in by OR (R360). -/
def TlbEntry.home (t : TlbEntry) (va : Nat) : Target :=
  let o := va - t.vbase * 2 ^ 18
  match t.target with
  | .phys b => .phys (b + o)
  | .remote tag b => .remote tag (b ||| o)

end Sys2Proof.Machine
end

