-- ==== Sys2Proof/Machine/Access.lean ====
section
/-! DEFINITION. One access of a thread or an engine: the local window, the four policies at the core's L1 and the home,
atomics, memory of other devices, release and acquire (R113 to R132, R140, R149, R158, R160, R164, R391 to R394). -/

namespace Sys2Proof.Machine

/-! ## The local window (R115 to R118) -/

/-- Whether an address lies in the local window (R115). -/
def isLocal (va : Nat) : Bool := va / 2 ^ 48 % 16 == 15

/-- Size of region 0x1 for a core, 0 for a layout R117 refuses. -/
def clsSize (r : CoreRegs) : Nat :=
  let b := r.clsbase.toNat
  let n := r.clssize.toNat
  if b % 0x1000 = 0 && n % 0x1000 = 0 && b + n ≤ 2 ^ 20 && b < 2 ^ 20 && n < 2 ^ 21 then n else 0

/-- Size of region 0x3 for a core, 0 for a layout R117 refuses. -/
def cspSize (r : CoreRegs) : Nat :=
  let b := r.cspbase.toNat
  let n := r.cspsize.toNat
  if b % 0x10000 = 0 && n % 0x10000 = 0 && b + n ≤ 2 ^ 26 && b < 2 ^ 26 && n < 2 ^ 27 then n else 0

/-- Place of byte `o` of lane `i`'s slice for a thread (R118, R214). -/
def lanePlace (who : Nat) (v : Vec) (i o : Nat) : Nat :=
  if i < 8 then placeBase who (i * 2 ^ 10 + o)
  else placePool (who / 8) (v.groups.getD (i / 8 - 1) 0) (i % 8 * 2 ^ 10 + o)

/-- A place in the local window, and the region. -/
structure LocalAt where
  place : Nat
  region : Nat
  deriving DecidableEq, Repr

/-- The place of `n` bytes at a local-window address of a core, or the PAGE subcode (R116). -/
def localAt (c : CoreRegs) (who : Nat) (v : Vec) (va n : Nat) (store : Bool) : Except Nat LocalAt :=
  let off := va % 2 ^ 44
  let fit := fun (size place : Nat) (region : Nat) =>
    if off + n ≤ size then (.ok { place := place, region := region } : Except Nat LocalAt) else .error 0x10
  if isHub who then .error 0x10
  else match va / 2 ^ 44 % 16 with
    | 0 => fit (2 ^ 16) (placeScratch who off) 0
    | 1 => fit (clsSize c) (placeShared (who / 8) (c.clsbase.toNat + off)) 1
    | 2 => fit (v.vlen * 2 ^ 10) (lanePlace who v (off / 2 ^ 10) (off % 2 ^ 10)) 2
    | 3 => fit (cspSize c) (placeChip (dieOf who) (c.cspbase.toNat + off)) 3
    | 4 => if off + n ≤ 2 ^ 16 then
             (if store then .error 0x11 else .ok { place := placeInbox who off, region := 4 })
           else .error 0x10
    | _ => .error 0x10

/-! ## Scopes (R127, R131) -/

/-- The scope of a local location (R127). -/
def regionScope (region : Nat) : Scope :=
  if region = 0 || region = 4 then .core else if region = 3 then .die else .cluster

/-- FINFO of a scalar access (R123). -/
def accessInfo (w : Nat) (st at' : Bool) (pol : Nat) (acq rel : Bool) : Word :=
  BitVec.ofNat 64 (w + (if st then 8 else 0) + (if at' then 16 else 0) + pol * 32 + (if acq then 128 else 0)
    + (if rel then 256 else 0))

/-- Where an access goes after its checks: a place of the local window, a physical address, or another device. -/
inductive Where where
  | loc (place region : Nat)
  | mem (pa : Nat) (page : TlbEntry)
  | dev (tag tva : Nat) (page : TlbEntry)
  deriving DecidableEq, Repr

/-- The scope of a location (R127). -/
def Where.scope : Where → Scope
  | .loc _ r => regionScope r
  | .mem _ _ => .package
  | .dev _ _ _ => .domain

/-- Steps 2 to 4 of R123 for an access of `n` bytes at `va`. -/
def resolve (v : View) (vec : Vec) (va n : Nat) (need : Need) (store : Bool) (pol : Policy) (atomic : Bool)
    (faddr finfo : Word) : M Where := do
  if isLocal va then
    match localAt (← getCore v.who).regs v.who vec va n store with
    | .ok l => return .loc l.place l.region
    | .error sub => trap .page sub faddr finfo
  else
    let t ← translate v va need faddr finfo
    match t.home va with
    | .phys pa => return .mem pa t
    | .remote tag tva =>
      if (pol = .inv || pol = .own) && !atomic then trap .policy 0 faddr finfo
      return .dev tag tva t

/-! ## L1 evictions, release and acquire (R131, R153) -/

/-- A request that a core makes for one of its own lines. -/
def lineReq (who : Nat) (l : L1Line) (pline : Nat) (kind : ReqKind) (mask : BitVec 64) : Req :=
  { kind := kind, src := { who := who, ctx := l.space.ctxid, engine := l.byEngine mask }, pline := pline, mask := mask,
    data := l.data, vline := l.vline, space := l.space, w := l.w, k := l.k, trace := l.trace, reg := l.reg }

/-- Whether a port works (R391). -/
def LinkState.works (l : LinkState) : Bool := l == .up || l == .degraded

/-- The domain-table entry of a device for a core (R389); none, an entry of 0, where DOMTAB is 0 (R408). -/
def State.domainEntry (s : State) (who tag : Nat) : Nat :=
  let base := bits (s.die (dieOf who)).regs.domtab 41 0
  if base = 0 then 0 else s.seen (base + 8 * tag) 8

/-- Whether a port of a domain-table mask works (R391). -/
def State.portWorks (s : State) (e : Nat) : Bool :=
  (List.range 16).any fun p => e.testBit p && (s.links.ports.toList.getD p .down).works

/-- Whether a port of a domain-table mask trains for the first time: a request waits for it (R410). -/
def State.portComing (s : State) (e : Nat) : Bool :=
  (List.range 16).any fun p =>
    e.testBit p && s.links.ports.toList.getD p .down == .training && !s.boot.rdylink.getLsbD p

/-- This device's tag, as a core's die holds it (R389). -/
def State.tagOf (s : State) (who : Nat) : Nat := bits (s.die (dieOf who)).regs.devtag 7 0

/-- The route to a device: NOTAG and PATH of R394, as a subcode. -/
def routeTo (s : State) (who tag : Nat) : Option Nat :=
  let e := s.domainEntry who tag
  if !e.testBit 63 || tag = s.tagOf who then some 4
  else if s.portWorks e || s.portComing e then none
  else some 0

/-- A store that its thread has passed aborts (R124): it is kept for the thread's next release. -/
def loseStore (thread : Nat) (x : Lost) : M Unit := modThread thread fun t => { t with lost := t.lost ++ [x] }

/-- The stores that made some bytes of a line dirty abort (R124, R157, R394). -/
def loseMarks (l : L1Line) (m : BitVec 64) (link : Option Nat) : M Unit :=
  (l.marks.filter fun x => (x.mask &&& m) != 0).forM fun x =>
    loseStore x.thread { order := x.order, faddr := x.faddr, link := link, finfo := x.finfo }

/-- Dirty bytes that belong to another device go to it as a store; a release at DOMAIN scope waits for its answer (R158). -/
def postRemote (thread who tag tva : Nat) (data : List Byte) (ctx : Nat) (faddr finfo : Word) (order : Nat) : M Unit :=
  modify fun s =>
    let w : LinkWait :=
      { id := s.links.nextId, thread := thread, who := who, src := s.tagOf who, op := .store, tag := tag, va := tva,
        len := data.length, data := data, posted := true, ctx := ctx, sent := s.time, faddr := faddr, finfo := finfo, order := order }
    { s with links := { s.links with waits := s.links.waits ++ [w], nextId := s.links.nextId + 1 } }

/-- The runs of set bits of a mask: offset and length, lowest first. -/
def maskRuns (m : BitVec 64) : List (Nat × Nat) :=
  (List.range 64).foldl (fun acc i =>
    if m.getLsbD i then
      match acc.getLast? with
      | some (o, n) => if o + n = i then acc.dropLast ++ [(o, n + 1)] else acc ++ [(i, 1)]
      | none => [(i, 1)]
    else acc) []

/-- Removes the copy under a line's name from an L1. -/
def removeLine (who : Nat) (l : L1Line) : M Unit :=
  modCore who fun c => { c with l1 := c.l1.filter fun x => !x.named l.vline l.space }

/-- Clears dirty bits of the copy under a line's name. -/
def clearDirty (who : Nat) (l : L1Line) (m : BitVec 64) : M Unit :=
  modCore who <| Core.mapL1 fun x =>
    if x.named l.vline l.space then L1Line.trim { x with dirty := x.dirty &&& ~~~m } else x

/-- Before bytes of a copy leave an L1 for their home at once, what waits at the line is served (R144); the copy as it is then. -/
def settledLine (who : Nat) (l : L1Line) : M (Option L1Line) := do
  match l.home with
  | .here p => drainLine afadd ((← get).redirect p)
  | .away _ _ => pure ()
  return (← getCore who).line? l.vline l.space

/-- Writes dirty bytes of one line of a core home (WbS), or to its device, and clears them (R120, R131, R158). Where the home
or the device cannot be reached, the stores are lost (R157, R394). -/
def writeBack (who : Nat) (l : L1Line) (m : BitVec 64) : M Unit := do
  if m != 0 then
    match l.home with
    | .here p =>
      if (← get).cutOff who (homeDie p) then
        clearDirty who l m
        loseMarks l m (some 1)
      else match ← settledLine who l with
        | none => pure ()
        | some l =>
          let m := m &&& l.dirty &&& ~~~l.regBytes
          if m != 0 then
            clearDirty who l m
            match ← serve (lineReq who l p .wbs m) with
            | .ok _ => pure ()
            | .error _ => loseMarks l m none
    | .away tag tl =>
      clearDirty who l m
      match routeTo (← get) who tag with
      | some sub => loseMarks l m (some sub)
      | none =>
        l.marks.forM fun x => (maskRuns (x.mask &&& m)).forM fun r =>
          postRemote x.thread who tag (tl * 64 + r.1) (((lineBytes l.data).drop r.1).take r.2) l.space.ctxid x.faddr x.finfo
            x.order

/-- Writes the dirty SELF bytes of one line of a core home (R131). Bytes that an INV store made dirty in an exclusive copy are
performed already, and later requests probe them (R147). -/
def cleanLine (who : Nat) (l : L1Line) : M Unit := writeBack who l l.selfBytes

/-- Every dirty SELF byte of a core's L1 becomes visible at its home (R131; log entry 16). -/
def cleanCore (who : Nat) : M Unit := do
  (← getCore who).l1.forM (cleanLine who)

/-- Whether a notice of a core may wait at its home: the core's requests that wait there are write-backs and notices, which
carry other bytes (R147; log entry 68). -/
def State.mayDefer (s : State) (who pline : Nat) : Bool :=
  let p := s.redirect pline
  !((s.dirOf p).busy.any fun q => q.src.who == who) &&
    s.homes.reqs.all fun q => q.pline != p || q.src.who != who || q.kind.notice || q.kind == .wbs

/-- Sends a request that nobody waits for: its home serves it now, or `later`. -/
def sendReq (later : Bool) (r : Req) : M Unit := do
  if later then queueReq r
  else let _ ← serve r

/-- A line leaves an L1 (R153): dirty SELF bytes as WbS, registrations as Dereg with the dirty words, a tracked copy as
Leave with its dirty bytes. -/
def dropLine (who : Nat) (later : Bool) (l : L1Line) : M Unit := do
  match l.home with
  | .away _ _ =>
    writeBack who l l.dirty
    removeLine who l
  | .here p =>
    if (← get).cutOff who (homeDie p) then
      removeLine who l
      loseMarks l (l.dirty ||| l.carried) (some 1)
    else
      let later := later && (← get).mayDefer who p
      let now ← if later then pure (some l) else settledLine who l
      match now with
      | none => pure ()
      | some l =>
        let self := if l.kind = .privatised then l.selfBytes &&& ~~~l.held else l.selfBytes
        if self != 0 then
          clearDirty who l self
          sendReq later (lineReq who l p .wbs self)
        match (← getCore who).line? l.vline l.space with
        | none => pure ()
        | some l =>
          removeLine who l
          if l.reg != 0 then sendReq later (lineReq who l p .dereg (l.dirty &&& l.regBytes))
          if l.tracked then sendReq later (lineReq who l p .leave l.carried)

/-- An L1 holds 512 lines (R120); a full one evicts a line of the hardware's choice (R153), whose
home serves the requests now or later (log entry 10). -/
def evictIfFull (who : Nat) : M Unit := do
  let c ← getCore who
  if c.l1.length > 512 then
    let i ← choose c.l1.length
    match c.l1[i]? with
    | some l => dropLine who ((← choose 2) == 1) l
    | none => pure ()

/-- What an acquire leaves of a copy (R131): registered words; of a copy that the home tracks, the bytes it granted. -/
def L1Line.acquired (l : L1Line) : Option L1Line :=
  if l.tracked then some { l with valid := l.valid &&& (l.held ||| l.regBytes ||| l.dirty) }
  else match l.home with
    | .here _ => l.onlyReg
    | .away _ _ => none

/-- Every SELF copy of a core is invalidated, its dirty bytes written back first; registered words stay (R131). -/
def invalidateSelf (who : Nat) : M Unit := do
  cleanCore who
  modCore who fun c => { c with l1 := c.l1.filterMap L1Line.acquired }

/-- Whether a core waits for answers to posted stores (R131, DOMAIN; R393). -/
def State.postedBy (s : State) (who : Nat) : Bool := s.links.waits.any fun w => w.posted && w.who == who

/-- A store that aborted after the thread passed it is reported at the release, which is not performed: the first in program
order; the others are counted (R124, R404). Aborts of another device or an isolated die are reported as LINKABORT (R394). -/
def reportLost (k : Nat) : M Unit := do
  let t ← getThread k
  match t.lost ++ (← getCore (k / 8)).lost with
  | [] => pure ()
  | a :: rest =>
    modThread k fun t => { t with lost := [] }
    modCore (k / 8) fun c => { c with lost := [] }
    modDieRegs (dieOf (k / 8)) fun r => { r with errstore := rest.foldl (fun x _ => satInc64 x) r.errstore }
    let first := rest.foldl (fun (b x : Lost) => if x.order < b.order then x else b) a
    match first.link with
    | none => trap .memabort 1 first.faddr
    | some sub => trap .linkabort sub first.faddr first.finfo

/-- Every request that waits at a home and satisfies `p` is served, and every home that bytes of a core and context satisfying
`q` are on their way to, or have reached for a request that still waits, ends that request (R144, R147, R163). -/
def performAll (p : Req → Bool) (q : Nat × Nat → Bool) : M Unit := do
  ((← get).homes.acks.filter fun a => a.mask != 0 && q (a.core, a.ctx)).forM fun a => drainLine afadd a.pline
  drainReqs afadd fun r => p r || r.gave.any q

/-- The stores of a core that wait at homes as posted requests, queued or in a busy entry, are performed, and the bytes that
its L1 gave up for requests of others have their place there (R131). -/
def performPosted (who : Nat) : M Unit :=
  performAll (fun r => r.src.who == who && r.src.dev.isNone) fun g => g.1 == who

/-- The stores of a core that a plain load has read and that wait at their home are performed: at an acquire fence that load is
an acquire read (R164, R169, R175). -/
def performRead (who : Nat) : M Unit := drainReqs afadd fun r => r.read && r.src.who == who

/-- The release action at a scope (R131). -/
def release (k : Nat) (sc : Scope) : M Unit := do
  let who := k / 8
  if sc != .core then
    performPosted who
    cleanCore who
  reportLost k
  if sc = .domain then
    if (← get).postedBy who then throw .stall

/-- The acquire action at a scope (R131). -/
def acquire (k : Nat) (sc : Scope) : M Unit :=
  if sc = .core then pure () else invalidateSelf (k / 8)

/-! ## Other devices (R158, R391 to R394) -/

/-- Removes the answered requests that an agent waited for. -/
def State.dropWaits (s : State) (k : Nat) : State :=
  if s.links.waits.any (fun w => w.thread == k && !w.posted) then
    { s with links := { s.links with waits := s.links.waits.filter fun w => !(w.thread == k && !w.posted) } }
  else s

/-- A new attempt takes the answers of its requests from the first on (log entry 17). -/
def State.askAgain (s : State) : State :=
  if s.links.asked.isEmpty then s else { s with links := { s.links with asked := [] } }

/-- Runs an instruction or engine whose accesses may wait for other devices: the answers it got are kept while it waits,
and forgotten when it ends (log entry 17). -/
def remoteScope {α : Type} (k : Nat) (m : M α) : M α := fun s =>
  match m s.askAgain with
  | .ok a s' => .ok a (s'.dropWaits k)
  | .error .stall s' => .error .stall s'
  | .error e s' => .error e (s'.dropWaits k)

/-- A request of agent `k` to another device: sent once; the agent waits for its answer (R393, R394; log entry 17). Requests
that are alike take their answers one after another. Answers the data returned. -/
def remote (k : Nat) (v : View) (op : LinkOp) (tag tva len : Nat) (data : List Byte) (atop : Nat) (faddr finfo : Word) :
    M (List Byte) := do
  let s ← get
  match s.links.waits.find? (fun w => w.thread == k && !w.posted && w.op == op && w.tag == tag && w.va == tva && w.len == len
    && !s.links.asked.contains w.id) with
  | some w =>
    match w.answer with
    | none => throw .stall
    | some (st, d) =>
      set { s with links := { s.links with asked := w.id :: s.links.asked } }
      if st = 0 then return d else trap .linkabort (st - 1) faddr finfo
  | none =>
    match routeTo s v.who tag with
    | some sub => trap .linkabort sub faddr finfo
    | none =>
      if s.links.waits.any (fun w => w.posted && w.who == v.who && w.tag == tag && w.va / 64 == tva / 64) then
        throw .stall
      let w : LinkWait :=
        { id := s.links.nextId, thread := k, who := v.who, src := s.tagOf v.who, op := op, tag := tag, va := tva,
          len := len, data := data, atop := atop, ctx := if v.user then v.ctx else 0, sent := s.time, faddr := faddr }
      set { s with links := { s.links with waits := s.links.waits ++ [w], nextId := s.links.nextId + 1 } }
      throw .stall

/-- The data of an atomic request: the operand, and for ACAS the new value after it (R128, R392). -/
def AtomOp.bytes (op : AtomOp) (n : Nat) : List Byte := leBytes n op.b.toNat ++ (if op.op = 9 then leBytes n op.b1.toNat else [])

/-- ATOP: op and width (R392). -/
def AtomOp.atop (op : AtomOp) : Nat := op.op + (if op.wide then 128 else 0)

/-- Sends an atomic to another device; answers the bytes that were there (R392). -/
def remoteAtom (k : Nat) (v : View) (tag tva n : Nat) (op : AtomOp) (faddr finfo : Word) : M (List Byte) :=
  remote k v .atomic tag tva (op.bytes n).length (op.bytes n) op.atop faddr finfo

/-- A store to another device that the thread does not wait for (R393): NOTAG and PATH are reported at the next release.
Answers whether it was sent. -/
def remoteStore (k : Nat) (v : View) (tag tva : Nat) (data : List Byte) (faddr finfo : Word) : M Bool := do
  let s ← get
  match routeTo s v.who tag with
  | some sub =>
    loseStore k { order := s.run.clock, faddr := faddr, link := some sub, finfo := finfo }
    return false
  | none =>
    postRemote k v.who tag tva data (if v.user then v.ctx else 0) faddr finfo s.run.clock
    return true

/-! ## Accesses to translated memory of this package (R140, R149) -/

/-- An access of a thread at a physical address. -/
structure Acc1 where
  k : Nat
  v : View
  va : Nat
  pa : Nat
  n : Nat
  page : TlbEntry
  faddr : Word
  finfo : Word
  /-- An engine makes it for the core (R160, R202). -/
  engine : Bool := false
  deriving DecidableEq, Repr

/-- The request of an access. -/
def Acc1.req (a : Acc1) (kind : ReqKind) : Req :=
  { kind := kind, src := a.v.source a.engine, pline := a.pa / 64, mask := byteMask (a.pa % 64) a.n, vline := a.va / 64,
    space := a.v.space, w := a.page.w, k := a.page.k, trace := a.page.trace }

/-- The byte mask of an access. -/
def Acc1.mask (a : Acc1) : BitVec 64 := byteMask (a.pa % 64) a.n

/-- Step 5 of R123: an aborted access (R124), or one whose home lies on an isolated die (R157, R394). -/
def abortTrap {α : Type} (a : Acc1) (e : Abort) : M α :=
  trap .memabort (match e with | .withheld => 0 | .nomem => 2) a.faddr a.finfo

/-- LINKABORT ISOLATED for a home on an isolated die (R157). -/
def checkIsolated (a : Acc1) : M Unit := do
  if (← get).cutOff a.v.who (homeDie (a.pa / 64)) then trap .linkabort 1 a.faddr a.finfo

/-- Sends a request and takes the number that the access's bytes hold: what the core's own copy holds dirty goes before what
the home returned (R141, R169 rule 5). -/
def ask (a : Acc1) (kind : ReqKind) : M Nat := do
  match ← serve (a.req kind) with
  | .error e => abortTrap a e
  | .ok rep =>
    let line := match (← getCore a.v.who).line? (a.va / 64) a.v.space with
      | some l => blend rep.data l.data l.dirty
      | none => rep.data
    evictIfFull a.v.who
    return lineNat line (a.pa % 64) a.n

/-- The core's dirty bytes under an access are written home before a read, a store or an atomic there, so that the thread
meets its own stores in order (R147 M row of WbS, R169 rule 5, R173). -/
def flushOwn (a : Acc1) : M Unit := do
  let p := (← get).redirect (a.pa / 64)
  let lines := (← getCore a.v.who).l1.filter fun l => l.copies p && (l.dirty &&& ~~~l.regBytes &&& a.mask) != 0
  lines.forM fun l => writeBack a.v.who l (l.dirty &&& ~~~l.regBytes)

/-- The parts of an access of at most two words that lie in one word each: a D access sends a RegW for each of its words
(R146). -/
def Acc1.words (a : Acc1) : List Acc1 :=
  let n := 4 - a.pa % 4
  if a.n ≤ n then [a] else [{ a with n := n }, { a with va := a.va + n, pa := a.pa + n, n := a.n - n }]

/-- Whether a copy serves an access of a policy without a request (R149). -/
def L1Line.serves (l : L1Line) (pol : Policy) (m : BitVec 64) (store : Bool) : Bool :=
  match pol, store with
  | .self, _ => (m &&& ~~~l.valid) == 0
  | .inv, false => l.tracked && (m &&& ~~~(l.valid &&& (l.held ||| l.regBytes))) == 0
  | .inv, true => (l.kind = .exclusive || l.kind = .privatised) && (m &&& ~~~l.held) == 0
  | .own, false => (m &&& ~~~(l.valid &&& l.regBytes)) == 0
  | .own, true => (m &&& ~~~l.regBytes) == 0
  | .thru, _ => false

/-- The request of a load that its copy does not serve (R149). -/
def missOf : Policy → ReqKind
  | .self => .fillu
  | .inv => .fills
  | .own => .regw
  | .thru => .rdh

/-- The store bytes of a request. -/
def Req.stores (r : Req) : BitVec 64 := if r.kind = .regw then r.put else r.mask

/-- A load that its copy may serve meets a store of its own core to those bytes that still waits at their home: a plain SELF
load takes the bytes and leaves word of it; any other load is home-ordered, and the store is performed first (R169 rule 5,
R175). -/
def meetWaiting (a : Acc1) (pol : Policy) : M Unit := do
  let s ← get
  let p := s.redirect (a.pa / 64)
  let mine := fun (r : Req) => r.issued && r.src.who == a.v.who && r.pline == p && (r.stores &&& a.mask) != 0
  if !(s.waiting mine).isEmpty then
    if pol = .self then
      let mark := fun (r : Req) => if mine r then { r with read := true } else r
      set { s with homes := { s.homes with
        reqs := s.homes.reqs.map mark
        dir := s.homes.dir.map fun (e : Nat × Dir) => (e.1, { e.2 with busy := e.2.busy.map mark }) } }
    else drainLine afadd p

/-- A load of a part of a line (R140, R149). -/
def loadPart (a : Acc1) (pol : Policy) : M Nat := do
  meetWaiting a pol
  match (← getCore a.v.who).line? (a.va / 64) a.v.space with
  | some l => if l.serves pol a.mask false then return lineNat l.data (a.pa % 64) a.n else ask a (missOf pol)
  | none => ask a (missOf pol)

/-- A load of translated memory of this package under a policy (R140, R149). -/
def loadHome (a : Acc1) (pol : Policy) : M Nat := do
  match pol with
  | .thru =>
    flushOwn a
    ask a .rdh
  | .own =>
    let parts ← a.words.mapM fun b => loadPart b .own
    return parts.headD 0 + parts.getD 1 0 * 2 ^ (8 * (4 - a.pa % 4))
  | _ => loadPart a pol

/-- Whether a store request may wait at its home while its thread goes on: no copy of the core holds bytes of it that the
home would ask for, or registered words (R149; log entry 10). -/
def State.mayWait (s : State) (who pline : Nat) (m : BitVec 64) : Bool :=
  (s.core who).l1.all fun l =>
    !l.copies pline || (m &&& (l.regBytes ||| (if l.kind = .exclusive || l.kind = .privatised then l.carried else 0))) == 0

/-- Sends a store request that the thread does not wait for; the home serves it now or later (log entry 10), and an abort
is reported at the next release (R124). A store that waits is in the core's own copies at once (R169 rule 5). -/
def post (a : Acc1) (r : Req) : M Unit := do
  let later ← choose 2
  let s ← get
  match placeReq s r with
  | none => deliver r (.error .nomem)
  | some r' =>
    if later = 1 && s.homeReady r' && s.mayWait a.v.who r'.pline r.stores then
      updateOwn a.v.who r'.pline r.stores r.data
      queueReq { r with issued := true }
    else
      deliver r (← serve r)
      evictIfFull a.v.who

/-- Registers the word of an access to its core, if it is not; nothing is stored, so an abort leaves no part of a store behind
(R5, R123). -/
def registerWord (a : Acc1) : M Unit := do
  let held := match (← getCore a.v.who).line? (a.va / 64) a.v.space with
    | some l => l.serves .own a.mask true
    | none => false
  if !held then
    match ← serve (a.req .regw) with
    | .error e => abortTrap a e
    | .ok _ => evictIfFull a.v.who

/-- A store to translated memory of this package under a policy (R140, R149). `now`: the thread's later instructions see
it performed, and its home knows of it (R126, R328). -/
def storeHome (a : Acc1) (pol : Policy) (data : Line) (now : Bool) : M Unit := do
  let s ← get
  let mine := (s.core a.v.who).line? (a.va / 64) a.v.space
  let by' : Mark := { thread := a.k, order := s.run.clock, faddr := a.faddr, mask := 0, finfo := a.finfo, engine := a.engine }
  let put := fun (l : L1Line) => do
    modCore a.v.who fun c => c.putLine l
    wakeAll (waitsOn a.pa a.n)
    evictIfFull a.v.who
  let send := fun (r : Req) => do
    let r := { r with data := data, thread := some a.k, order := by'.order, faddr := a.faddr, finfo := a.finfo }
    if now then
      match ← serve r with
      | .error e => abortTrap a e
      | .ok _ => evictIfFull a.v.who
    else post a r
  match pol with
  | .self =>
    let pins := s.pinnedBytes (a.pa / 64) &&& a.mask
    let m := a.mask &&& ~~~pins
    if m != 0 then
      let l := mine.getD
        { vline := a.va / 64, space := a.v.space, home := .here (s.redirect (a.pa / 64)), kind := .self, valid := 0,
          dirty := 0, reg := 0, data := 0, w := a.page.w, k := a.page.k, trace := a.page.trace }
      put (l.storeSelf m data by')
    if pins != 0 then send { a.req .wbs with mask := pins }
  | .inv =>
    match mine with
    | some l =>
      if l.serves .inv a.mask true then
        if l.kind = .exclusive then put (l.store a.mask data by')
        else
          let reg := a.mask &&& l.regBytes
          let l' := { l with data := blend l.data data a.mask, dirty := l.dirty &&& ~~~(a.mask &&& ~~~reg) }
          put (if reg = 0 then l'.trim else l'.store reg data by')
      else if l.kind = .privatised then send (a.req .ext)
      else if l.kind = .sharer then send (a.req .upg)
      else
        cleanLine a.v.who l
        send (a.req .getm)
    | none => send (a.req .getm)
  | .own =>
    if now then a.words.forM registerWord
    a.words.forM fun b => do
      match (← getCore a.v.who).line? (a.va / 64) a.v.space with
      | some l =>
        if l.serves .own b.mask true then put (l.store b.mask data by')
        else send { b.req .regw with put := b.mask }
      | none => send { b.req .regw with put := b.mask }
  | .thru =>
    flushOwn a
    send (a.req .wrh)
  if now then notifyHook (s.redirect (a.pa / 64)) a.mask

/-- An atomic at home (R128); answers the old value. -/
def atomHome (a : Acc1) (op : AtomOp) : M Nat := do
  flushOwn a
  match ← serve { a.req .atom with atom := some op } with
  | .error e => abortTrap a e
  | .ok rep => return lineNat rep.data (a.pa % 64) a.n

/-! ## Scalar accesses (R122 to R128) -/

/-- The access record of a thread at a resolved physical address. -/
def acc1 (k : Nat) (v : View) (va n pa : Nat) (page : TlbEntry) (faddr finfo : Word) : Acc1 :=
  { k := k, v := v, va := va, pa := pa, n := n, page := page, faddr := faddr, finfo := finfo }

/-- The core's dirty bytes of a line of another device go there before an access that is performed there (R158, R169
rule 5). -/
def flushAway (v : View) (va n : Nat) : M Unit := do
  match (← getCore v.who).line? (va / 64) v.space with
  | some l => if (l.dirty &&& byteMask (va % 64) n) != 0 then writeBack v.who l l.dirty
  | none => pure ()

/-- Updates the core's copy of bytes of another device that an access performed there changed (R149). -/
def updateAway (v : View) (va n value : Nat) : M Unit :=
  modCore v.who <| Core.mapL1 fun l =>
    if l.named (va / 64) v.space then
      let m := byteMask (va % 64) n
      L1Line.trim { l with
        data := blend l.data (BitVec.ofNat 512 (value % 2 ^ (8 * n) * 2 ^ (8 * (va % 64)))) (m &&& l.valid)
        dirty := l.dirty &&& ~~~m }
    else l

/-- A load whose steps 1 to 4 passed (R123). -/
def loadAt (k : Nat) (v : View) (w : Where) (va n : Nat) (pol : Policy) (faddr finfo : Word) : M Nat := do
  match w with
  | .loc place _ =>
    if ← localWithheld place n v.who (if v.user then v.ctx else 0) then trap .memabort 0 faddr finfo
    return leNat (← takeBytes place n)
  | .mem pa page =>
    let a := acc1 k v va n pa page faddr finfo
    checkIsolated a
    loadHome a pol
  | .dev tag tva page =>
    if pol = .self then
      match (← getCore v.who).line? (va / 64) v.space with
      | some l =>
        if (byteMask (va % 64) n &&& ~~~l.valid) == 0 then return lineNat l.data (va % 64) n
        else
          let d ← remote k v .load tag (tva / 64 * 64) 64 [] 0 faddr finfo
          let line := blend (packLine d) l.data l.dirty
          modCore v.who fun c => c.putLine { l with data := line, valid := BitVec.allOnes 64 }
          return lineNat line (va % 64) n
      | none =>
        let d ← remote k v .load tag (tva / 64 * 64) 64 [] 0 faddr finfo
        modCore v.who fun c => c.putLine
          { vline := va / 64, space := v.space, home := .away tag (tva / 64), kind := .self, valid := BitVec.allOnes 64,
            dirty := 0, reg := 0, data := packLine d, w := page.w, k := page.k, trace := false }
        evictIfFull v.who
        return lineNat (packLine d) (va % 64) n
    else
      flushAway v va n
      return leNat (← remote k v .load tag tva n [] 0 faddr finfo)

/-- A store whose steps 1 to 4 passed. -/
def storeAt (k : Nat) (v : View) (w : Where) (va n : Nat) (pol : Policy) (value : Nat) (now : Bool) (faddr finfo : Word) :
    M Unit := do
  match w with
  | .loc place _ => putBytes place (leBytes n value)
  | .mem pa page =>
    let a := acc1 k v va n pa page faddr finfo
    if (← get).cutOff v.who (homeDie (pa / 64)) then
      if now then trap .linkabort 1 faddr finfo
      else loseStore k { order := (← get).run.clock, faddr := faddr, link := some 1, finfo := finfo }
    else if !(← get).hasMemory pa then trap .memabort 2 faddr finfo
    else storeHome a pol (BitVec.ofNat 512 (value % 2 ^ (8 * n) * 2 ^ (8 * (pa % 64)))) now
  | .dev tag tva page =>
    if pol = .self && !now then
      let l := ((← getCore v.who).line? (va / 64) v.space).getD
        { vline := va / 64, space := v.space, home := .away tag (tva / 64), kind := .self, valid := 0, dirty := 0, reg := 0,
          data := 0, w := page.w, k := page.k, trace := false }
      let order := (← get).run.clock
      modCore v.who fun c => c.putLine
        (l.storeSelf (byteMask (va % 64) n) (BitVec.ofNat 512 (value % 2 ^ (8 * n) * 2 ^ (8 * (va % 64))))
          { thread := k, order := order, faddr := faddr, mask := 0, finfo := finfo })
      evictIfFull v.who
    else
      flushAway v va n
      if now then
        let _ ← remote k v .store tag tva n (leBytes n value) 0 faddr finfo
        updateAway v va n value
      else if ← remoteStore k v tag tva (leBytes n value) faddr finfo then updateAway v va n value

/-- An atomic whose steps 1 to 4 passed; answers the old value. -/
def atomAt (k : Nat) (v : View) (w : Where) (va n : Nat) (op : AtomOp) (faddr finfo : Word) : M Nat := do
  match w with
  | .loc place _ =>
    if ← localWithheld place n v.who (if v.user then v.ctx else 0) then trap .memabort 0 faddr finfo
    let old := leNat (← takeBytes place n)
    putBytes place (leBytes n (atomNew afadd op.op (8 * n) old (op.b.toNat % 2 ^ (8 * n)) (op.b1.toNat % 2 ^ (8 * n))))
    return old
  | .mem pa page =>
    let a := acc1 k v va n pa page faddr finfo
    checkIsolated a
    atomHome a op
  | .dev tag tva _ =>
    flushAway v va n
    let d ← remoteAtom k v tag tva n op faddr finfo
    updateAway v va n (atomNew afadd op.op (8 * n) (leNat d) (op.b.toNat % 2 ^ (8 * n)) (op.b1.toNat % 2 ^ (8 * n)))
    return leNat d

/-- A hit in the L1 is served without translation, under the permissions recorded in the line (R120, R149, R364): the place
the line names. -/
def l1Hit (v : View) (va n : Nat) (need : Need) (pol : Policy) (store : Bool) : M (Option Where) := do
  match (← getCore v.who).line? (va / 64) v.space with
  | none => return none
  | some l =>
    if l.serves pol (byteMask (va % 64) n) store && (!need.w || l.w) && (!v.user || !l.k) then
      let page : TlbEntry :=
        { space := v.space, vbase := 0, units := 0, target := .phys 0, w := l.w, x := false, k := l.k, trace := l.trace }
      match l.home with
      | .here p => return some (.mem (p * 64 + va % 64) page)
      | .away tag tl => return some (.dev tag (tl * 64 + va % 64) page)
    else return none

/-- Steps 1 to 4 of R123 for a scalar access. -/
def checkScalar (va n : Nat) (need : Need) (store : Bool) (pol : Policy) (atomic : Bool) (faddr finfo : Word) : M Where := do
  if va % n ≠ 0 then trap .misalign 0 faddr finfo
  let v ← myView
  let vec := (← myThread).vec
  if !isLocal va && !atomic then
    match ← l1Hit v va n need pol store with
    | some w => return w
    | none => resolve v vec va n need store pol atomic faddr finfo
  else resolve v vec va n need store pol atomic faddr finfo

end Sys2Proof.Machine
end

