-- ==== Sys2Proof/Machine/Bulk.lean ====
section
/-! DEFINITION. Accesses of more than one element, made at home as THRU: by an engine, or by a thread for an instruction that
reads or writes a record or an image (R160, R171, R282). -/

namespace Sys2Proof.Machine

/-- Who makes the access: the key under which it waits for other devices, the view it translates in, the lane grant of its
thread, and whether it is an engine. -/
structure Agent where
  k : Nat
  v : View
  vec : Vec
  engine : Bool
  deriving DecidableEq, Repr

/-- The issuing thread as an agent. -/
def threadAgent : M Agent := do
  let k ← me
  let t ← getThread k
  return { k := k, v := viewOf k t, vec := t.vec, engine := false }

/-- A byte range cut at the boundaries of lines, wrapping at 2^52 (R113): address and length of each piece. -/
def pieces (va n : Nat) : List (Nat × Nat) :=
  if n = 0 then []
  else (List.range ((va + n - 1) / 64 - va / 64 + 1)).map fun i =>
    let lo := max va ((va / 64 + i) * 64)
    let hi := min (va + n) ((va / 64 + i + 1) * 64)
    (lo % 2 ^ 52, hi - lo)

/-- An abort completion as a trap (R124). -/
def abortCause {α : Type} (e : Abort) (faddr finfo : Word) : M α :=
  trap .memabort (match e with | .withheld => 0 | .nomem => 2) faddr finfo

/-- Reads the bytes of one piece at home or in its region. -/
def readPiece (g : Agent) (va n : Nat) (faddr finfo : Word) : M (List Byte) := do
  if isLocal va then
    match localAt (← getCore g.v.who).regs g.v.who g.vec va n false with
    | .error sub => trap .page sub faddr finfo
    | .ok l =>
      if ← localWithheld l.place n g.v.who (if g.v.user then g.v.ctx else 0) then trap .memabort 0 faddr finfo
      takeBytes l.place n
  else
    let page ← translate g.v va {} faddr finfo
    match page.home va with
    | .remote tag tva => remote g.k g.v .load tag tva n [] 0 faddr finfo
    | .phys pa =>
      let a := acc1 g.k g.v va n pa page faddr finfo
      checkIsolated a
      if g.engine then
        match ← serve { a.req .rdh with src := g.v.source true } with
        | .error e => abortCause e faddr finfo
        | .ok rep => return leBytes n (lineNat rep.data (pa % 64) n)
      else return leBytes n (← loadHome a .thru)

/-- Writes one piece at home, or in its region. -/
def writePiece (g : Agent) (va : Nat) (data : List Byte) (faddr finfo : Word) : M Unit := do
  let n := data.length
  if isLocal va then
    match localAt (← getCore g.v.who).regs g.v.who g.vec va n true with
    | .error sub => trap .page sub faddr finfo
    | .ok l => putBytes l.place data
  else
    let page ← translate g.v va { w := true } faddr finfo
    match page.home va with
    | .remote tag tva => let _ ← remote g.k g.v .store tag tva n data 0 faddr finfo
    | .phys pa =>
      let a := acc1 g.k g.v va n pa page faddr finfo
      checkIsolated a
      let line := BitVec.ofNat 512 (leNat data * 2 ^ (8 * (pa % 64)))
      if g.engine then
        match ← serve { a.req .wrh with src := g.v.source true, data := line } with
        | .error e => abortCause e faddr finfo
        | .ok _ => pure ()
      else if !(← get).hasMemory pa then trap .memabort 2 faddr finfo
      else storeHome a .thru line true

/-- Reads `n` bytes from `va` on; FADDR names the piece that fails. -/
def readVa (g : Agent) (va n : Nat) (finfo : Word := 0) : M (List Byte) := do
  return (← (pieces va n).mapM fun p => readPiece g p.1 p.2 (BitVec.ofNat 64 p.1) finfo).flatten

/-- Writes bytes from `va` on; FADDR names the piece that fails. -/
def writeVa (g : Agent) (va : Nat) (data : List Byte) (finfo : Word := 0) : M Unit :=
  (pieces va data.length).foldlM
    (fun (rest : List Byte) p => do
      writePiece g p.1 (rest.take p.2) (BitVec.ofNat 64 p.1) finfo
      return rest.drop p.2) data >>= fun _ => pure ()

/-- An aligned little-endian number of `n` bytes read at home. -/
def readNum (g : Agent) (va n : Nat) (finfo : Word := 0) : M Nat := do return leNat (← readVa g va n finfo)

end Sys2Proof.Machine
end

