-- ==== Sys2Proof/Machine/Lists.lean ====
section
/-! DEFINITION. Effect lists: descriptors and handles, capacity, entries and their images, and what collecting mode makes
of a store, a load and an atomic (R183 to R196, R205, R207). -/

namespace Sys2Proof.Machine

/-! ## Descriptors and handles (R192 to R194) -/

/-- The cluster of the issuing core. -/
def myCluster : M Nat := do return (← myWho) / 8

/-- A list of a cluster. -/
def Cluster.list? (c : Cluster) (d : Nat) : Option EList := (c.descrs.get d {}).list

/-- Changes a list. -/
def Cluster.modList (c : Cluster) (d : Nat) (f : EList → EList) : Cluster :=
  let x := c.descrs.get d {}
  { c with descrs := c.descrs.put d { x with list := x.list.map f } }

/-- The generation after `g`: 1 to 65,535, never 0 (R193). -/
def nextGen (g : Nat) : Nat := if g = 65535 then 1 else g + 1

/-- Frees a list: its entries go and its handles become invalid (R193, R203). -/
def Cluster.dropList (c : Cluster) (d : Nat) : Cluster :=
  { c with descrs := c.descrs.put d { gen := nextGen (c.descrs.get d {}).gen, list := none } }

/-- Ends a list, or leaves it with its drop pending while applications other than its commit are outstanding (R196). -/
def Cluster.endList (c : Cluster) (d : Nat) : Cluster :=
  match (c.list? d).map EList.st with
  | some (.applying left n _) => c.modList d fun l => { l with st := .applying left n true }
  | some (.committing n _) => if n ≤ 1 then c.dropList d else c.modList d fun l => { l with st := .applying false (n - 1) true }
  | _ => c.dropList d

/-- The lowest free descriptor of the 256 (R193). -/
def Cluster.freeDescr (c : Cluster) : Option Nat := (List.range 256).find? fun d => (c.list? d).isNone

/-- The resident entries of the lists a core owns: EUSED (R194). -/
def Cluster.used (c : Cluster) (who : Nat) : Nat :=
  c.descrs.foldl (fun n p => match p.2.list with
    | some l => if l.owner = who then n + l.entries.length else n
    | none => n) 0

/-- The entries of a cluster in use (R194). -/
def Cluster.usedAll (c : Cluster) : Nat :=
  c.descrs.foldl (fun n p => match p.2.list with | some l => n + l.entries.length | none => n) 0

/-- Checks room for `n` more resident entries of a core (R194). -/
def checkRoom (who n : Nat) (faddr finfo : Word) : M Unit := do
  let c ← getCluster (who / 8)
  if c.used who + n > (← getCore who).regs.ecaplim then trap .ecap 0 faddr finfo
  if c.usedAll + n > 8192 then trap .ecap 1 faddr finfo

/-- The handle of a list (R193). -/
def handleOf (cl d gen : Nat) : Word := BitVec.ofNat 64 (d + gen * 2 ^ 16 + cl * 2 ^ 32)

/-- The handle of an image (R193). -/
def imageHandle (va : Nat) : Word := BitVec.ofNat 64 (va + 2 ^ 63)

/-- What a handle names (R193). -/
inductive Handle where
  | list (d : Nat)
  | depth (d : Nat)
  | image (va : Nat)
  deriving DecidableEq, Repr

/-- Resolves a handle for the issuing thread; `none` where it is not valid (R193, R196). -/
def resolveHandle (w : Word) : M (Option Handle) := do
  let k ← me
  let t ← getThread k
  let cl := k / 8 / 8
  let c ← getCluster cl
  if w.getLsbD 63 then
    return if bits w 62 52 = 0 then some (.image (vaOf w)) else none
  else if w.getLsbD 62 then
    let n := bits w 2 0
    return if bits w 61 3 = 0 && decide (1 ≤ n) && decide (n ≤ t.lists.length) then
      (t.lists[n - 1]?).map Handle.depth else none
  else
    let d := bits w 15 0
    let x := c.descrs.get d {}
    return match x.list with
    | none => none
    | some l =>
      let live := match l.st with
        | .active => false
        | .applying _ _ drop | .committing _ drop => !drop
        | _ => true
      if decide (d < 256) && bits w 61 42 = 0 && bits w 41 32 = cl && bits w 31 16 = x.gen &&
          l.ctx = t.kern.ctxid.toNat && live then some (.list d) else none

/-- A store handle, or EBAD HANDLE (R195, R197). -/
def storeHandle (w : Word) : M Nat := do
  match ← resolveHandle w with
  | some (.list d) => return d
  | _ => trap .ebad 5

/-- A list of the issuing core's cluster. -/
def myList (d : Nat) : M EList := do return ((← getCluster (← myCluster)).list? d).getD {}

/-- Changes a list of the issuing core's cluster. -/
def modMyList (d : Nat) (f : EList → EList) : M Unit := do modCluster (← myCluster) fun c => c.modList d f

/-- A split list holds older entries in images (R196). -/
def EList.split (l : EList) : Bool := l.image.isSome

/-- Makes a list under a free descriptor, or ECAP NODESC (R184, R206). A hub core has no effect store, and the spec does not
say what an ELOAD of an image raises there: ECAP NODESC (DESIGN CHOICE, log entry 90). -/
def makeList (l : EList) : M Nat := do
  let cl ← myCluster
  let c ← getCluster cl
  if isHub (← myWho) then trap .ecap 2
  match c.freeDescr with
  | none => trap .ecap 2
  | some d =>
    modCluster cl fun c => { c with descrs := c.descrs.put d { c.descrs.get d {} with list := some l } }
    return d

/-- The handle of a descriptor of the issuing core's cluster. -/
def myHandle (d : Nat) : M Word := do
  let cl ← myCluster
  return handleOf cl d ((← getCluster cl).descrs.get d {}).gen

/-! ## Entries (R192) -/

/-- Kinds of an entry. -/
inductive EntryKind where
  | store | atomic | send | lost
  deriving DecidableEq, Repr

/-- Field of an entry. -/
def Entry.field (e : Entry) (lo len : Nat) : Nat := e.word.toNat / 2 ^ lo % 2 ^ len

/-- Address. -/
def Entry.va (e : Entry) : Nat := e.field 0 52

/-- Width in bytes. -/
def Entry.bytes (e : Entry) : Nat := 2 ^ e.field 52 3

/-- Policy. -/
def Entry.pol (e : Entry) : Policy := match e.field 55 2 with | 0 => .self | 1 => .inv | 2 => .own | _ => .thru

/-- Kind. -/
def Entry.kind (e : Entry) : EntryKind := match e.field 57 2 with | 0 => .store | 1 => .atomic | 2 => .send | _ => .lost

/-- Op of an atomic. -/
def Entry.op (e : Entry) : Nat := e.field 59 5

/-- Data. -/
def Entry.data (e : Entry) : Nat := e.field 64 64

/-- Puts an entry together. -/
def packEntry (va widthCode pol kind op data : Nat) : Entry :=
  { word := BitVec.ofNat 128
      (va % 2 ^ 52 + widthCode * 2 ^ 52 + pol * 2 ^ 55 + kind * 2 ^ 57 + op * 2 ^ 59 + data % 2 ^ 64 * 2 ^ 64) }

/-- Width code of a power of two of bytes (R59). -/
def widthCode (n : Nat) : Nat := n.log2

/-- A store entry. -/
def storeEntry (va n : Nat) (pol : Policy) (value : Nat) : Entry :=
  packEntry va (widthCode n) pol.code 0 0 (value % 2 ^ (8 * n))

/-- An atomic entry: the operand, and for a 32-bit ACAS the new value above it. -/
def atomEntry (va : Nat) (op : AtomOp) : Entry :=
  let n := if op.wide then 8 else 4
  let data := op.b.toNat % 2 ^ (8 * n)
  packEntry va (widthCode n) 0 1 op.op (if op.op = 9 then data + op.b1.toNat % 2 ^ 32 * 2 ^ 32 else data)

/-- The atomic an entry records. From an image an entry may come with WIDTH B or H, or as an ACAS of WIDTH D, which no
instruction records and which R206 does not call malformed: the first is performed as a 32-bit atomic, the second takes its
new value from the upper half of DATA (DESIGN CHOICE, log entry 90). -/
def Entry.atom (e : Entry) : AtomOp :=
  { op := e.op, wide := e.bytes == 8,
    b := BitVec.ofNat 64 (if e.bytes = 8 then e.data else e.data % 2 ^ 32), b1 := BitVec.ofNat 64 (e.data / 2 ^ 32) }

/-- An entry after an uncorrectable error (R398): the kind that R191 and R205 leave unassigned (log entry 66). -/
def Entry.lose (e : Entry) : Entry := { e with word := e.word ||| BitVec.ofNat 128 (3 * 2 ^ 57) }

/-- Whether an entry covers a byte. -/
def Entry.covers (e : Entry) (va : Nat) : Bool :=
  (e.kind == .store || e.kind == .atomic) && decide (e.va ≤ va) && decide (va < e.va + e.bytes)

/-- The new value of an atomic entry (R190). -/
def Entry.result (e : Entry) (old : Nat) : Nat :=
  let n := e.bytes
  atomNew afadd e.op (8 * n) old (e.atom.b.toNat % 2 ^ (8 * n)) (e.atom.b1.toNat % 2 ^ (8 * n))

/-- Byte `va` under entries, newest first; `mem` gives the bytes that none covers (R189, R190). -/
def byteUnder (mem : Nat → Byte) : List Entry → Nat → Byte
  | [], va => mem va
  | e :: es, va =>
    if e.covers va then
      let i := va - e.va
      if e.kind = .store then BitVec.ofNat 8 (e.data / 2 ^ (8 * i))
      else
        let old := leNat ((List.range e.bytes).map fun j => byteUnder mem es (e.va + j))
        BitVec.ofNat 8 (e.result old / 2 ^ (8 * i))
    else byteUnder mem es va

/-- The memory bytes that byte `va` needs under entries, newest first. -/
def neededUnder : List Entry → Nat → List Nat
  | [], va => [va]
  | e :: es, va =>
    if e.covers va then
      if e.kind = .store then [] else (List.range e.bytes).flatMap fun j => neededUnder es (e.va + j)
    else neededUnder es va

/-! ## Images (R205, R206) -/

/-- An image as read: entries oldest first, and the address of the older image, or 0. -/
structure Image where
  next : Nat
  entries : List Entry
  deriving DecidableEq, Repr

/-- Cuts bytes into entries. -/
def entriesOf : Nat → List Byte → List Entry
  | 0, _ => []
  | n + 1, bs => { word := BitVec.ofNat 128 (leNat (bs.take 16)) } :: entriesOf n (bs.drop 16)

/-- An entry breaks a rule of R206. -/
def Entry.malformed (e : Entry) : Bool :=
  decide (4 ≤ e.field 52 3) || e.field 57 2 == 3 || e.va % e.bytes != 0

/-- The bytes of an image of entries. -/
def imageBytes (entries : List Entry) (next ctx : Nat) : List Byte :=
  leBytes 8 entries.length ++ leBytes 8 next ++ leBytes 2 ctx ++ leBytes 46 0 ++ entries.flatMap fun e => leBytes 16 e.word.toNat

/-- What is wrong with an image chain: an image that a read failed on, or a malformed one, with its address. -/
inductive BadImage where
  | fault (t : Trap) (va : Nat)
  | malformed (va : Nat)
  deriving DecidableEq, Repr

/-- Reads and checks one image (R206). Two points the rule leaves open (DESIGN CHOICE, log entry 90): a NEXT with a nonzero bit
of 63:52 is malformed, and an address in the local window is read from the local store. -/
def readImage (g : Agent) (va ctx : Nat) : M (Except BadImage Image) := do
  if va % 64 ≠ 0 then return .error (.malformed va)
  match ← attempt (readVa g va 64) with
  | .error t => return .error (.fault t va)
  | .ok h =>
    let n := bytesAt h 0 8
    if n > 8192 || bytesAt h 16 2 ≠ ctx || (h.drop 18).any (· != 0) || bytesAt h 8 8 / 2 ^ 52 != 0 then
      return .error (.malformed va)
    match ← attempt (readVa g (va + 64) (16 * n)) with
    | .error t => return .error (.fault t va)
    | .ok bs =>
      let es := entriesOf n bs
      if es.any Entry.malformed then return .error (.malformed va)
      return .ok { next := bytesAt h 8 8, entries := es }

/-- Reads a chain of at most `fuel` images from the newest on: all entries, oldest first. -/
def readChain (g : Agent) (ctx : Nat) : Nat → Nat → M (Except BadImage (List Entry))
  | 0, va => return .error (.malformed va)
  | fuel + 1, va => do
    match ← readImage g va ctx with
    | .error e => return .error e
    | .ok im =>
      if im.next = 0 then return .ok im.entries
      else match ← readChain g ctx fuel im.next with
        | .error e => return .error e
        | .ok older => return .ok (older ++ im.entries)

/-! ## Collecting mode (R186 to R191) -/

/-- The two bits of the read signature that a line of virtual addresses sets (R207): any two, as the hash chooses. -/
def signatureBits (line : Nat) : List (BitVec 11) :=
  let p := Config.signatureHash line
  [p.1, if p.2 = p.1 then p.1 + 1 else p.2]

/-- Sets the bits of the read signature for a load that took bytes from memory (R207). -/
def markSignature (va : Nat) : M Unit :=
  modMe fun t => match t.act with
    | some a => if a.ordered then
        { t with act := some { a with sig := (a.sig ++ (signatureBits (va / 64)).map (·.toNat)).eraseDups } } else t
    | none => t

/-- Appends an entry to the innermost ACTIVE list (R187). -/
def record (e : Entry) (faddr finfo : Word) : M Unit := do
  let t ← myThread
  checkRoom (← myWho) 1 faddr finfo
  match t.lists.getLast? with
  | some d => modMyList d fun l => { l with entries := l.entries ++ [e] }
  | none => pure ()

/-- Gathers the entries that bytes of a load may meet, newest first: of the innermost list, then of the lists below it; an
image is read only where resident entries leave a byte open (R189). The rule does not say what the load raises where the image
cannot be read: the fault of that read, or EBAD IMAGE where the image is malformed (DESIGN CHOICE, log entry 90). -/
def entriesFor (va n : Nat) : List Nat → M (List Entry)
  | [] => return []
  | d :: ds => do
    let l ← myList d
    let res := l.entries.reverse
    let isOpen := fun (es : List Entry) => (List.range n).any fun i => !(neededUnder es (va + i)).isEmpty
    if !isOpen res then return res
    else
      let old ← match l.image with
        | none => pure []
        | some im => do
          match ← readChain (← threadAgent) l.ctx 4096 im with
          | .ok es => pure es.reverse
          | .error (.fault t _) => throw (.trap t)
          | .error (.malformed _) => trap .ebad 8
      let mine := res ++ old
      if !isOpen mine then return mine else return mine ++ (← entriesFor va n ds)

/-- A load of `n` bytes in collecting mode (R189). `load` reads memory at an address and a size: each run of the bytes that
come from memory and no other byte (R187). Entries are aligned (R187, R206), so these bytes lie in the load's D. -/
def collectedLoad (va n : Nat) (load : Nat → Nat → M Nat) : M Nat := do
  let es ← entriesFor va n (← myThread).lists.reverse
  let base := va / 8 * 8
  let need := ((List.range n).flatMap fun i => neededUnder es (va + i)).foldl
    (fun (m : BitVec 64) a => m ||| (1 : BitVec 64) <<< (a - base)) 0
  let parts ← (maskRuns need).mapM fun r => do return (r.1, ← load (base + r.1) r.2)
  let m := parts.foldl (fun x p => x + p.2 * 2 ^ (8 * p.1)) 0
  if !parts.isEmpty then markSignature va
  let byte := fun a => BitVec.ofNat 8 (m / 2 ^ (8 * (a - base)))
  return leNat ((List.range n).map fun i => byteUnder byte es (va + i))

end Sys2Proof.Machine
end

