-- ==== Sys2Proof/Machine/Inbox.lean ====
section
/-! DEFINITION. Slots, the end of an activation, and lane groups (R69 to R71, R75, R77, R110, R210 to R217, R266 to R269,
R280). -/

namespace Sys2Proof.Machine

/-! ## Slots (R267, R269) -/

/-- The channel record of a die. -/
def State.channel (s : State) (die num : Nat) : Channel := (s.die die).chans.get num {}

/-- Changes a channel record. -/
def modChannel (die num : Nat) (f : Channel → Channel) : M Unit :=
  modDie die fun d => { d with chans := d.chans.put num (f (d.chans.get num {})) }

/-- Slots of the allowance that are free and not kept for a woken sender. -/
def Channel.free (c : Channel) : Nat := c.allow - c.used.length - c.promised.length

/-- The threads parked in a send on a channel, by key. -/
def State.sendersOn (s : State) (die num : Nat) : List Nat :=
  s.threads.filterMap fun kt =>
    match kt.2.st with
    | .parked (.send c) => if c = die * 4096 + num then some kt.1 else none
    | .stopped (some (.send c)) _ => if c = die * 4096 + num then some kt.1 else none
    | _ => none

/-- Wakes every thread parked in a send on a channel (R269). -/
def wakeSenders (die num : Nat) : M Unit :=
  wakeAll fun r => match r with | .send c => c == die * 4096 + num | _ => false

/-- A freed slot of a channel goes to one parked sender, chosen by hardware, or to FREE; a draining channel with every slot
free is closed (R269). -/
def slotFreed (die num idx : Nat) : M Unit := do
  modChannel die num fun c => { c with used := c.used.filter (· != idx), promised := c.promised }
  let c := (← get).channel die num
  match c.st with
  | .draining => if c.used.isEmpty then modChannel die num fun c => { c with st := .closed }
  | .open =>
    let waiting := (← get).sendersOn die num
    if !waiting.isEmpty then
      let i ← choose waiting.length
      match waiting[i]? with
      | none => pure ()
      | some k =>
        modChannel die num fun c => { c with promised := c.promised ++ [k] }
        modThread k (Thread.wakeIf fun r => match r with | .send _ => true | _ => false)
  | _ => pure ()

/-- A slot that was taken for agent `k` is kept for it (R269). -/
def State.keepSlot (s : State) (die num idx k : Nat) : State :=
  let d := s.die die
  let c := d.chans.get num {}
  let c' := { c with used := c.used.filter (· != idx), promised := c.promised ++ [k] }
  s.setDie die { d with chans := d.chans.put num c' }

/-- What an agent does with a slot that it has taken (R272): where it traps the slot is freed; where it waits for another
device a slot stays kept for it. -/
def withSlot {α : Type} (die num idx k : Nat) (m : M α) : M α := fun s =>
  match m s with
  | .ok a s' => .ok a s'
  | .error .stall s' => .error .stall (s'.keepSlot die num idx k)
  | .error (.trap x) s' =>
    (match slotFreed die num idx s' with
     | .ok _ s'' => .error (.trap x) s''
     | .error _ s'' => .error (.trap x) s'')
  | .error e s' => .error e s'

/-- Frees a slot of a core's inbox (R267, R280). -/
def freeSlot (who : Nat) (sl : Slot) : M Unit :=
  match sl.chan with
  | none => modCore who fun c => { c with inbox := { c.inbox with sysUsed := c.inbox.sysUsed.filter (· != sl.off) } }
  | some num => do
    let ch := (← get).channel (dieOf who) num
    if ch.size ≠ 0 && ch.st ≠ .unbound && ch.st ≠ .sealed then slotFreed (dieOf who) num ((sl.off - ch.pool) / ch.size)

/-! ## Lane groups (R210 to R213) -/

/-- A thread gives up its lanes from `n` on: the newest groups go, with their registers and mask bits. -/
def giveUpLanes (k n : Nat) : M Unit := do
  let t ← getThread k
  let keep := n / 8 - 1
  let gone := t.vec.groups.drop keep
  modCluster (k / 8 / 8) fun c => { c with pool := c.pool.filter fun p => !gone.contains p.1 }
  modThread k fun t => { t with vec := { t.vec with
    vlen := n
    groups := t.vec.groups.take keep
    v := t.vec.v.filter fun p => decide (p.1 % 256 < n)
    m := t.vec.m.map fun x => x &&& BitVec.ofNat 256 (2 ^ n - 1) } }

/-- VREL (R217): lanes 8 and up are given up. On a hub core it has no effect (R215). -/
def releaseLanes (k : Nat) : M Unit := do
  if isHub (k / 8) then pure ()
  else
    giveUpLanes k 8
    modThread k fun t => { t with vec := { t.vec with target := 8 } }

/-! ## The end of an activation (R75, R77, R110) -/

/-- A thread without an activation (R77): within the launch UTRAP, FPSUP, ENGFLT and ENGADDR stay, and what the launch sequencer
writes, STKTOP, RSTOP and on a core that launches bind CTXID; the other registers of the thread are as at reset, those of the
kernel range among them (log entry 27). -/
def Thread.retire (t : Thread) (key : Nat) : Thread :=
  let fresh := Thread.fresh key
  { fresh with
    kern := { fresh.kern with
      stktop := t.kern.stktop
      rstop := t.kern.rstop
      ctxid := if isHub (key / 8) || isDevKernel (key / 8) then 0 else t.kern.ctxid }
    lost := t.lost
    ctl := { utrap := t.ctl.utrap, fpsup := t.ctl.fpsup, engflt := t.ctl.engflt, engaddr := t.ctl.engaddr } }

/-- Frees the slots that a thread holds (R267). -/
def freeSlots (k : Nat) (start : Bool) : M Unit := do
  let t ← getThread k
  if start then
    match t.act with
    | some a => if !a.freed then freeSlot (k / 8) a.slot
    | none => pure ()
  t.held.forM fun h => freeSlot (k / 8) h.1

/-- The lists that the thread's activation made no longer belong to it. -/
def disownLists (k : Nat) : M Unit :=
  modCluster (k / 8 / 8) fun c => { c with descrs := c.descrs.map fun p =>
    (p.1, { p.2 with list := p.2.list.map fun l => if l.maker = some k then { l with maker := none } else l }) }

/-- Drops the ACTIVE and CLOSED lists that a thread's activation made (R75, R196). -/
def dropLists (k : Nat) : M Unit := do
  let c ← getCluster (k / 8 / 8)
  c.descrs.forM fun p =>
    match p.2.list with
    | some l =>
      if l.maker = some k && (l.st = .active || l.st = .closed) then modCluster (k / 8 / 8) fun c => c.dropList p.1
      else pure ()
    | none => pure ()

/-- Removes a thread from the RECV order of its core. -/
def Inbox.forget (b : Inbox) (h : Nat) : Inbox := { b with waiters := b.waiters.filter fun w => w.1 != h }

/-- The thread becomes DORMANT: no message and no slot stays kept for it. -/
def dormant (k : Nat) : M Unit := do
  disownLists k
  modify fun s => { s with engines := s.engines.map fun e =>
    match e.op with
    | .alloc _ n => if e.thread = k then { e with op := .alloc 0 n } else e
    | _ => e }
  modCore (k / 8) fun c => { c with inbox := { (c.inbox.forget (k % 8)) with
    pending := c.inbox.pending.map fun p => if p.claim = some (k % 8) then { p with claim := none } else p } }
  modify fun s => { s with dies := s.dies.map fun p => (p.1, { p.2 with chans := p.2.chans.map fun c =>
    (c.1, { c.2 with promised := c.2.promised.filter (· != k) }) }) }
  modThread k fun t => t.retire k

/-! ## Error tokens and stage faults (R269, R278, R318) -/

/-- The PENDING messages of a channel become CANCELLED and their slots free (R75, R269). -/
def cancelPending (who num : Nat) : M Unit := do
  let c ← getCore who
  let mine := c.inbox.pending.filter fun p => p.slot.chan == some num
  modCore who fun c => { c with inbox := { c.inbox with pending := c.inbox.pending.filter fun p => p.slot.chan != some num } }
  mine.forM fun p => freeSlot who p.slot

/-- An error token reaches a channel (R269, R276): parked senders wake, and parked receivers of its class. -/
def errorToken (die num : Nat) : M Unit := do
  let c := (← get).channel die num
  if c.st = .bound || c.st = .open || c.st = .draining then
    modChannel die num fun c => { c with st := .error, promised := [] }
    if c.remote.isNone then
      cancelPending c.receiver num
      wakeSenders die num
      modify fun s => { s with threads := s.threads.map fun kt =>
        if kt.1 / 8 = c.receiver then (kt.1, kt.2.wakeIf fun r => match r with | .recv cls _ => cls == c.cls | _ => false) else kt }

/-- A context is stopping or stopped (R351, R353). -/
def State.ctxHalted (s : State) (ctx : Nat) : Bool := (s.stopping.find? ctx).isSome || s.saved.any fun v => v.ctx == ctx

/-- A launch record. -/
def State.launch? (s : State) (id : Nat) : Option Launch := s.launches.find? id

/-- Changes a launch. -/
def modLaunch (id : Nat) (f : Launch → Launch) : M Unit :=
  modify fun s => match s.launches.find? id with
    | none => s
    | some l => { s with launches := s.launches.put id (f l) }

/-- The first stage fault of a launch sends an error token down every channel of it (R318, R320); `cancel` for the
cancelling of an early dependent. The front end has its queue and its early dependents to see to next. -/
def failLaunch (id : Nat) (cancel : Bool) : M Unit := do
  match (← get).launch? id with
  | none => pure ()
  | some l =>
    if l.st = .releasing || l.st = .running || l.st = .draining then
      if !l.failing && !l.cancelling then
        l.chans.forM fun c => errorToken c.1 c.2
      let news := if cancel then !l.cancelling else !l.failing
      modLaunch id fun l => { l with
        st := .draining, failing := l.failing || !cancel, cancelling := l.cancelling || cancel, msgs := []
        unsaid := l.unsaid || news }

/-- The launch of a core: the one that holds it, or the one that a killed core held when EVICT freed it (R353, R354). -/
def State.faultLaunchOf (s : State) (who : Nat) : Option Nat :=
  match (s.core who).held with
  | some (id, _) => some id
  | none => (s.saved.find? fun v => v.who == who && v.dropped).bind fun v => v.evicted.bind fun e => e.1.held.map (·.1)

/-- An undeclared kill of a core that EVICT has freed since, or before (R353, R402). -/
def Saved.undeclared (v : Saved) : Bool := v.dropped && (match v.evicted with | some e => e.1.undeclared | none => false)

/-- A stage fault at a core (R318). -/
def stageFault (who : Nat) : M Unit := do
  match (← get).faultLaunchOf who with
  | some id => failLaunch id false
  | none => pure ()

/-- An activation is ABORTED (R75, R94): its slots are freed, its lists dropped, and its launch has a stage fault (R318). -/
def abortActivation (k : Nat) : M Unit := do
  dropLists k
  releaseLanes k
  freeSlots k true
  dormant k
  stageFault (k / 8)

/-! ## Ordered keys (R207) -/

/-- The key of a message: timestamp, sender WHO, send sequence. -/
def keyOf (header : BitVec 128) : List Nat :=
  let h := header.toNat
  [h / 2 ^ 64 % 2 ^ 32, h / 2 ^ 20 % 2 ^ 14, h / 2 ^ 96 % 2 ^ 32]

/-- Whether one key is below another, compared field by field. -/
def keyLt : List Nat → List Nat → Bool
  | x :: xs, y :: ys => decide (x < y) || (x == y && keyLt xs ys)
  | _, _ => false

/-- ENDACT of a thread (R110): `EBAD` while collecting above the base depth; a release; lanes, slots and state go; an ordered
activation's list goes to the commit arbiter. One that has no list left hands nothing over, and its start slot is freed at
once (log entry 79). -/
def endActivation : M Unit := do
  let k ← me
  let t ← getThread k
  let ordered := match t.act with | some a => a.ordered | none => false
  if t.lists.length > (if ordered then 1 else 0) then trap .ebad 0
  if (← get).allocating k then throw .stall
  modThread k Thread.settle
  release k .package
  releaseLanes k
  match t.act with
  | some a =>
    if ordered then
      freeSlots k false
      match t.lists.head? with
      | some d =>
        modCluster (k / 8 / 8) fun c => c.modList d fun l => { l with st := .committing 1 false, maker := none }
        let w : Awaiting :=
          { who := k / 8, act := a, descr := d, key := keyOf a.header, chan := a.slot.chan.getD 0, ctx := t.kern.ctxid.toNat,
            htid := k % 8, gen := ((← getCluster (k / 8 / 8)).descrs.get d {}).gen }
        modDie (dieOf (k / 8)) fun x => { x with awaiting := x.awaiting ++ [w] }
      | none => freeSlot (k / 8) a.slot
    else freeSlots k true
  | none => freeSlots k false
  dormant k

end Sys2Proof.Machine
end

