-- ==== Sys2Proof/Machine/Memory.lean ====
section
/-! DEFINITION. Scalar loads, stores and atomics, in and out of collecting mode (R122 to R129, R186, R187, R189, R190). -/

namespace Sys2Proof

/-! ## Widths -/

/-- Bytes of a load (R59). -/
def LoadWidth.bytes : LoadWidth → Nat
  | .u8 | .s8 => 1 | .u16 | .s16 => 2 | .u32 | .s32 => 4 | .u64 => 8

/-- Bytes of a store (R59). -/
def StoreWidth.bytes : StoreWidth → Nat
  | .u8 => 1 | .u16 => 2 | .u32 => 4 | .u64 => 8

/-- Extends a loaded number to a register (R122). -/
def LoadWidth.extend (w : LoadWidth) (x : Nat) : Word :=
  match w with
  | .s8 => (BitVec.ofNat 8 x).signExtend 64
  | .s16 => (BitVec.ofNat 16 x).signExtend 64
  | .s32 => (BitVec.ofNat 32 x).signExtend 64
  | _ => BitVec.ofNat 64 x

end Sys2Proof

namespace Sys2Proof.Machine

/-- Address of the M format: base plus the scaled offset, modulo 2^52 (R54, R122). -/
def offsetVa (base : Word) (off : BitVec 9) (n : Nat) : Nat :=
  (BitVec.ofNat 52 (vaOf base) + BitVec.ofInt 52 (off.toInt * n)).toNat

/-- Address of an indexed access (R125). -/
def indexVa (base idx : Word) : Nat := (vaOf base + idx.toNat) % 2 ^ 52

/-! ## Loads -/

/-- The place of address `a`, where `w` is the place of address `va` of the same page. -/
def Where.shift (w : Where) (va a : Nat) : Where :=
  match w with
  | .loc p r => .loc (p + a - va) r
  | .mem pa page => .mem (pa + a - va) page
  | .dev tag tva page => .dev tag (tva + a - va) page

/-- Loads a number and answers where it lies (R122, R123, R189). An acquire load with policy SELF reads at home (R126). An
INV or OWN load registers, and needs W (R364; log entry 20). -/
def loadScalar (va n : Nat) (pol : Policy) (acq : Bool) (finfo : Word) : M (Nat × Where) := do
  let k ← me
  let v ← myView
  let fa := BitVec.ofNat 64 va
  let eff := if acq && pol = .self then Policy.thru else pol
  let w ← checkScalar va n { w := pol = .inv || pol = .own } false eff false fa finfo
  if !isLocal va && (← collecting) then
    let x ← collectedLoad va n fun a m =>
      loadAt k v (w.shift va a) a m eff fa finfo
    return (x, w)
  else return (← loadAt k v w va n eff fa finfo, w)

/-- LD and LDX: the load's result is a long-latency one (R78, R122). -/
def load (d : Reg) (va : Nat) (pol : Policy) (w : LoadWidth) : M Unit := do
  let (x, _) ← loadScalar va w.bytes pol false (accessInfo w.code false false pol.code false false)
  produce d (w.extend x)

/-! ## Stores -/

/-- Steps 1 and 2 of R123 for a store or atomic in collecting mode: the local window is refused (R186, R195). -/
def refuseLocal (va n : Nat) (fa finfo : Word) : M Unit := do
  if va % n ≠ 0 then trap .misalign 0 fa finfo
  if isLocal va then trap .ebad 4

/-- Stores a number (R122, R125, R187). `rel`: a STREL, whose release comes after its checks (R123), and whose store is
visible at home before anything later (R126). -/
def storeScalar (va n : Nat) (pol : Policy) (value : Nat) (rel : Bool) (finfo : Word) : M Unit := do
  let k ← me
  let v ← myView
  let fa := BitVec.ofNat 64 va
  if ← collecting then
    refuseLocal va n fa finfo
    let _ ← checkScalar va n { w := true } true pol false fa finfo
    record (storeEntry va n pol value) fa finfo
  else
    let w ← checkScalar va n { w := true } true (if rel && pol = .self then .thru else pol) false fa finfo
    if rel then release k w.scope
    storeAt k v w va n (if rel && pol = .self then .thru else pol) value rel fa finfo

/-! ## Atomics (R128, R129, R190) -/

/-- Bytes of an atomic. -/
def atomBytes (wide : Bool) : Nat := if wide then 8 else 4

/-- Performs an atomic, or records it while collecting; answers the old value. -/
def atomic (va : Nat) (op : AtomOp) (o : AtomicOrder) : M Nat := do
  let k ← me
  let v ← myView
  let n := atomBytes op.wide
  let fa := BitVec.ofNat 64 va
  let acq := o = .acq || o = .ar
  let rel := o = .rel || o = .ar
  let finfo := accessInfo (if op.wide then 3 else 2) true true 0 acq rel
  if ← collecting then
    if op.op = 9 && op.wide then trap .ebad 3
    refuseLocal va n fa finfo
    let w ← checkScalar va n { w := true } true .thru true fa finfo
    let old ← collectedLoad va n fun a m =>
      loadAt k v (w.shift va a) a m .thru fa finfo
    record (atomEntry va op) fa finfo
    if acq then acquire k w.scope
    return old
  else
    let w ← checkScalar va n { w := true } true .thru true fa finfo
    if rel then release k w.scope
    let old ← atomAt k v w va n op fa finfo
    if acq then acquire k w.scope
    return old

/-- The form of an atomic of one operand. -/
def formAtomic (d a b : Reg) (e f wide : Bool) (o : AtomicOrder) (len op : Nat) : M Unit := straight len do
  let base ← readG a e
  let x ← readG b f
  checkDest d
  remoteScope (← me) do
    let old ← atomic (vaOf base) { op := op, wide := wide, b := x, b1 := 0 } o
    produce d (BitVec.ofNat 64 old)

/-- LD (R122). -/
def doLd (p : Bool) (d a : Reg) (l : Policy) (w : LoadWidth) (e : Bool) (o : BitVec 9) (len : Nat) : M Unit :=
  straight len do
    let base ← readIn p a e
    checkDest d
    remoteScope (← me) (load d (offsetVa base o w.bytes) l w)

/-- The meaning of `ld`. -/
def execLd (p : Bool) (d a : Reg) (l : Policy) (w : LoadWidth) (e : Bool) (o : BitVec 9) (s : State) : Host.Outcome State Fault Refusal :=
  finish (doLd p d a l w e o 4) s

/-- ST: the empty-bit governs base and data (R57, R122). -/
def doSt (p : Bool) (d a : Reg) (l : Policy) (w : StoreWidth) (e : Bool) (o : BitVec 9) (len : Nat) : M Unit :=
  straight len do
    let base ← readIn p a e
    let x ← readIn p d e
    remoteScope (← me) (storeScalar (offsetVa base o w.bytes) w.bytes l x.toNat false
      (accessInfo w.code true false l.code false false))

/-- The meaning of `st`. -/
def execSt (p : Bool) (d a : Reg) (l : Policy) (w : StoreWidth) (e : Bool) (o : BitVec 9) (s : State) : Host.Outcome State Fault Refusal :=
  finish (doSt p d a l w e o 4) s

/-- LDX (R125). -/
def doLdx (p : Bool) (d a b : Reg) (e f : Bool) (l : Policy) (w : LoadWidth) (len : Nat) : M Unit :=
  straight len do
    let base ← readIn p a e
    let idx ← readIn p b f
    checkDest d
    remoteScope (← me) (load d (indexVa base idx) l w)

/-- The meaning of `ldx`. -/
def execLdx (p : Bool) (d a b : Reg) (e f : Bool) (l : Policy) (w : LoadWidth) (s : State) : Host.Outcome State Fault Refusal :=
  finish (doLdx p d a b e f l w 4) s

/-- STX: the data register parks on empty (R57, R125). -/
def doStx (p : Bool) (d a b : Reg) (e f : Bool) (l : Policy) (w : StoreWidth) (len : Nat) : M Unit :=
  straight len do
    let base ← readIn p a e
    let idx ← readIn p b f
    let x ← readIn p d false
    remoteScope (← me) (storeScalar (indexVa base idx) w.bytes l x.toNat false
      (accessInfo w.code true false l.code false false))

/-- The meaning of `stx`. -/
def execStx (p : Bool) (d a b : Reg) (e f : Bool) (l : Policy) (w : StoreWidth) (s : State) : Host.Outcome State Fault Refusal :=
  finish (doStx p d a b e f l w 4) s

/-- LDACQ: the load, then an acquire at the scope of its location (R125 to R127). -/
def doLdacq (p : Bool) (d a : Reg) (e : Bool) (l : Policy) (w : LoadWidth) (len : Nat) : M Unit :=
  straight len do
    let base ← readIn p a e
    checkDest d
    remoteScope (← me) do
      let (x, place) ← loadScalar (vaOf base) w.bytes l true (accessInfo w.code false false l.code true false)
      acquire (← me) place.scope
      produce d (w.extend x)

/-- The meaning of `ldacq`. -/
def execLdacq (p : Bool) (d a : Reg) (e : Bool) (l : Policy) (w : LoadWidth) (s : State) : Host.Outcome State Fault Refusal :=
  finish (doLdacq p d a e l w 4) s

/-- STREL: a release at the scope of its location, then the store (R125 to R127). -/
def doStrel (p : Bool) (a b : Reg) (e f : Bool) (l : Policy) (w : StoreWidth) (len : Nat) : M Unit :=
  straight len do
    let base ← readIn p a e
    let x ← readIn p b f
    remoteScope (← me) (storeScalar (vaOf base) w.bytes l x.toNat true (accessInfo w.code true false l.code false true))

/-- The meaning of `strel`. -/
def execStrel (p : Bool) (a b : Reg) (e f : Bool) (l : Policy) (w : StoreWidth) (s : State) : Host.Outcome State Fault Refusal :=
  finish (doStrel p a b e f l w 4) s

/-- Atomic add (R128). -/
def doAadd (d a b : Reg) (e f w : Bool) (o : AtomicOrder) (len : Nat) : M Unit :=
  formAtomic d a b e f w o len 0

/-- The meaning of `aadd`. -/
def execAadd (d a b : Reg) (e f w : Bool) (o : AtomicOrder) (s : State) : Host.Outcome State Fault Refusal :=
  finish (doAadd d a b e f w o 4) s

/-- Atomic AND (R128). -/
def doAand (d a b : Reg) (e f w : Bool) (o : AtomicOrder) (len : Nat) : M Unit :=
  formAtomic d a b e f w o len 1

/-- The meaning of `aand`. -/
def execAand (d a b : Reg) (e f w : Bool) (o : AtomicOrder) (s : State) : Host.Outcome State Fault Refusal :=
  finish (doAand d a b e f w o 4) s

/-- Atomic OR (R128). -/
def doAor (d a b : Reg) (e f w : Bool) (o : AtomicOrder) (len : Nat) : M Unit :=
  formAtomic d a b e f w o len 2

/-- The meaning of `aor`. -/
def execAor (d a b : Reg) (e f w : Bool) (o : AtomicOrder) (s : State) : Host.Outcome State Fault Refusal :=
  finish (doAor d a b e f w o 4) s

/-- Atomic XOR (R128). -/
def doAxor (d a b : Reg) (e f w : Bool) (o : AtomicOrder) (len : Nat) : M Unit :=
  formAtomic d a b e f w o len 3

/-- The meaning of `axor`. -/
def execAxor (d a b : Reg) (e f w : Bool) (o : AtomicOrder) (s : State) : Host.Outcome State Fault Refusal :=
  finish (doAxor d a b e f w o 4) s

/-- Atomic signed minimum (R128). -/
def doAmin (d a b : Reg) (e f w : Bool) (o : AtomicOrder) (len : Nat) : M Unit :=
  formAtomic d a b e f w o len 4

/-- The meaning of `amin`. -/
def execAmin (d a b : Reg) (e f w : Bool) (o : AtomicOrder) (s : State) : Host.Outcome State Fault Refusal :=
  finish (doAmin d a b e f w o 4) s

/-- Atomic signed maximum (R128). -/
def doAmax (d a b : Reg) (e f w : Bool) (o : AtomicOrder) (len : Nat) : M Unit :=
  formAtomic d a b e f w o len 5

/-- The meaning of `amax`. -/
def execAmax (d a b : Reg) (e f w : Bool) (o : AtomicOrder) (s : State) : Host.Outcome State Fault Refusal :=
  finish (doAmax d a b e f w o 4) s

/-- Atomic unsigned minimum (R128). -/
def doAminn (d a b : Reg) (e f w : Bool) (o : AtomicOrder) (len : Nat) : M Unit :=
  formAtomic d a b e f w o len 6

/-- The meaning of `aminn`. -/
def execAminn (d a b : Reg) (e f w : Bool) (o : AtomicOrder) (s : State) : Host.Outcome State Fault Refusal :=
  finish (doAminn d a b e f w o 4) s

/-- Atomic unsigned maximum (R128). -/
def doAmaxn (d a b : Reg) (e f w : Bool) (o : AtomicOrder) (len : Nat) : M Unit :=
  formAtomic d a b e f w o len 7

/-- The meaning of `amaxn`. -/
def execAmaxn (d a b : Reg) (e f w : Bool) (o : AtomicOrder) (s : State) : Host.Outcome State Fault Refusal :=
  finish (doAmaxn d a b e f w o 4) s

/-- Atomic swap (R128). -/
def doAswap (d a b : Reg) (e f w : Bool) (o : AtomicOrder) (len : Nat) : M Unit :=
  formAtomic d a b e f w o len 8

/-- The meaning of `aswap`. -/
def execAswap (d a b : Reg) (e f w : Bool) (o : AtomicOrder) (s : State) : Host.Outcome State Fault Refusal :=
  finish (doAswap d a b e f w o 4) s

/-- Atomic compare-and-swap of a register pair (R56, R128). -/
def doAcas (d a b : Reg) (e f w : Bool) (o : AtomicOrder) (len : Nat) : M Unit :=
  straight len do
    let base ← readG a e
    let x ← readG b f
    let y ← readG (b + 1) f
    checkDest d
    remoteScope (← me) do
      let old ← atomic (vaOf base) { op := 9, wide := w, b := x, b1 := y } o
      produce d (BitVec.ofNat 64 old)

/-- The meaning of `acas`. -/
def execAcas (d a b : Reg) (e f w : Bool) (o : AtomicOrder) (s : State) : Host.Outcome State Fault Refusal :=
  finish (doAcas d a b e f w o 4) s

/-- Atomic FP32 add (R129). -/
def doAfadd (d a b : Reg) (e f : Bool) (o : AtomicOrder) (len : Nat) : M Unit :=
  formAtomic d a b e f false o len 10

/-- The meaning of `afadd`. -/
def execAfadd (d a b : Reg) (e f : Bool) (o : AtomicOrder) (s : State) : Host.Outcome State Fault Refusal :=
  finish (doAfadd d a b e f o 4) s

end Sys2Proof.Machine
end

