-- ==== Sys2Proof/Machine/Channels.lean ====
section
/-! DEFINITION. Sending and receiving messages, and their arrival (R265 to R281). -/

namespace Sys2Proof.Machine

/-! ## Endpoints and headers -/

/-- Endpoint `n` of a core. -/
def Core.ep (c : Core) (n : Nat) : Endpoint := c.inbox.eps.get n {}

/-- Changes an endpoint. -/
def modEp (who n : Nat) (f : Endpoint → Endpoint) : M Unit :=
  modCore who fun c => { c with inbox := { c.inbox with eps := c.inbox.eps.put n (f (c.ep n)) } }

/-- The header of R268. -/
def headerOf (len : Nat) (trunc err note ord : Bool) (remote : Option Nat) (cls who chan ts seq : Nat) : BitVec 128 :=
  BitVec.ofNat 128 (len + (if trunc then 2 ^ 11 else 0) + (if err then 2 ^ 12 else 0) + (if note then 2 ^ 13 else 0)
    + (if ord then 2 ^ 14 else 0) + (if remote.isSome then 2 ^ 15 else 0) + cls * 2 ^ 16 + who % 2 ^ 14 * 2 ^ 20
    + remote.getD 0 % 256 * 2 ^ 34 + chan % 4096 * 2 ^ 42 + ts % 2 ^ 32 * 2 ^ 64 + seq % 2 ^ 32 * 2 ^ 96)

/-- Payload length of a header. -/
def headerLen (h : BitVec 128) : Nat := h.toNat % 2 ^ 11

/-- A bit of a header. -/
def headerBit (h : BitVec 128) (i : Nat) : Bool := h.getLsbD i

/-- The inbox address of an offset, as g3 and RECV give it (R71). -/
def inboxVa (off : Nat) : Nat := 0xF * 2 ^ 48 + 4 * 2 ^ 44 + off

/-- The status that a channel's state gives a send, if it refuses one (R273). -/
def refusal : ChanState → Option Nat
  | .draining | .closed => some 2
  | .error => some 3
  | .sealed => some 4
  | _ => none

/-- Takes a slot of a channel for a thread: one kept for it, or a free one; which free slot is the hardware's choice
(R269, R272). `none` where the sender must wait. -/
def takeSlot (die num : Nat) (k : Nat) : M (Option Nat) := do
  let c := (← get).channel die num
  let mine := c.promised.contains k
  if c.st ≠ .open || (!mine && c.free = 0) then return none
  else
    let open' := (List.range c.allow).filter fun i => !c.used.contains i
    let i ← choose open'.length
    match open'[i]? with
    | none => return none
    | some idx =>
      modChannel die num fun c => { c with used := c.used ++ [idx], promised := c.promised.filter (· != k) }
      return some idx

/-- Sends a message that has its slot (R266, R272). -/
def launchMessage (die num idx : Nat) (src : Nat) (ep : Option (Nat × Nat)) (header : BitVec 128) (bytes : List Byte)
    (ctx : Nat) : M Unit := do
  let c := (← get).channel die num
  modify fun s => { s with flights := s.flights ++
    [{ src := src, dst := c.receiver, cls := c.cls, place := some (num, idx), header := header, bytes := bytes, ep := ep,
       ctx := ctx }] }

/-- Delivers on an endpoint whose slot is reserved: the header, the sequence and LASTTS (R272). -/
def deliverOn (who n die num idx : Nat) (len ts : Nat) (bytes : List Byte) (ord note err : Bool) (ctx : Nat) : M Unit := do
  let c := (← get).channel die num
  let e := (← getCore who).ep n
  let h := headerOf bytes.length (decide (bytes.length < len)) err note ord none c.cls who num (if ord then ts else 0)
    e.seq.toNat
  modEp who n fun e => { e with seq := e.seq + 1, lastts := if ord then BitVec.ofNat 32 ts else e.lastts }
  launchMessage die num idx who (some (who, n)) h bytes ctx

/-! ## SEND, SENDR, TSEND (R272) -/

/-- The three sends. -/
inductive SendKind where
  | send | sendr | tsend
  deriving DecidableEq, Repr

/-- The endpoint of a send word after its checks, in the order of R272: endpoint number, die, channel number. -/
def checkSend (kind : SendKind) (y : Word) : M (Nat × Nat × Nat) := do
  let n := bits y 15 0
  let len := bits y 31 16
  let ts := bits y 63 32
  let core ← getCore (← myWho)
  let e := core.ep n
  match (if n < 64 then e.chan else none) with
  | none => trap .chan 0 0 y
  | some (die, num) =>
    let c := (← get).channel die num
    if c.st = .unbound then trap .chan 0 0 y
    if kind ≠ .tsend && ts ≠ 0 then trap .chan 4 0 y
    if len > (if kind = .sendr then 8 else 1024) then trap .chan 1 0 y
    if c.ord ≠ decide (kind = .tsend) then trap .chan 2 0 y
    if kind = .tsend && ts < e.lastts.toNat then trap .chan 3 0 y
    return (n, die, num)

/-- Checks a payload as a load of bytes: steps 1 to 4 of R123; not in region 0x2 (R272). -/
def checkPayload (va len : Nat) : M Unit := do
  let v ← myView
  let vec := (← myThread).vec
  let fi := accessInfo 0 false false 3 false false
  (pieces va len).forM fun p => do
    let fa := BitVec.ofNat 64 p.1
    if isLocal p.1 && p.1 / 2 ^ 44 % 16 = 2 then trap .page 0x10 fa fi
    let _ ← resolve v vec p.1 p.2 {} false .thru false fa fi

/-- A port takes a message to another device: LINKABORT where none can (R391, R394; FADDR and FINFO: log entry 14), and a wait
for one that trains for the first time (R410). -/
def reachDevice (who tag : Nat) : M Unit := do
  let s ← get
  match routeTo s who tag with
  | some sub => trap .linkabort sub
  | none => if s.portWorks (s.domainEntry who tag) then pure () else throw .stall

/-- A send to another device (R391, R392): the status comes from the receiver there (log entry 21). -/
def sendRemote (d : Reg) (who n die num tag len ts : Nat) (ord : Bool) (read : Nat → M (List Byte)) : M Unit := do
  reachDevice who tag
  let c := (← get).channel die num
  let e := (← getCore who).ep n
  let st ← choose 5
  if st ≥ 2 then writeG d (BitVec.ofNat 64 st)
  else
    let bytes ← read len
    let dev := bits (← getDie (dieOf who)).regs.devtag 7 0
    let h := headerOf bytes.length false false false ord (some dev) c.cls who num (if ord then ts else 0) e.seq.toNat
    modEp who n fun e => { e with seq := e.seq + 1, lastts := if ord then BitVec.ofNat 32 ts else e.lastts }
    modify fun s =>
      { s with links := { s.links with sends := s.links.sends ++ [{ tag := tag, chan := num % 4096, header := h, bytes := bytes }] } }
    writeG d (if st = 1 && len > 64 then 1 else 0)

/-- The body of a send after its checks (R272). -/
def sendChecked (kind : SendKind) (d : Reg) (x y : Word) (n die num : Nat) : M Unit := do
  let k ← me
  let who := k / 8
  let len := bits y 31 16
  let ts := bits y 63 32
  let c := (← get).channel die num
  release k (if c.remote.isSome then .domain else .package)
  let read := fun (m : Nat) => if kind = .sendr then pure (leBytes m x.toNat) else do
    readVa (← threadAgent) (vaOf x) m (accessInfo 0 false false 3 false false)
  if !((← getCore who).ep n).isOpen then writeG d 2
  else match refusal c.st with
  | some st => writeG d (BitVec.ofNat 64 st)
  | none =>
    match c.remote with
    | some tag => sendRemote d who n die num tag len ts c.ord read
    | none =>
      match ← takeSlot die num k with
      | none => park (.send (die * 4096 + num))
      | some idx =>
        let m := min len c.size
        let bytes ← withSlot die num idx k (read m)
        deliverOn who n die num idx len ts bytes c.ord false false (← myThread).kern.ctxid.toNat
        writeG d (if m < len then 1 else 0)

/-- SEND, SENDR and TSEND; a TSEND in collecting mode is recorded (R191, R272). Two points that the spec leaves open there
(DESIGN CHOICE, log entry 90): a payload of no byte raises no EBAD LOCAL, wherever its address lies, and ECAP records the
payload address in FADDR. -/
def sendForm (kind : SendKind) (d a b : Reg) (e f : Bool) (len : Nat) : M Unit := straight len do
  let x ← readG a e
  let y ← readG b f
  checkDest d
  if kind ≠ .tsend then forbidCollecting
  remoteScope (← me) do
    let (n, die, num) ← checkSend kind y
    let size := bits y 31 16
    if ← collecting then
      if (pieces (vaOf x) size).any fun p => isLocal p.1 then trap .ebad 4
      checkPayload (vaOf x) size
      record { packEntry (vaOf x) 0 0 2 0 y.toNat with chan := some (die, num) } (BitVec.ofNat 64 (vaOf x)) 0
      let c := (← get).channel die num
      writeG d (if c.size < size && c.remote.isNone then 1 else 0)
    else
      if kind ≠ .sendr then checkPayload (vaOf x) size
      sendChecked kind d x y n die num

/-- SEND (R272). -/
def doSend (d a b : Reg) (e f : Bool) (len : Nat) : M Unit := sendForm .send d a b e f len

/-- The meaning of `send`. -/
def execSend (d a b : Reg) (e f : Bool) (s : State) : Host.Outcome State Fault Refusal := finish (doSend d a b e f 4) s

/-- SENDR (R272). -/
def doSendr (d a b : Reg) (e f : Bool) (len : Nat) : M Unit := sendForm .sendr d a b e f len

/-- The meaning of `sendr`. -/
def execSendr (d a b : Reg) (e f : Bool) (s : State) : Host.Outcome State Fault Refusal := finish (doSendr d a b e f 4) s

/-- TSEND (R191, R272). -/
def doTsend (d a b : Reg) (e f : Bool) (len : Nat) : M Unit := sendForm .tsend d a b e f len

/-- The meaning of `tsend`. -/
def execTsend (d a b : Reg) (e f : Bool) (s : State) : Host.Outcome State Fault Refusal := finish (doTsend d a b e f 4) s

/-! ## RECV, MSGFREE, CHSTAT (R276 to R278) -/

/-- The value RECV writes with no slot (R276). -/
def noMessage : Word := (2 : Word) ^ 63

/-- Channels of a core's die that the core receives. -/
def State.received (s : State) (who : Nat) : List (Nat × Channel) :=
  (s.die (dieOf who)).chans.filter fun p => p.2.receiver == who && p.2.st != .unbound && p.2.remote.isNone

/-- The message of a class that a thread of a core may take: one kept for it, or the earliest that nobody claims. -/
def Inbox.forThread (b : Inbox) (h cls : Nat) : Option Pending :=
  match b.pending.find? fun p => p.claim == some h with
  | some p => some p
  | none => b.pending.find? fun p => p.claim.isNone && p.slot.cls == cls

/-- RECV (R276). -/
def doRecv (d a : Reg) (e : Bool) (len : Nat) : M Unit := straight len do
  let x ← readG a e
  checkDest d
  forbidCollecting
  let k ← me
  let who := k / 8
  let s ← get
  let cls := bits x 3 0
  if bits x 63 4 ≠ 0 then produce d noMessage
  else if (s.received who).any fun p => p.2.cls == cls && p.2.ord then produce d noMessage
  else
    let box := (s.core who).inbox
    match box.forThread (k % 8) cls with
    | some p =>
      modCore who fun c => { c with inbox := { (c.inbox.forget (k % 8)) with pending := c.inbox.pending.erase p } }
      modMe fun t => { t with held := t.held ++ [(p.slot, p.header)] }
      acquire k (if headerBit p.header 15 then .domain else .package)
      produce d (BitVec.ofNat 64 (inboxVa p.slot.off + headerLen p.header * 2 ^ 52
        + (if headerBit p.header 12 then 2 ^ 63 else 0)))
    | none =>
      if (s.received who).any fun p => p.2.cls == cls && p.2.st == .error then
        modCore who fun c => { c with inbox := c.inbox.forget (k % 8) }
        produce d noMessage
      else
        modCore who fun c => { c with inbox := { c.inbox with
          waiters := if c.inbox.waiters.contains (k % 8, cls) then c.inbox.waiters
                     else (c.inbox.forget (k % 8)).waiters ++ [(k % 8, cls)] } }
        park (.recv cls d.toNat)

/-- The meaning of `recv`. -/
def execRecv (d a : Reg) (e : Bool) (s : State) : Host.Outcome State Fault Refusal := finish (doRecv d a e 4) s

/-- The header of the slot that a thread holds at a payload address (R267, R277, R278). -/
def Thread.slotAt (t : Thread) (va : Nat) : Option (Slot × BitVec 128) :=
  let start := match t.act with
    | some a => if a.freed then none else some (a.slot, a.header)
    | none => none
  (start.toList ++ t.held).find? fun h => inboxVa h.1.off == va

/-- MSGFREE (R277). -/
def doMsgfree (d a : Reg) (e : Bool) (len : Nat) : M Unit := straight len do
  let x ← readG a e
  checkDest d
  forbidCollecting
  let k ← me
  release k .core
  let t ← myThread
  match t.slotAt (vaOf x) with
  | none => writeG d 1
  | some (sl, _) =>
    let isStart := match t.act with | some a => !a.freed && a.slot == sl | none => false
    let ordered := match t.act with | some a => a.ordered | none => false
    if isStart && ordered then writeG d 1
    else
      if isStart then modMe fun t => { t with act := t.act.map fun a => { a with freed := true } }
      else modMe fun t => { t with held := t.held.filter fun h => h.1 != sl }
      freeSlot (k / 8) sl
      writeG d 0

/-- The meaning of `msgfree`. -/
def execMsgfree (d a : Reg) (e : Bool) (s : State) : Host.Outcome State Fault Refusal := finish (doMsgfree d a e 4) s

/-- The code of a channel's state in CHSTAT (R278). -/
def ChanState.code : ChanState → Nat
  | .unbound => 0 | .bound => 1 | .open => 2 | .draining => 3 | .closed => 4 | .error => 5 | .sealed => 6

/-- CHSTAT's report of an endpoint (R278). -/
def endpointReport (s : State) (who n : Nat) : Nat :=
  match (if n < 64 then ((s.core who).ep n).chan else none) with
  | none => 0
  | some (die, num) =>
    let c := s.channel die num
    if c.st = .unbound then 0
    else c.st.code + c.free * 2 ^ 3 + c.allow * 2 ^ 10
      + (if c.size = 256 then 1 else if c.size = 1024 then 2 else 0) * 2 ^ 17 + (if c.ord then 2 ^ 19 else 0)
      + num % 4096 * 2 ^ 20 + ((s.core who).ep n).seq.toNat * 2 ^ 32

/-- CHSTAT (R278). -/
def doChstat (d a b : Reg) (e f : Bool) (len : Nat) : M Unit := straight len do
  let x ← readG a e
  let y ← readG b f
  checkDest d
  forbidCollecting
  let s ← get
  let k ← me
  let hdr := fun (lo : Nat) => match (s.thread k).slotAt (vaOf x) with
    | some h => BitVec.ofNat 64 (h.2.toNat / 2 ^ lo)
    | none => BitVec.allOnes 64
  writeG d <|
    if y = 0 then BitVec.ofNat 64 (endpointReport s (k / 8) x.toNat)
    else if y = 1 then hdr 0
    else if y = 2 then hdr 64
    else if y = 3 then BitVec.ofNat 64
      ((s.core (k / 8)).inbox.pending.filter fun p => p.claim.isNone && p.slot.cls == bits x 3 0).length
    else 0

/-- The meaning of `chstat`. -/
def execChstat (d a b : Reg) (e f : Bool) (s : State) : Host.Outcome State Fault Refusal := finish (doChstat d a b e f 4) s

/-! ## Arrival (R74, R266, R268, R276, R280) -/

/-- The thread that a message goes to: the one that parked first in RECV on its class and that none is kept for (R276). -/
def Inbox.taker (b : Inbox) (p : Pending) (ordered : Bool) : Option Nat :=
  if ordered then none
  else (b.waiters.find? fun w => w.2 == p.slot.cls && !(b.pending.any fun q => q.claim == some w.1)).map (·.1)

/-- The inbox with a message more (R74). -/
def Inbox.withPending (b : Inbox) (p : Pending) (ordered : Bool) : Inbox :=
  { b with pending := b.pending ++ [{ p with claim := b.taker p ordered }] }

/-- A message becomes PENDING at a core, or goes to the thread that parked first in RECV on its class (R74, R276). -/
def pend (who : Nat) (p : Pending) (ordered : Bool) : M Unit := do
  let taker := (← getCore who).inbox.taker p ordered
  modCore who fun c => { c with inbox := c.inbox.withPending p ordered }
  match taker with
  | some h => modThread (who * 8 + h) (Thread.wakeIf fun r => match r with | .recv _ _ => true | _ => false)
  | none => pure ()

/-- Places a message's bytes and header in a slot (R266, R268). -/
def placeMessage (who off : Nat) (header : BitVec 128) (bytes : List Byte) : M Unit := do
  putBytes (placeInbox who off) bytes
  modCore who fun c => { c with inbox := { c.inbox with headers := c.inbox.headers.put off header } }

/-- Whether a saved record holds a core for a launch: EVICT has freed the core, and its inbox is in the record (R354). -/
def Saved.standsFor (v : Saved) (who launch : Nat) : Bool :=
  v.who == who && !v.dropped && (match v.evicted with | some e => e.1.held.map (·.1) == some launch | none => false)

/-- A message for a core that EVICT has freed lands in the saved inbox, PENDING (R353). -/
def Saved.takes (v : Saved) (p : Pending) (ordered : Bool) (bytes : List Byte) : Saved :=
  { v with
    stores := v.stores.setBytes (placeInbox v.who p.slot.off) bytes
    evicted := v.evicted.map fun e => ({ e.1 with inbox :=
      { e.1.inbox.withPending p ordered with headers := e.1.inbox.headers.put p.slot.off p.header } }, e.2) }

/-- The number that names a sender endpoint of a channel for R208; a front end's endpoints count as one. -/
def senderKey (num who ep : Nat) : Nat := num * 2 ^ 30 + who * 128 + min ep 64

/-- The `k`-th message in flight arrives, unless an earlier one of its endpoint has not (R74, R268). A message for a killed
core, or on a channel in ERROR, is dropped and its slot freed (R75, R269). -/
def arrive (k : Nat) : M Unit := do
  let s ← get
  match s.flights[k]? with
  | none => pure ()
  | some fl =>
    if fl.ep.isSome && ((s.flights.take k).any fun x => x.ep == fl.ep) then pure ()
    else
      set { s with flights := s.flights.eraseIdx k }
      match fl.place with
      | none => pure ()
      | some (num, idx) =>
        let die := dieOf fl.dst
        let c := s.channel die num
        let sl : Slot := { off := c.pool + idx * c.size, size := c.size, chan := some num, cls := fl.cls }
        if c.st = .sealed || c.st = .unbound then pure ()
        else if c.st = .error then freeSlot fl.dst sl
        else
          if c.ord then
            match fl.ep with
            | some (w, e) => modDie die fun d => { d with commits := { d.commits with
                latest := d.commits.latest.put (senderKey num w e) (keyOf fl.header) } }
            | none => pure ()
          let p : Pending := { slot := sl, header := fl.header }
          if s.saved.any (fun v => v.standsFor fl.dst c.launch) then
            let land := fun (v : Saved) => if v.standsFor fl.dst c.launch then v.takes p c.ord fl.bytes else v
            modify fun s => { s with saved := s.saved.map land }
          else
            placeMessage fl.dst sl.off fl.header fl.bytes
            pend fl.dst p c.ord

/-- The lowest free slot of a system pool of a core (R280). -/
def Core.systemSlot (c : Core) (pool : Nat) : Option Nat :=
  let base := if pool = 15 then 0 else 0x2000
  ((List.range 128).map fun i => base + 64 * i).find? fun o => !c.inbox.sysUsed.contains o

/-- The release at PACKAGE scope that sending a system message is (R280, R131). It is performed before the message is placed:
what a core stored before it sent the message is at home when the message can be received. The other sources perform their
accesses at home at once, and have nothing to release. -/
def systemRelease : Origin → M Unit
  | .core who => do
    performPosted who
    cleanCore who
  | _ => pure ()

/-- The `k`-th waiting system message is placed, if a slot of its pool is free and no earlier one of its source waits
(R280). -/
def deliverSystem (k : Nat) : M Unit := do
  let s ← get
  match s.sysmsgs[k]? with
  | none => pure ()
  | some fl =>
    if (s.sysmsgs.take k).any fun x => x.origin == fl.origin then pure ()
    else
      systemRelease fl.origin
      let s ← get
      let c := s.core fl.dst
      match c.systemSlot fl.pool with
      | none => pure ()
      | some off =>
        set { s with sysmsgs := s.sysmsgs.eraseIdx k }
        let seq := if fl.pool = 15 then c.inbox.seq15 else c.inbox.seq14
        let h := headerOf 32 false false false false none fl.cls fl.src 0xFFF 0 seq.toNat
        modCore fl.dst fun c => { c with inbox := { c.inbox with
          sysUsed := c.inbox.sysUsed ++ [off]
          seq14 := if fl.pool = 15 then c.inbox.seq14 else c.inbox.seq14 + 1
          seq15 := if fl.pool = 15 then c.inbox.seq15 + 1 else c.inbox.seq15 } }
        placeMessage fl.dst off h fl.bytes
        pend fl.dst { slot := { off := off, size := 64, chan := none, cls := fl.cls }, header := h } false

/-- SYSTEM_MESSAGE_DELIVERY (R280). -/
def execSystemMessageDelivery (k : Nat) (s : State) : Host.Outcome State Fault Refusal := finish (deliverSystem k) s

/-- The sender number of a core of another device, in keys of endpoints. -/
def remoteSender (tag who : Nat) : Nat := 2 ^ 14 * (tag + 1) + who

/-- A message from another device takes a slot of its channel, if one is free (R269, R392; log entry 21); its endpoint is
known from now on (log entry 80). -/
def remoteMessage (die num tag who ep ts seq : Nat) (note err : Bool) (bytes : List Byte) : M Unit := do
  let c := (← get).channel die num
  if c.remote.isSome then pure ()
  else match ← takeSlot die num (2 ^ 40) with
    | none => pure ()
    | some idx =>
      let n := min bytes.length c.size
      let h := headerOf n (decide (n < bytes.length)) err note c.ord (some tag) c.cls who num (if c.ord then ts else 0) seq
      let me := remoteSender tag who * 64 + ep
      modChannel die num fun c => { c with feeders := if c.feeders.contains me then c.feeders else c.feeders ++ [me] }
      launchMessage die num idx who (some (remoteSender tag who, ep)) h (bytes.take n) 0

/-! ## The closing of channels (R269, R313, R316) -/

/-- Whether the front end's endpoint of launch `id` is open and feeds a channel: its start messages name the channel, and one
of the launch's start messages is still to be sent or delivered (R313). -/
def State.startsOpen (s : State) (id : Nat) (l : Launch) (pl : Nat × Nat) : Bool :=
  (l.starts.any fun i => l.chans[i]? == some pl) &&
    (!l.msgs.isEmpty || s.flights.any fun fl => fl.ep == some (0, 64 + id))

/-- Whether a channel still has an open sender: an endpoint of a core of this device or another, or of a front end. -/
def channelFed (s : State) (pl : Nat × Nat) : Bool :=
  s.cores.any (fun c => c.2.inbox.eps.any fun e => e.2.isOpen && e.2.chan == some pl) ||
  !(s.channel pl.1 pl.2).feeders.isEmpty || s.launches.any fun l => s.startsOpen l.1 l.2 pl

/-- An open channel whose every sender is closed drains, or is closed when every slot is free (R269). -/
def settleChannel (pl : Nat × Nat) : M Unit := do
  let s ← get
  let c := s.channel pl.1 pl.2
  if c.st = .open && !channelFed s pl then
    modChannel pl.1 pl.2 fun c => { c with st := if c.used.isEmpty then .closed else .draining }

/-- A sender endpoint of another device closes (R269). -/
def remoteCloses (die num tag who ep : Nat) : M Unit := do
  modChannel die num fun c => { c with feeders := c.feeders.filter (· != remoteSender tag who * 64 + ep) }
  settleChannel (die, num)

/-- The channels that a front end's endpoint feeds settle: they close once it is closed, after the launch's last start message
(R269, R313). -/
def settleStarts (id : Nat) : M Unit := do
  match (← get).launch? id with
  | some l => l.starts.forM fun i => match l.chans[i]? with
    | some pl => settleChannel pl
    | none => pure ()
  | none => pure ()

/-- MESSAGE_ARRIVAL: the `k`-th message in flight arrives; the last start message of a launch closes the front end's endpoint
(R74, R269, R313). -/
def messageArrival (k : Nat) : M Unit := do
  match (← get).flights[k]? with
  | none => pure ()
  | some fl =>
    arrive k
    match fl.ep with
    | some (_, e) => if 64 ≤ e then settleStarts (e - 64)
    | none => pure ()

/-- MESSAGE_ARRIVAL (R74). -/
def execMessageArrival (k : Nat) (s : State) : Host.Outcome State Fault Refusal := finish (messageArrival k) s

end Sys2Proof.Machine
end

