-- ==== Sys2Proof/Machine/Shapes.lean ====
section
/-! DEFINITION. Format-aware pointers and tensor shape records: the checks of R37, R227, R240, R241 and R284. -/

namespace Sys2Proof.Machine

/-! ## Fat pointers (R37, R114, R227) -/

/-- Format code of a fat pointer. -/
def fmtOf (w : Word) : Nat := bits w 63 58

/-- Bytes of an element of a format; 1 where several elements share bytes (R225, R240). -/
def elemBytes (code : Nat) : Nat :=
  match code with
  | 0x00 | 0x01 => 4
  | 0x02 | 0x03 | 0x07 => 2
  | 0x0C => 8
  | _ => 1

/-- The first rule of R37 that a fat pointer breaks, as a subcode of R227. -/
def fatFault (accept : Nat → Bool) (w : Word) : Option Nat :=
  let c := fmtOf w
  if c > 0x0C then some 0
  else if !accept c then some 1
  else if bits w 57 54 ≠ (if c = 8 then 6 else 0) then some 2
  else if bits w 53 52 ≠ 0 then some 3
  else none

/-- Checks a fat pointer; `faddr` is g[a][51:0] (R227). -/
def checkFat (accept : Nat → Bool) (w : Word) (faddr : Word) : M Unit :=
  match fatFault accept w with
  | some sub => trap .format sub faddr (BitVec.ofNat 64 (fmtOf w))
  | none => pure ()

/-! ## Shape records (R240) -/

/-- A tensor shape record as read. -/
structure Shape where
  raw : List Byte
  addr : Nat
  base : Word
  ext : List Nat
  stride : List Nat
  tile : List Nat
  flags : Nat
  tail : Nat
  deriving DecidableEq, Repr

/-- A record from its 64 bytes. -/
def shapeOf (addr : Nat) (bs : List Byte) : Shape :=
  { raw := bs, addr := addr, base := BitVec.ofNat 64 (bytesAt bs 0 8)
    ext := (List.range 4).map fun i => bytesAt bs (8 + 4 * i) 4
    stride := (List.range 3).map fun i => bytesAt bs (24 + 8 * i) 8
    tile := (List.range 4).map fun i => bytesAt bs (48 + 2 * i) 2
    flags := bytesAt bs 56 4, tail := bytesAt bs 60 4 }

/-- Extent of a dimension. -/
def Shape.e (r : Shape) (i : Nat) : Nat := r.ext.getD i 0

/-- Tile extent of a dimension. -/
def Shape.t (r : Shape) (i : Nat) : Nat := r.tile.getD i 0

/-- Stride: bytes from one index of dimension `i + 1` to the next. -/
def Shape.s (r : Shape) (i : Nat) : Nat := r.stride.getD i 0

/-- Address of the base. -/
def Shape.va (r : Shape) : Nat := vaOf r.base

/-- Format of the base. -/
def Shape.fmt (r : Shape) : Nat := fmtOf r.base

/-- The overlap-allowed flag. -/
def Shape.overlap (r : Shape) : Bool := r.flags.testBit 0

/-- Reads a record at issue with THRU (R244, R284). -/
def readShape (x : Word) : M Shape := do
  let va := vaOf x
  let fi := accessInfo 3 false false 3 false false
  if va % 64 ≠ 0 then trap .misalign 0 (BitVec.ofNat 64 va) fi
  return shapeOf va (← readVa (← threadAgent) va 64 fi)

/-- Ends the instruction with SHAPE (R241). -/
def shapeTrap {α : Type} (sub : Nat) (addr : Nat) : M α := trap .shape sub (BitVec.ofNat 64 addr) 0

/-- The first of a list of failing checks, in order, raises SHAPE. -/
def shapeChecks (checks : List (Nat × Nat × Bool)) : M Unit :=
  match checks.find? fun c => c.2.2 with
  | some (sub, addr, _) => shapeTrap sub addr
  | none => pure ()

/-- The local-window region of an address; `none` outside the window. -/
def regionOf (va : Nat) : Option Nat := if isLocal va then some (va / 2 ^ 44 % 16) else none

/-! ## COPYS (R284) -/

/-- Addresses of the elements of a tile, dimension 0 fastest. -/
def Shape.elements (r : Shape) : List Nat :=
  let es := elemBytes r.fmt
  (List.range (r.t 3)).flatMap fun i3 => (List.range (r.t 2)).flatMap fun i2 =>
    (List.range (r.t 1)).flatMap fun i1 => (List.range (r.t 0)).map fun i0 =>
      (r.va + i0 * es + i1 * r.s 0 + i2 * r.s 1 + i3 * r.s 2) % 2 ^ 52

/-- The checks of R284 over the source and destination records. -/
def copysChecks (a b : Shape) : List (Nat × Nat × Bool) :=
  let both := fun (sub : Nat) (p : Shape → Bool) => [(sub, a.addr, p a), (sub, b.addr, p b)]
  let bad := fun (va : Nat) => match regionOf va with | some r => r == 2 || decide (4 < r) | none => false
  let strides := fun (r : Shape) =>
    !r.overlap && ((decide (1 < r.t 1) && decide (r.s 0 < r.e 0 * elemBytes r.fmt))
      || (decide (1 < r.t 2) && decide (r.s 1 < r.e 1 * r.s 0)) || (decide (1 < r.t 3) && decide (r.s 2 < r.e 2 * r.s 1)))
  both 0 (fun r => decide (1 < r.flags) || r.tail != 0)
    ++ [(1, a.addr, a.fmt != b.fmt)]
    ++ both 2 (fun r => r.ext.any (· == 0) || r.tile.any (· == 0))
    ++ [(3, a.addr, a.tile != b.tile)]
    ++ both 4 (fun r => r.va % elemBytes r.fmt != 0)
    ++ [(5, a.addr, bad a.va), (5, b.addr, bad b.va || regionOf b.va == some 4)]
    ++ both 6 strides
    ++ both 7 (fun r => (List.range 4).any fun i => decide (r.e i < r.t i))

/-! ## The weave array's formats (R237, R240) -/

/-- Dense K positions of a slab with a B format (R237); 0 for a code that is no B format. -/
def kdOf (bfmt : Nat) : Nat :=
  match bfmt with
  | 0x02 => 128
  | 0x04 | 0x05 | 0x06 => 256
  | 0x08 => 512
  | 0x09 | 0x0A | 0x0B => 448
  | _ => 0

/-- The pairs of R237. -/
def pairOk (afmt bfmt : Nat) : Bool :=
  match afmt with
  | 0x02 => bfmt == 0x02
  | 0x04 | 0x05 => bfmt == 0x04 || bfmt == 0x05 || bfmt == 0x08 || bfmt == 0x09 || bfmt == 0x0A
  | 0x06 => bfmt == 0x06 || bfmt == 0x0B
  | _ => false

/-- A bytes per K step (R237). -/
def aStep (afmt bfmt : Nat) : Nat := kdOf bfmt * elemBytes afmt

/-- Row bytes of a record (R240). -/
def rowBytes (fmt ext : Nat) : Nat :=
  match fmt with
  | 0x08 => ext / 16384 * 8704
  | 0x09 | 0x0A | 0x0B => ext / 224 * 128
  | _ => ext * elemBytes fmt

/-- What extent 0 must be a multiple of (R241 ALIGN). -/
def extUnit (fmt : Nat) : Nat :=
  match fmt with
  | 0x08 => 16384
  | 0x09 | 0x0A | 0x0B => 224
  | _ => 1

/-- Fields that R240 fixes, in a record of BLOAD or MWEAVES. -/
def Shape.reserved (r : Shape) : Bool :=
  r.e 2 != 1 || r.e 3 != 1 || r.s 1 != 0 || r.s 2 != 0 || r.t 2 != 1 || r.t 3 != 1 || decide (1 < r.flags) || r.tail != 0

/-- Checks of R241 that BLOAD and MWEAVES share, as functions of the record, Kd, the origin and the row bytes. -/
def Shape.zero (r : Shape) : Bool := r.e 0 == 0 || r.e 1 == 0 || r.t 0 == 0 || r.t 1 == 0

/-- ALIGN of a record and its origin. -/
def Shape.unaligned (r : Shape) (kd korg : Nat) : Bool :=
  r.va % 64 != 0 || r.s 0 % 64 != 0 || (kd != 0 && korg % kd != 0) || r.e 0 % extUnit r.fmt != 0

/-- STRIDE of a record. -/
def Shape.tight (r : Shape) : Bool := decide (r.s 0 < rowBytes r.fmt (r.e 0)) && decide (1 < r.t 1) && !r.overlap

/-- EXTENT of a record and its origin. -/
def Shape.beyond (r : Shape) (korg rorg : Nat) : Bool := decide (r.e 0 < korg + r.t 0) || decide (r.e 1 < rorg + r.t 1)

end Sys2Proof.Machine
end

