-- ==== Sys2Proof/Machine/Engines.lean ====
section
/-! DEFINITION. Engine operations (R136, R171, R282): the check of a completion object, the fork, the completion add; the copy
engines, PUT, and the allocator (R283 to R287). An engine acts whole at its completion event (log entry 22). -/

namespace Sys2Proof.Machine

/-! ## Completion objects (R136) -/

/-- Checks the placement of a completion object and answers its address. -/
def checkObject (w : Word) : M Nat := do
  let va := vaOf w
  let fa := BitVec.ofNat 64 va
  if va % 8 ≠ 0 then trap .misalign 0 fa
  match regionOf va with
  | none => return va
  | some r =>
    if r ≠ 3 then trap .page 0x10 fa
    let who ← myWho
    match localAt (← getCore who).regs who (← myThread).vec va 8 true with
    | .error sub => trap .page sub fa
    | .ok _ => return va

/-- The scope of an object's location (R127): region 0x3 DIE, another device DOMAIN, memory PACKAGE. -/
def scopeOf (va : Nat) : M Scope := do
  if isLocal va then return regionScope (va / 2 ^ 44 % 16)
  match ← attempt (translate (← myView) va {} 0 0) with
  | .ok page => (match page.home va with | .remote _ _ => return .domain | .phys _ => return .package)
  | .error _ => return .package

/-- Forks an engine for the issuing thread (R171). -/
def fork (op : EngOp) (obj : Nat) (fn : Nat) : M Unit := do
  let k ← me
  let t ← getThread k
  modify fun s =>
    let e : Engine :=
      { id := s.engineSeq, op := op, thread := k, obj := BitVec.ofNat 64 obj, fn := fn, ctx := t.kern.ctxid.toNat,
        user := !t.kern.kmode, launch := (s.core (k / 8)).held.map (·.1) }
    { s with engines := s.engines ++ [e], engineSeq := s.engineSeq + 1 }

/-- An engine as an agent: it translates in the issuing thread's context and mode. -/
def Engine.agent (e : Engine) : Agent :=
  { k := 2 ^ 32 + e.id, v := { who := e.thread / 8, user := e.user, ctx := e.ctx }, vec := {}, engine := true }

/-- Records an engine's fault in ENGFLT and ENGADDR of the issuing thread (R282). -/
def engineFault (e : Engine) (t : Trap) (addr : Nat) : M Unit :=
  modThread e.thread fun x => { x with ctl := { x.ctl with
    engflt := BitVec.ofNat 64 (t.cause.code + t.sub * 2 ^ 8 + e.fn % 256 * 2 ^ 16 + 2 ^ 24)
    engaddr := BitVec.ofNat 64 (addr % 2 ^ 52) } }

/-- Performs an atomic of an engine at an address of its context (R136, R160). -/
def engineAtomic (g : Agent) (va : Nat) (op : AtomOp) : M Unit := do
  let n := if op.wide then 8 else 4
  let fa := BitVec.ofNat 64 va
  if isLocal va then
    match localAt (← getCore g.v.who).regs g.v.who g.vec va n true with
    | .error sub => trap .page sub fa
    | .ok l =>
      if ← localWithheld l.place n g.v.who (if g.v.user then g.v.ctx else 0) then trap .memabort 0 fa
      let old := leNat (← takeBytes l.place n)
      putBytes l.place (leBytes n (atomNew afadd op.op (8 * n) old (op.b.toNat % 2 ^ (8 * n)) (op.b1.toNat % 2 ^ (8 * n))))
  else
    let page ← translate g.v va { w := true } fa 0
    match page.home va with
    | .remote tag tva =>
      let _ ← remoteAtom g.k g.v tag tva n op fa 0
    | .phys pa =>
      let a := acc1 g.k g.v va n pa page fa 0
      checkIsolated a
      match ← serve { a.req .atom with src := g.v.source true, atom := some op } with
      | .error x => abortCause x fa 0
      | .ok _ => pure ()

/-- The completion add (R136): COUNT + 1, and FAULT where the operation failed. An add that fails is recorded alone. -/
def completionAdd (g : Agent) (obj : Nat) (failed : Bool) : M (Except Trap Unit) :=
  attempt (engineAtomic g obj { op := if failed then 17 else 16, wide := true, b := 0, b1 := 0 })

/-- Changes the record of an engine. -/
def modEngine (id : Nat) (f : Engine → Engine) : M Unit :=
  modify fun s => { s with engines := s.engines.map fun e => if e.id = id then f e else e }

/-- Removes an engine. -/
def Engine.gone (e : Engine) : M Unit := modify fun s => { s with engines := s.engines.filter fun x => x.id != e.id }

/-- Ends an engine: the fault record of a failed operation, its completion add, and the record of a failed add (R136, R282).
The cause and address of a failure that is no trap are free values (log entry 6). A BLOAD has a fault record of its own
(R256). -/
def Engine.complete (e : Engine) (fault : Option Trap) : M Unit := do
  let own := match e.op with | .bload _ _ _ _ => true | _ => false
  match (if own then none else fault) with
  | some t => engineFault e t t.faddr.toNat
  | none =>
    if e.faulty then
      let w ← freeWord
      modThread e.thread fun x => { x with ctl := { x.ctl with
        engflt := BitVec.ofNat 64 (bits w 15 0 + e.fn % 256 * 2 ^ 16 + 2 ^ 24), engaddr := BitVec.ofNat 64 (vaOf w) } }
  match ← completionAdd e.agent e.obj.toNat (fault.isSome || e.faulty) with
  | .error t => engineFault e t e.obj.toNat
  | .ok () => pure ()

/-- The fault of a computation, if it has one. -/
def faultOf (m : M Unit) : M (Option Trap) := do
  match ← attempt m with
  | .ok () => return none
  | .error t => return some t

/-- Runs engine `id`: its body once, which answers its fault, then its completion add, then `after`. An engine that waits
for a slot or another device stays as it is (log entry 17). -/
def engineRun (id : Nat) (adds : Bool) (body : Engine → M (Option Trap)) (after' : Engine → M Unit) : M Unit :=
  remoteScope (2 ^ 32 + id) do
    match (← get).engines.find? fun e => e.id == id with
    | none => pure ()
    | some e =>
      let fault ← if e.finished then pure e.failed else body e
      modEngine id fun x => { x with finished := true, failed := fault }
      if adds then
        match (← get).engines.find? fun x => x.id == id with
        | some x => x.complete fault
        | none => pure ()
      after' { e with failed := fault }
      e.gone

/-- The bit of RDYENG of the unit that an operation needs: the copy engines or the allocator of the die (R409). -/
def Engine.readyBit (e : Engine) : Option Nat :=
  if isHub (e.thread / 8) then none
  else match e.op with
    | .copy _ _ _ | .copys _ _ | .put _ _ _ _ _ _ | .qcopy _ _ _ _ _ => some (dieOf (e.thread / 8))
    | .alloc _ _ | .free _ _ => some (4 + dieOf (e.thread / 8))
    | _ => none

/-- Whether the unit that an operation needs has come up; a request waits until then (R410). -/
def Engine.ready (e : Engine) (s : State) : Bool :=
  match e.readyBit with
  | none => true
  | some b => s.boot.rdyeng.getLsbD b

/-- An engine's event, where the engine's operation is the event's. -/
def engineEvent (id : Nat) (kind : EngOp → Bool) (m : M Unit) (s : State) : Host.Outcome State Fault Refusal :=
  if s.engines.any fun e => e.id == id && kind e.op && e.ready s then
    match m s with
    | .ok _ s' => .next s'
    | .error _ s' => .next s'
  else .next s

/-! ## Source and destination ranges (R282) -/

/-- A byte in region 0x2, in a reserved region or beyond its region, and a destination in region 0x4, raise PAGE LOCALWIN. -/
def checkRange (va n : Nat) (dest : Bool) : M Unit := do
  let who ← myWho
  let regs := (← getCore who).regs
  (pieces va n).forM fun p =>
    match regionOf p.1 with
    | none => pure ()
    | some r =>
      let bad := r = 2 || (dest && r = 4) ||
        (match localAt regs who {} p.1 p.2 false with | .error _ => true | .ok _ => false)
      if bad then trap .page 0x10 (BitVec.ofNat 64 p.1) (accessInfo 0 dest false 3 false false) else pure ()

/-- The operands of COPY, COPYS, PUT and GMCAST: object, two registers and the register after the second. -/
def engineOperands (d a b : Reg) (e f : Bool) : M (Word × Word × Word × Word) := do
  let o ← readP d
  let x ← readG a e
  let y ← readG b f
  let z ← readG (b + 1) f
  return (o, x, y, z)

/-! ## COPY (R283) -/

/-- COPY: checks, release at the object's scope, fork. -/
def doCopy (d a b : Reg) (e f : Bool) (len : Nat) : M Unit := straight len do
  let (o, x, y, z) ← engineOperands d a b e f
  forbidCollecting
  let obj ← checkObject o
  if bits z 63 32 ≠ 0 then trap .chan 4
  checkRange (vaOf x) z.toNat false
  checkRange (vaOf y) z.toNat true
  release (← me) (← scopeOf obj)
  fork (.copy (vaOf x) (vaOf y) z.toNat) obj 0x0A

/-- The meaning of `copy`. -/
def execCopy (d a b : Reg) (e f : Bool) (s : State) : Host.Outcome State Fault Refusal := finish (doCopy d a b e f 4) s

/-- Copies bytes: every source byte is read before any is written. -/
def copyBytes (g : Agent) (src dst n : Nat) : M Unit := do
  let bs ← readVa g src n
  writeVa g dst bs

/-- COPY_COMPLETE (R283). -/
def copyDone (e : Engine) : M (Option Trap) := do
  match e.op with
  | .copy src dst n => faultOf (copyBytes e.agent src dst n)
  | _ => return none

/-! ## COPYS (R284) -/

/-- COPYS: the records are read and checked at issue. -/
def doCopys (d a b : Reg) (e f : Bool) (len : Nat) : M Unit := straight len do
  let o ← readP d
  let x ← readG a e
  let y ← readG b f
  forbidCollecting
  remoteScope (← me) do
    let obj ← checkObject o
    let src ← readShape x
    let dst ← readShape y
    let accept := fun (c : Nat) => decide (c ≤ 7) || c == 0x0C
    checkFat accept src.base (BitVec.ofNat 64 src.addr)
    checkFat accept dst.base (BitVec.ofNat 64 dst.addr)
    shapeChecks (copysChecks src dst)
    src.elements.forM fun va => checkRange va (elemBytes src.fmt) false
    dst.elements.forM fun va => checkRange va (elemBytes dst.fmt) true
    release (← me) (← scopeOf obj)
    fork (.copys src.raw dst.raw) obj 0x0B

/-- The meaning of `copys`. -/
def execCopys (d a b : Reg) (e f : Bool) (s : State) : Host.Outcome State Fault Refusal := finish (doCopys d a b e f 4) s

/-- Copies the elements of a tile: every element is read before any is written. -/
def copyTile (g : Agent) (src dst : Shape) : M Unit := do
  let n := elemBytes src.fmt
  let data ← src.elements.mapM fun va => readVa g va n
  (dst.elements.zip data).forM fun p => writeVa g p.1 p.2

/-- COPYS_COMPLETE (R284). -/
def copysDone (e : Engine) : M (Option Trap) := do
  match e.op with
  | .copys src dst => faultOf (copyTile e.agent (shapeOf 0 src) (shapeOf 0 dst))
  | _ => return none

/-- The meaning of `copysComplete`. -/
def execCopysComplete (k : Nat) (s : State) : Host.Outcome State Fault Refusal :=
  engineEvent k (fun op => match op with | .copys _ _ => true | _ => false)
    (engineRun k true copysDone fun _ => pure ()) s

/-! ## PUT and PUTH (R285) -/

/-- Whether a control word of PUT sets a reserved bit. -/
def putReserved (z : Word) : Bool := bits z 31 24 != 0 || bits z 47 38 != 0 || bits z 63 49 != 0

/-- The endpoint of a note after its checks: die and channel number. -/
def checkNote (z : Word) : M (Nat × Nat) := do
  let e := (← getCore (← myWho)).ep (bits z 37 32)
  match e.chan with
  | none => trap .chan 0 0 z
  | some (die, num) =>
    let c := (← get).channel die num
    if c.st = .unbound then trap .chan 0 0 z
    if c.ord then trap .chan 2 0 z
    if !e.isOpen || (c.st ≠ .open && c.st ≠ .bound) then trap .chan 5 0 z
    return (die, num)

/-- An address in each page that a byte range touches. -/
def pagesOf (va n : Nat) : List Nat :=
  if n = 0 then []
  else (List.range ((va + n - 1) / 2 ^ 18 - va / 2 ^ 18 + 1)).map fun i => max va ((va / 2 ^ 18 + i) * 2 ^ 18) % 2 ^ 52

/-- PUT and PUTH. -/
def putForm (handler : Bool) (d a b : Reg) (e f : Bool) (len : Nat) : M Unit := straight len do
  let (o, x, y, z) ← engineOperands d a b e f
  forbidCollecting
  remoteScope (← me) do
    let k ← me
    let obj ← checkObject o
    let n := bits z 23 0
    if putReserved z then trap .chan 4 0 z
    (pieces (vaOf y) n).forM fun p =>
      if isLocal p.1 then trap .page 0x10 (BitVec.ofNat 64 p.1) (accessInfo 0 true false 3 false false) else pure ()
    checkRange (vaOf x) n false
    let note ← if z.getLsbD 48 then (do pure (some (← checkNote z))) else pure none
    let st ← get
    let far := match note with | some (die, num) => (st.channel die num).remote.isSome | none => false
    let there ← (pagesOf (vaOf y) n).mapM scopeOf
    release k (← if far || there.contains .domain then pure Scope.domain else scopeOf obj)
    let slot ← match note with
      | none => pure none
      | some (die, num) =>
        if far then pure (some (die, num, 0))
        else match ← takeSlot die num k with
          | none => park (.send (die * 4096 + num))
          | some idx => pure (some (die, num, idx))
    let read : M (List Byte) := do readVa (← threadAgent) (vaOf x) n (accessInfo 0 false false 3 false false)
    let data ← if handler then
        match slot with
        | some (die, num, idx) => some <$> (if far then read else withSlot die num idx k read)
        | none => some <$> read
      else pure none
    fork (.put (vaOf x) (vaOf y) n data slot (bits z 37 32)) obj (if handler then 4 else 3)

/-- PUT. -/
def doPut (d a b : Reg) (e f : Bool) (len : Nat) : M Unit := putForm false d a b e f len

/-- The meaning of `put`. -/
def execPut (d a b : Reg) (e f : Bool) (s : State) : Host.Outcome State Fault Refusal := finish (doPut d a b e f 4) s

/-- PUTH. -/
def doPuth (d a b : Reg) (e f : Bool) (len : Nat) : M Unit := putForm true d a b e f len

/-- The meaning of `puth`. -/
def execPuth (d a b : Reg) (e f : Bool) (s : State) : Host.Outcome State Fault Refusal := finish (doPuth d a b e f 4) s

/-- Translates every page of a PUT's destination (R285): the first failure. -/
def translateAll (g : Agent) (va n : Nat) : M Unit :=
  (pieces va n).forM fun p => do
    let _ ← translate g.v p.1 { w := true } (BitVec.ofNat 64 p.1) 0

/-- Frees the slot of a note that is not sent. -/
def freeNote (note : Option (Nat × Nat × Nat)) : M Unit := do
  match note with
  | some (die, num, idx) => if ((← get).channel die num).remote.isNone then slotFreed die num idx
  | none => pure ()

/-- The die that the leaf of an address names, where a walk reaches one (R285). -/
def leafDie (g : Agent) (va : Nat) : M (Option Nat) := do
  let s ← get
  let there := fun (t : TlbEntry) => match t.home va with
    | .phys pa => some (homeDie (pa / 64))
    | .remote _ _ => none
  if untranslated s g.v then return if va < 2 ^ 42 then some (homeDie (va / 64)) else none
  match s.tlbFind g.v va with
  | some t => return there t
  | none =>
    match ← attempt (do return (← walkTree g.v (← walkerFor g.v va 0 0) va 0 0).1) with
    | .ok t => return there t
    | .error _ => return none

/-- Sends the note of a PUT whose bytes are placed (R285). -/
def sendNote (e : Engine) (dst n ep : Nat) (note : Option (Nat × Nat × Nat)) : M Unit := do
  match note with
  | none => pure ()
  | some (die, num, idx) =>
    let who := e.thread / 8
    let bytes := leBytes 8 dst ++ leBytes 4 n ++ leBytes 4 0
    let c := (← get).channel die num
    match c.remote with
    | none => deliverOn who ep die num idx 16 0 bytes false true false e.ctx
    | some tag =>
      reachDevice who tag
      let dev := bits (← getDie (dieOf who)).regs.devtag 7 0
      let h := headerOf 16 false false true false (some dev) c.cls who num 0 ((← getCore who).ep ep).seq.toNat
      modEp who ep fun x => { x with seq := x.seq + 1 }
      modify fun s =>
        { s with links := { s.links with
            sends := s.links.sends ++ [{ tag := tag, chan := num % 4096, header := h, bytes := bytes }] } }

/-- A byte range cut at multiples of 256: each part is one message of PUT data (R392). -/
def messages (va n : Nat) : List (Nat × Nat) :=
  if n = 0 then []
  else (List.range ((va + n - 1) / 256 - va / 256 + 1)).map fun i =>
    let lo := max va ((va / 256 + i) * 256)
    let hi := min (va + n) ((va / 256 + i + 1) * 256)
    (lo % 2 ^ 52, hi - lo)

/-- Places the bytes of a PUT: at their homes, or with PUT data messages to another device (R285, R392). -/
def placeBytes (g : Agent) (dst : Nat) (bs : List Byte) : M Unit :=
  (messages dst bs.length).foldlM
    (fun (rest : List Byte) p => do
      let part := rest.take p.2
      let fa := BitVec.ofNat 64 p.1
      let page ← translate g.v p.1 { w := true } fa 0
      match page.home p.1 with
      | .remote tag tva => let _ ← remote g.k g.v .put tag tva p.2 part 0 fa 0
      | .phys _ => writeVa g p.1 part
      return rest.drop p.2) bs >>= fun _ => pure ()

/-- PUT_PLACEMENT (R285): the source is read, every destination page translated, the bytes written, the note sent. A page that
fails sends PUTPAGE (R279) to the die that its leaf names, or to the issuer's die where no leaf names one (log entry 82). -/
def putDone (e : Engine) : M (Option Trap) := do
  match e.op with
  | .put src dst n data note ep =>
    let g := e.agent
    let read ← match data with
      | some bs => pure (.ok bs)
      | none => attempt (readVa g src n)
    match read with
    | .error t =>
      freeNote note
      return some t
    | .ok bs =>
      match ← attempt (translateAll g dst n) with
      | .error t =>
        freeNote note
        let who := e.thread / 8
        let chan := match note with | some (_, num, _) => num % 4096 | none => 0
        let target := (← leafDie g t.faddr.toNat).getD (dieOf who)
        sendSystemFrom (.engine e.id) who target 14 (faultMessage who 3 0 e.ctx chan (t.faddr.toNat / 2 ^ 18 * 2 ^ 18))
        return some t
      | .ok () =>
        match ← attempt (placeBytes g dst bs) with
        | .error t =>
          freeNote note
          return some t
        | .ok () =>
          match ← attempt (sendNote e dst n ep note) with
          | .error t => return some t
          | .ok () => return none
  | _ => return none

/-- The meaning of `putPlacement`. -/
def execPutPlacement (k : Nat) (s : State) : Host.Outcome State Fault Refusal :=
  engineEvent k (fun op => match op with | .put _ _ _ _ _ _ => true | _ => false)
    (engineRun k true putDone fun _ => pure ()) s

/-! ## The allocator (R286, R287) -/

/-- The size class of a request (R287): the smallest whose blocks hold `n` bytes. -/
def sizeClass (n : Nat) : Nat := ((List.range 11).find? fun i => decide (n ≤ 64 * 2 ^ i)).getD 10

/-- The bits of ALLOCBASE that exist (R286): VALID, and OFF, a multiple of 256: bits 7:0 are not kept (log entry 81). -/
def allocMask : Word := BitVec.ofNat 64 (2 ^ 63 + (2 ^ 26 - 2 ^ 8))

/-- The place of a core's allocator-table entry for a class, where its table is in use (R286). -/
def tableEntry (s : State) (who cls : Nat) : Option Nat :=
  let b := (s.core who).regs.allocbase
  if b.getLsbD 63 && !isHub who then some (placeChip (dieOf who) (bits b 25 0 + 16 * cls)) else none

/-- Sends ALLOCLOW or ALLOCFLT to the die's device kernel (R279). -/
def allocMessage (e : Engine) (kind cls addr : Nat) : M Unit :=
  let who := e.thread / 8
  sendSystemFrom (.allocator (dieOf who)) who (dieOf who) 14 (faultMessage who kind cls e.ctx 0 addr)

/-- ALLOCLOW, at most once until COUNT is again LOW or more, as the allocator reads it or leaves it (R287). -/
def allocLow (e : Engine) (cls entry : Nat) : M Unit := do
  let die := dieOf (e.thread / 8)
  if !((← getDie die).lowSent.contains entry) then
    modDie die fun d => { d with lowSent := d.lowSent ++ [entry] }
    allocMessage e 4 cls 0

/-- Fills a register that a producer left empty, and wakes its thread (R78, R79). -/
def fillReg (k r : Nat) (v : Word) : M Unit :=
  modThread k fun t => (t.setReg (BitVec.ofNat 5 r) v).wakeIf fun x =>
    match x with | .empty q | .dest q => q == r | _ => false

/-- Whether the allocator table's bytes are withheld (R399): a request on them is as one whose block cannot be read, with no
block address to report (log entry 52). -/
def tableWithheld (e : Engine) (p : Nat) : M Bool := localWithheld p 16 (e.thread / 8) (if e.user then e.ctx else 0)

/-- The answer of the allocator to a request of `n` bytes. -/
def allocBlock (e : Engine) (n : Nat) : M Word := do
  let cls := sizeClass n
  match tableEntry (← get) (e.thread / 8) cls with
  | none => return 0
  | some p =>
    if ← tableWithheld e p then
      allocMessage e 5 cls 0
      return 0
    let head := leNat (← takeBytes p 8)
    let count := leNat (← takeBytes (p + 8) 4)
    let low := leNat (← takeBytes (p + 12) 4)
    if low ≤ count then modDie (dieOf (e.thread / 8)) fun d => { d with lowSent := d.lowSent.filter (· != p) }
    if head = 0 then
      allocLow e cls p
      return 0
    else
      let va := head % 2 ^ 52
      let read ← if va % 8 ≠ 0 then pure (.error { cause := .misalign }) else attempt (readVa e.agent va 8)
      match read with
      | .error _ =>
        allocMessage e 5 cls va
        return 0
      | .ok nx =>
        let count' := (count + 2 ^ 32 - 1) % 2 ^ 32
        putBytes p (leBytes 8 (leNat nx % 2 ^ 52) ++ leBytes 4 count')
        if count' < low then allocLow e cls p
        return BitVec.ofNat 64 head

/-- ALLOC_SERVE (R287): the block's address is written, with an acquire at DIE. -/
def allocDone (e : Engine) : M (Option Trap) := do
  match e.op with
  | .alloc r n =>
    let v ← allocBlock e n
    acquire e.thread .die
    fillReg e.thread r v
    return none
  | _ => return none

/-- The meaning of `allocServe`. -/
def execAllocServe (k : Nat) (s : State) : Host.Outcome State Fault Refusal :=
  engineEvent k (fun op => match op with | .alloc _ _ => true | _ => false)
    (engineRun k false allocDone fun _ => pure ()) s

/-- ALLOC (R287). -/
def doAlloc (d a : Reg) (e : Bool) (len : Nat) : M Unit := straight len do
  let x ← readG a e
  checkDest d
  forbidCollecting
  let k ← me
  release k .die
  let n := x.toNat
  if n = 0 || n > 65536 || !(← getCore (k / 8)).regs.allocbase.getLsbD 63 then writeG d 0
  else
    fork (.alloc d.toNat n) 0 8
    if d ≠ 0 then modMe fun t => { t with empty := t.empty ||| ((1 : BitVec 32) <<< d.toNat) }

/-- The meaning of `alloc`. -/
def execAlloc (d a : Reg) (e : Bool) (s : State) : Host.Outcome State Fault Refusal := finish (doAlloc d a e 4) s

/-- FREE (R287). -/
def doFree (a b : Reg) (e f : Bool) (len : Nat) : M Unit := straight len do
  let x ← readG a e
  let y ← readG b f
  forbidCollecting
  let fa := BitVec.ofNat 64 (vaOf x)
  let n := y.toNat
  if n = 0 || n > 65536 then trap .chan 6 fa
  if vaOf x ≠ 0 then
    if vaOf x % (64 * 2 ^ sizeClass n) ≠ 0 then trap .chan 7 fa
    release (← me) .die
    fork (.free (vaOf x) n) 0 9

/-- The meaning of `free`. -/
def execFree (a b : Reg) (e f : Bool) (s : State) : Host.Outcome State Fault Refusal := finish (doFree a b e f 4) s

/-- Serves the ALLOCs of a thread that are outstanding, before it traps or stops (R81). -/
def settleAllocs (k : Nat) : M Unit := do
  ((← get).engines.filter fun e => e.thread == k && (match e.op with | .alloc _ _ => true | _ => false)).forM fun e => do
    let _ ← attempt (engineRun e.id false allocDone fun _ => pure ())

/-- Runs a computation as another thread. -/
def asThread {α : Type} (k : Nat) (m : M α) : M α := fun s =>
  let back := fun (s' : State) => { s' with run := { s'.run with cur := s.run.cur } }
  match m { s with run := { s.run with cur := k } } with
  | .ok a s' => .ok a (back s')
  | .error e s' => .error e (back s')

/-- Takes a trap on a thread that does not issue (R70, R92). -/
def trapOther (k : Nat) (x : Trap) : M Unit := do
  settleAllocs k
  asThread k (takeTrap x)

/-- FREE_ENGINE (R287): the block is pushed on its list. -/
def freeDone (e : Engine) : M (Option Trap) := do
  match e.op with
  | .free va n =>
    let cls := sizeClass n
    match tableEntry (← get) (e.thread / 8) cls with
    | none => return none
    | some p =>
      if ← tableWithheld e p then
        allocMessage e 5 cls 0
        return none
      let head ← takeBytes p 8
      let count := leNat (← takeBytes (p + 8) 4)
      let low := leNat (← takeBytes (p + 12) 4)
      match ← attempt (writeVa e.agent va head) with
      | .error _ => allocMessage e 5 cls va
      | .ok () =>
        putBytes p (leBytes 8 va ++ leBytes 4 ((count + 1) % 2 ^ 32))
        if (count + 1) % 2 ^ 32 ≥ low then
          modDie (dieOf (e.thread / 8)) fun d => { d with lowSent := d.lowSent.filter (· != p) }
      return none
  | _ => return none

/-- The meaning of `freeEngine`. -/
def execFreeEngine (k : Nat) (s : State) : Host.Outcome State Fault Refusal :=
  engineEvent k (fun op => match op with | .free _ _ => true | _ => false)
    (engineRun k false freeDone fun _ => pure ()) s

end Sys2Proof.Machine
end

