-- ==== Sys2Proof/Machine/Barriers.lean ====
section
/-! DEFINITION. Barriers (R298 to R305) and the shrinking of a grant at their completion (R212). -/

namespace Sys2Proof.Machine

/-- A group record. -/
def State.group (s : State) (die g : Nat) : Group := (s.die die).groups.get g {}

/-- Changes a group record. -/
def modGroup (die g : Nat) (f : Group → Group) : M Unit :=
  modDie die fun d => { d with groups := d.groups.put g (f (d.groups.get g {})) }

/-- A barrier record. -/
def State.barrier (s : State) (die b : Nat) : Barrier := (s.die die).bars.get b {}

/-- Changes a barrier record. -/
def modBarrier (die b : Nat) (f : Barrier → Barrier) : M Unit :=
  modDie die fun d => { d with bars := d.bars.put b (f (d.bars.get b {})) }

/-- Arrivals that complete a phase (R298). -/
def State.effCount (s : State) (die : Nat) (b : Barrier) : Nat :=
  if b.count = 0 then (s.group die b.group).members.length else b.count

/-- Code of a barrier's state (R305). -/
def BarState.code : BarState → Nat
  | .free => 0 | .idle => 1 | .filling => 2 | .broken => 3

/-- FINFO of the barrier traps (R301). -/
def barInfo (n : Nat) (b : Barrier) : Word := BitVec.ofNat 64 (n + b.st.code * 2 ^ 9 + b.phase.toNat * 2 ^ 32)

/-- Whether a parked thread waits for a phase of a barrier. -/
def waitsBar (die n phase : Nat) : Reason → Bool
  | .barwait d b p => d == die && b == n && p == phase
  | _ => false

/-- Threads that are parked on a barrier, in any phase; those of an EVICTED core are saved (R300, R354). -/
def State.parkedOn (s : State) (die n : Nat) : List Nat :=
  let away := s.saved.flatMap fun v => if v.evicted.isSome && !v.dropped then v.threads else []
  (s.threads ++ away).filterMap fun kt =>
    match kt.2.st with
    | .parked (.barwait d b _) | .stopped (some (.barwait d b _)) _ => if d = die && b = n then some kt.1 else none
    | _ => none

/-- Completes the current phase (R299). -/
def completePhase (die n : Nat) : M Unit := do
  let b := (← get).barrier die n
  modBarrier die n fun b => { b with phase := b.phase + 1, arr := [], st := .idle }
  wakeAll (waitsBar die n b.phase.toNat)

/-- Completes a phase whose effective COUNT a change of its group has lowered to its arrivals or fewer (R299). -/
def recheckBarrier (die n : Nat) : M Unit := do
  let s ← get
  let b := s.barrier die n
  if b.st = .filling && s.effCount die b ≤ b.arr.length then completePhase die n

/-- The barrier breaks: every thread parked on its phase traps BARTIME (R300). -/
def breakBarrier (die n sub : Nat) : M Unit := do
  modBarrier die n fun b => { b with st := .broken }
  let s ← get
  let b := s.barrier die n
  let parked := s.threads.filter fun kt => match kt.2.st with | .parked r => waitsBar die n b.phase.toNat r | _ => false
  parked.forM fun kt => do
    modThread kt.1 fun t => { t with arrived := none }
    trapOther kt.1 { cause := .bartime, sub := sub, finfo := barInfo n b }

/-- The barrier that an instruction names: BARMEMBER RANGE and FREE (R301). -/
def namedBarrier (x : Word) : M (Nat × Nat) := do
  let die := dieOf (← myWho)
  let n := bits x 8 0
  let b := (← get).barrier die n
  if bits x 63 9 ≠ 0 then trap .barmember 2 0 (barInfo n b)
  if b.st = .free || b.ctx ≠ (← myThread).kern.ctxid.toNat then trap .barmember 1 0 (barInfo n b)
  return (die, n)

/-- The checks of BARARR, BARWAIT and BARARW (R301); an arrival is also checked for BARDOUBLE. -/
def checkArrival (x : Word) (arriving : Bool) : M (Nat × Nat) := do
  let (die, n) ← namedBarrier x
  let s ← get
  let b := s.barrier die n
  let who ← myWho
  let stop := fun (c : Cause) (sub : Nat) => do
    modMe fun t => { t with arrived := none }
    trap c sub 0 (barInfo n b)
  if !(s.group die b.group).members.contains who then stop .barmember 0
  if b.st = .broken then stop .bartime 2
  if arriving && b.arr.contains who then stop .bardouble 0
  return (die, n)

/-- An arrival of the issuing core (R300); answers the phase it arrived in. -/
def arriveAt (die n : Nat) : M (BitVec 32) := do
  let who ← myWho
  let s ← get
  let b := s.barrier die n
  modBarrier die n fun b => { b with
    st := .filling
    arr := b.arr ++ [who]
    last := b.last.put who b.phase
    deadline := if b.st = .idle then s.time + b.wd * 1000 else b.deadline }
  recheckBarrier die n
  return b.phase

/-- The grant of a thread at the completion of a barrier wait (R212): it may shrink while another thread of the cluster
holds less than its own target. -/
def grantPoint (k : Nat) : M Unit := do
  let s ← get
  if !isHub (k / 8) && s.threads.any fun kt =>
      kt.1 != k && kt.1 / 64 == k / 64 && !isHub (kt.1 / 8) && decide (kt.2.vec.vlen < kt.2.vec.target) then
    let n := (s.thread k).vec.vlen
    let i ← choose (n / 8)
    giveUpLanes k (n - 8 * i)

/-- Waits for a phase (R303): parks until it completes, then acquires. -/
def awaitPhase (die n : Nat) (phase : BitVec 32) (d : Reg) : M Unit := do
  let k ← me
  if ((← get).barrier die n).phase = phase then
    modMe fun t => { t with arrived := some (die, n, phase.toNat) }
    park (.barwait die n phase.toNat)
  else
    acquire k .die
    grantPoint k
    modMe fun t => { t with arrived := none }
    writeG d (phase.setWidth 64)

/-- BARARR (R303). -/
def doBararr (d a : Reg) (e : Bool) (len : Nat) : M Unit := straight len do
  let x ← readG a e
  checkDest d
  forbidCollecting
  let (die, n) ← checkArrival x true
  release (← me) .die
  writeG d ((← arriveAt die n).setWidth 64)

/-- The meaning of `bararr`. -/
def execBararr (d a : Reg) (e : Bool) (s : State) : Host.Outcome State Fault Refusal := finish (doBararr d a e 4) s

/-- The phase that a parked wait of this thread on barrier `x` waits for, if it is one that was released. -/
def releasedPhase (x : Word) : M (Option (Nat × Nat × BitVec 32)) := do
  match (← myThread).arrived with
  | none => return none
  | some (die, n, p) =>
    let ph := BitVec.ofNat 32 p
    return if n = x.toNat && ((← get).barrier die n).phase ≠ ph then some (die, n, ph) else none

/-- BARWAIT (R303). A wait that was parked waits for the phase it parked on. -/
def doBarwait (d a : Reg) (e : Bool) (len : Nat) : M Unit := straight len do
  let x ← readG a e
  checkDest d
  forbidCollecting
  match ← releasedPhase x with
  | some (die, n, ph) => awaitPhase die n ph d
  | none =>
    let (die, n) ← checkArrival x false
    match (← myThread).arrived with
    | some (_, _, p) => awaitPhase die n (BitVec.ofNat 32 p) d
    | none =>
      match ((← get).barrier die n).last.find? (← myWho) with
      | none =>
        grantPoint (← me)
        writeG d (BitVec.allOnes 64)
      | some ph => awaitPhase die n ph d

/-- The meaning of `barwait`. -/
def execBarwait (d a : Reg) (e : Bool) (s : State) : Host.Outcome State Fault Refusal := finish (doBarwait d a e 4) s

/-- BARARW (R303): arrives once, then waits for that phase. -/
def doBararw (d a : Reg) (e : Bool) (len : Nat) : M Unit := straight len do
  let x ← readG a e
  checkDest d
  forbidCollecting
  match ← releasedPhase x with
  | some (die, n, ph) => awaitPhase die n ph d
  | none =>
    match (← myThread).arrived with
    | some (_, _, p) =>
      let (die, n) ← checkArrival x false
      awaitPhase die n (BitVec.ofNat 32 p) d
    | none =>
      let (die, n) ← checkArrival x true
      release (← me) .die
      awaitPhase die n (← arriveAt die n) d

/-- The meaning of `bararw`. -/
def execBararw (d a : Reg) (e : Bool) (s : State) : Host.Outcome State Fault Refusal := finish (doBararw d a e 4) s

/-- BARCFG (R302). -/
def doBarcfg (d a b : Reg) (e f : Bool) (len : Nat) : M Unit := straight len do
  let x ← readG a e
  let y ← readG b f
  checkDest d
  forbidCollecting
  let k ← me
  let (die, n) ← namedBarrier x
  release k .die
  let count := bits y 11 0
  if bits y 15 12 ≠ 0 || bits y 63 40 ≠ 0 || count > 2048 then writeG d 2
  else if !((← get).parkedOn die n).isEmpty then writeG d 1
  else
    modBarrier die n fun b => { b with
      count := count, wd := (if bits y 39 16 = 0 then 1000000 else bits y 39 16), arr := [], last := [], st := .idle }
    writeG d 0
  acquire k .die

/-- The meaning of `barcfg`. -/
def execBarcfg (d a b : Reg) (e f : Bool) (s : State) : Host.Outcome State Fault Refusal := finish (doBarcfg d a b e f 4) s

/-- BARQ (R305): while the watchdog is paused the time left stands still (R300). -/
def doBarq (d a b : Reg) (e f : Bool) (len : Nat) : M Unit := straight len do
  let x ← readG a e
  let y ← readG b f
  checkDest d
  forbidCollecting
  let (die, n) ← namedBarrier x
  let s ← get
  let r := s.barrier die n
  let who ← myWho
  writeG d <| BitVec.ofNat 64 <|
    if y = 0 then r.st.code + r.arr.length * 2 ^ 2 + s.effCount die r * 2 ^ 14
      + (if r.arr.contains who then 2 ^ 26 else 0) + r.group * 2 ^ 27
    else if y = 1 then r.phase.toNat
    else if y = 2 then (if r.st = .filling then (r.deadline - r.paused.getD s.time) / 1000 else 0)
    else 0

/-- The meaning of `barq`. -/
def execBarq (d a b : Reg) (e f : Bool) (s : State) : Host.Outcome State Fault Refusal := finish (doBarq d a b e f 4) s

/-- BARRIER_WATCHDOG (R300): TIME has reached the deadline of a filling barrier whose context runs. -/
def execBarrierWatchdog (die : BitVec 2) (bar : BitVec 9) (s : State) : Host.Outcome State Fault Refusal :=
  let b := s.barrier die.toNat bar.toNat
  if b.st = .filling && b.paused.isNone && decide (b.deadline ≤ s.time) then
    match breakBarrier die.toNat bar.toNat 0 s with
    | .ok _ s' => .next s'
    | .error _ s' => .next s'
  else .next s

end Sys2Proof.Machine
end

