-- ==== Sys2Proof/Machine/Effects.lean ====
section
/-! DEFINITION. The list instructions, the application of effect lists, and the commit arbiter of ordered channels (R191, R196 to
R209, R274, R403). -/

namespace Sys2Proof.Machine

/-! ## States of a list -/

/-- EBAD STATE unless the list is CLOSED and not split (R198, R199, R200). -/
def wholeList (d : Nat) : M EList := do
  let l ← myList d
  if l.st ≠ .closed || l.split then trap .ebad 6
  return l

/-- ECAP for resident entries that an instruction adds to the issuing core (R194); `stored` of them lie in the store already.
For an ELOAD of a list that another core owns, the entries count for that core, and the spec does not say whose EUSED and
ECAPLIM are checked: the issuing core's (DESIGN CHOICE, log entry 57). -/
def checkAdded (n stored : Nat) : M Unit := do
  let who ← myWho
  let c ← getCluster (who / 8)
  if n ≠ 0 && c.used who + n > (← getCore who).regs.ecaplim then trap .ecap 0
  if n - stored ≠ 0 && c.usedAll + (n - stored) > 8192 then trap .ecap 1

/-! ## ECAT, EFILT, EFILTX, EREB, EDROP (R198 to R200, R203) -/

/-- ECAT (R198). -/
def doEcat (d a b : Reg) (e f : Bool) (len : Nat) : M Unit := straight len do
  let x ← readG a e
  let y ← readG b f
  checkDest d
  let p ← storeHandle x
  let q ← storeHandle y
  if p = q then trap .ebad 5
  let l ← wholeList p
  let r ← wholeList q
  let k ← me
  let cl ← myCluster
  let added := (if l.owner = k / 8 then 0 else l.entries.length) + (if r.owner = k / 8 then 0 else r.entries.length)
  checkAdded added added
  modCluster cl fun c => c.dropList q
  let gen := nextGen ((← getCluster cl).descrs.get p {}).gen
  let joined : EList :=
    { st := .closed, owner := k / 8, maker := some k, ctx := l.ctx, entries := l.entries ++ r.entries }
  modCluster cl fun c => { c with descrs := c.descrs.put p { gen := gen, list := some joined } }
  writeG d (handleOf cl p gen)

/-- The meaning of `ecat`. -/
def execEcat (d a b : Reg) (e f : Bool) (s : State) : Host.Outcome State Fault Refusal := finish (doEcat d a b e f 4) s

/-- EFILT and EFILTX (R199): `inside` keeps the entries within the bounds. -/
def filterList (inside : Bool) (d a b : Reg) (e f : Bool) (len : Nat) : M Unit := straight len do
  let x ← readG a e
  let y ← readG b f
  let z ← readG (b + 1) f
  checkDest d
  let p ← storeHandle x
  let l ← wholeList p
  let lo := vaOf y
  let hi := z.toNat
  if lo % 8 ≠ 0 || hi % 8 ≠ 0 || hi < lo || 2 ^ 52 < hi then trap .ebad 7
  let kept := l.entries.filter fun t =>
    t.kind == .send || (decide (lo ≤ t.va) && decide (t.va < hi)) == inside
  modMyList p fun l => { l with entries := kept }
  writeG d (BitVec.ofNat 64 kept.length)

/-- EFILT (R199). -/
def doEfilt (d a b : Reg) (e f : Bool) (len : Nat) : M Unit := filterList true d a b e f len

/-- The meaning of `efilt`. -/
def execEfilt (d a b : Reg) (e f : Bool) (s : State) : Host.Outcome State Fault Refusal := finish (doEfilt d a b e f 4) s

/-- EFILTX (R199). -/
def doEfiltx (d a b : Reg) (e f : Bool) (len : Nat) : M Unit := filterList false d a b e f len

/-- The meaning of `efiltx`. -/
def execEfiltx (d a b : Reg) (e f : Bool) (s : State) : Host.Outcome State Fault Refusal := finish (doEfiltx d a b e f 4) s

/-- The address of an entry moved by an offset, where it stays in the address space and outside the local window (R200). -/
def Entry.moved (t : Entry) (off : Int) : Option Nat :=
  let v : Int := t.va + off
  if v < 0 || v + t.bytes > (2 ^ 52 : Nat) || v.toNat / 2 ^ 48 % 16 = 15 then none else some v.toNat

/-- The entry at another address. -/
def Entry.at' (t : Entry) (va : Nat) : Entry :=
  { t with word := BitVec.ofNat 128 (t.word.toNat / 2 ^ 52 * 2 ^ 52 + va % 2 ^ 52) }

/-- EREB (R200). -/
def doEreb (a b : Reg) (e f : Bool) (len : Nat) : M Unit := straight len do
  let x ← readG a e
  let y ← readG b f
  let p ← storeHandle x
  let l ← wholeList p
  let off := y.toInt
  if off % 8 ≠ 0 then trap .ebad 7
  if l.entries.any fun t => t.kind != .send && (t.moved off).isNone then trap .ebad 7
  modMyList p fun l => { l with entries := l.entries.map fun t =>
    if t.kind = .send then t else t.at' ((t.moved off).getD 0) }

/-- The meaning of `ereb`. -/
def execEreb (a b : Reg) (e f : Bool) (s : State) : Host.Outcome State Fault Refusal := finish (doEreb a b e f 4) s

/-- EDROP (R203). -/
def doEdrop (a : Reg) (e : Bool) (len : Nat) : M Unit := straight len do
  let x ← readG a e
  let p ← storeHandle x
  let l ← myList p
  match l.st with
  | .committing n _ => modMyList p fun l => { l with st := .committing n true }
  | _ => modCluster (← myCluster) fun c => c.endList p

/-- The meaning of `edrop`. -/
def execEdrop (a : Reg) (e : Bool) (s : State) : Host.Outcome State Fault Refusal := finish (doEdrop a e 4) s

/-! ## EINFO (R204) -/

/-- Selector 0 for a list; `depth` is 0 unless ACTIVE. SPLIT reads 1 for every list with entries in images, so too for one that
is SPILLED or that applies from SPILLED, where the spec leaves it open (DESIGN CHOICE, log entry 90). -/
def EList.report (l : EList) (depth : Nat) : Nat :=
  let st := match l.st with
    | .active => 0 | .closed => 1 | .spilled => 2 | _ => 3
  let apps := match l.st with | .applying _ n _ | .committing n _ => n | _ => 0
  (l.entries.length + l.spilled) % 2 ^ 32 + st * 2 ^ 32 + (if l.split then 2 ^ 35 else 0) + depth * 2 ^ 36
    + apps % 256 * 2 ^ 40

/-- EINFO (R204). -/
def doEinfo (d a b : Reg) (e f : Bool) (len : Nat) : M Unit := straight len do
  let x ← readG a e
  let y ← readG b f
  checkDest d
  remoteScope (← me) do
    if y ≠ 0 && y ≠ 1 then trap .ebad 7
    let v ← match ← resolveHandle x with
      | none => pure (if y = 0 then 2 ^ 63 else 0)
      | some (.list p) => do
        let l ← myList p
        pure (if y = 0 then l.report 0 else l.faddr.toNat)
      | some (.depth p) => do
        let l ← myList p
        pure (if y = 0 then l.report (bits x 2 0) else l.faddr.toNat)
      | some (.image va) => do
        if y = 0 then
          match ← readChain (← threadAgent) (← myThread).kern.ctxid.toNat 4096 va with
          | .ok es => pure (es.length % 2 ^ 32 + 2 * 2 ^ 32)
          | .error _ => pure (2 ^ 63)
        else pure 0
    writeG d (BitVec.ofNat 64 v)

/-- The meaning of `einfo`. -/
def execEinfo (d a b : Reg) (e f : Bool) (s : State) : Host.Outcome State Fault Refusal := finish (doEinfo d a b e f 4) s

/-! ## ESPILL and ELOAD (R205, R206) -/

/-- ESPILL (R205). FINFO of a fault on the image, which the spec does not give, is that of a store of width D with policy THRU
(DESIGN CHOICE, log entry 90). -/
def doEspill (d a b : Reg) (e f : Bool) (len : Nat) : M Unit := straight len do
  let x ← readG a e
  let y ← readG b f
  checkDest d
  remoteScope (← me) do
    let p ← match ← resolveHandle x with
      | some (.list p) => pure p
      | some (.depth p) => pure p
      | _ => trap .ebad 5
    let l ← myList p
    if l.st ≠ .active && l.st ≠ .closed then trap .ebad 6
    let va := vaOf y
    if va % 64 ≠ 0 || isLocal va then trap .ebad 7
    if l.st = .active && l.entries.isEmpty then
      writeG d (match l.image with | some im => imageHandle im | none => 0)
    else
      writeVa (← threadAgent) va (imageBytes l.entries (l.image.getD 0) l.ctx) (accessInfo 3 true false 3 false false)
      modMyList p fun l => { l with
        st := if l.st = .closed then .spilled else l.st
        entries := [], image := some va, spilled := l.spilled + l.entries.length }
      writeG d (imageHandle va)

/-- The meaning of `espill`. -/
def execEspill (d a b : Reg) (e f : Bool) (s : State) : Host.Outcome State Fault Refusal := finish (doEspill d a b e f 4) s

/-- Reads a chain for the issuing thread, or raises its fault or EBAD IMAGE (R206). -/
def loadChain (va : Nat) : M (List Entry) := do
  match ← readChain (← threadAgent) (← myThread).kern.ctxid.toNat 4096 va with
  | .ok es => return es
  | .error (.fault t _) => throw (.trap t)
  | .error (.malformed _) => trap .ebad 8

/-- ELOAD (R206). -/
def doEload (d a : Reg) (e : Bool) (len : Nat) : M Unit := straight len do
  let x ← readG a e
  checkDest d
  remoteScope (← me) do
    let k ← me
    match ← resolveHandle x with
    | some (.image va) =>
      let es ← loadChain va
      checkAdded es.length 0
      let p ← makeList
        { st := .closed, owner := k / 8, maker := some k, ctx := (← myThread).kern.ctxid.toNat, entries := es }
      writeG d (← myHandle p)
    | some (.list p) =>
      let l ← myList p
      match l.image with
      | some im =>
        if l.st ≠ .closed && l.st ≠ .spilled then trap .ebad 6
        let es ← loadChain im
        checkAdded es.length 0
        modMyList p fun l => { l with st := .closed, entries := es ++ l.entries, image := none, spilled := 0 }
        writeG d x
      | none => trap .ebad 6
    | _ => trap .ebad 5

/-- The meaning of `eload`. -/
def execEload (d a : Reg) (e : Bool) (s : State) : Host.Outcome State Fault Refusal := finish (doEload d a e 4) s

/-! ## EAPPLY and EAPPLY.O (R201) -/

/-- EAPPLY and EAPPLY.O at issue. -/
def applyForm (ordered : Bool) (a b : Reg) (e f : Bool) (len : Nat) : M Unit := straight len do
  let x ← readG a e
  let y ← readG b f
  forbidCollecting
  let (p, image) ← match ← resolveHandle x with
    | some (.list p) => pure (some p, none)
    | some (.image va) => pure (none, some va)
    | _ => trap .ebad 5
  let obj ← checkObject y
  release (← me) (← scopeOf obj)
  match p with
  | some p => modMyList p fun l => { l with st := match l.st with
      | .applying left n drop => .applying left (n + 1) drop
      | .committing n drop => .committing (n + 1) drop
      | st => .applying (st == .spilled) 1 false }
  | none => pure ()
  fork (.eapply p image ordered) obj (if ordered then 5 else 4)

/-- EAPPLY (R201). -/
def doEapply (a b : Reg) (e f : Bool) (len : Nat) : M Unit := applyForm false a b e f len

/-- The meaning of `eapply`. -/
def execEapply (a b : Reg) (e f : Bool) (s : State) : Host.Outcome State Fault Refusal := finish (doEapply a b e f 4) s

/-- EAPPLY.O (R201). -/
def doEapplyO (a b : Reg) (e f : Bool) (len : Nat) : M Unit := applyForm true a b e f len

/-- The meaning of `eapplyO`. -/
def execEapplyO (a b : Reg) (e f : Bool) (s : State) : Host.Outcome State Fault Refusal := finish (doEapplyO a b e f 4) s

/-- Endpoint, length and timestamp of a send entry (R192). -/
def Entry.send (t : Entry) : Nat × Nat × Nat := (t.data % 2 ^ 16, t.data / 2 ^ 16 % 2 ^ 16, t.data / 2 ^ 32)

/-- The translation that an entry needs before any entry is performed (R201). A store or atomic entry of an image whose address
lies in the local window has none, and the spec does not say what it is: PAGE LOCALWIN (DESIGN CHOICE, log entry 90). -/
def checkEntry (g : Agent) (t : Entry) : M Unit := do
  let fa := BitVec.ofNat 64 t.va
  let one := fun (va : Nat) (w : Bool) (pol : Policy) => do
    if isLocal va then trap .page 0x10 (BitVec.ofNat 64 va)
    let page ← translate g.v va { w := w } (BitVec.ofNat 64 va) 0
    match page.home va with
    | .remote _ _ => if pol = .inv || pol = .own then trap .policy 0 fa else pure ()
    | .phys _ => pure ()
  match t.kind with
  | .store => one t.va true t.pol
  | .atomic => one t.va true .thru
  | .send => (pieces t.va (t.send).2.1).forM fun p => one p.1 false .thru
  | .lost => pure ()

/-- The entries of an application, read and checked; the address that failed first (R201). -/
def applyEntries (g : Agent) (l : Option EList) (image : Option Nat) (ctx : Nat) : M (Except (Trap × Nat) (List Entry)) := do
  let chain := match l with | some l => l.image | none => image
  let resident := match l with | some l => l.entries | none => []
  let old ← match chain with
    | none => pure (.ok [])
    | some va => readChain g ctx 4096 va
  match old with
  | .error (.fault t va) => return .error (t, va)
  | .error (.malformed va) => return .error ({ cause := .ebad, sub := 8, faddr := BitVec.ofNat 64 va }, va)
  | .ok es =>
    match ← attempt ((es ++ resident).forM (checkEntry g)) with
    | .error t => return .error (t, t.faddr.toNat)
    | .ok () => return .ok (es ++ resident)

/-- Whether an endpoint's channel is the one that a send entry was recorded for (R274): the entry knows, or has forgotten it in
an image (log entry 83). -/
def Entry.names (t : Entry) (pl : Nat × Nat) : Bool := t.chan.all (· == pl)

/-- Performs a send entry for a core (R191, R274): an endpoint that does not name the entry's channel, or no open one, sends
nothing; with no slot free the engine waits. -/
def performSend (g : Agent) (t : Entry) : M Unit := do
  let who := g.v.who
  let (n, len, ts) := t.send
  let e := (← getCore who).ep n
  match (if n < 64 && e.isOpen then e.chan else none) with
  | none => pure ()
  | some (die, num) =>
    let c := (← get).channel die num
    if c.st = .unbound || (refusal c.st).isSome || !c.ord || !t.names (die, num) then pure ()
    else match c.remote with
      | some tag =>
        reachDevice who tag
        let bytes ← readVa g t.va len
        let dev := bits (← getDie (dieOf who)).regs.devtag 7 0
        let h := headerOf len false false false true (some dev) c.cls who num ts e.seq.toNat
        modEp who n fun e => { e with seq := e.seq + 1, lastts := BitVec.ofNat 32 ts }
        modify fun s => { s with links := { s.links with
          sends := s.links.sends ++ [{ tag := tag, chan := num % 4096, header := h, bytes := bytes }] } }
      | none =>
        match ← takeSlot die num g.k with
        | none => throw .stall
        | some idx =>
          let bytes ← withSlot die num idx g.k (readVa g t.va (min len c.size))
          deliverOn who n die num idx len ts bytes true false false g.v.ctx

/-- Performs one entry (R202) for thread `thread`. -/
def performEntry (g : Agent) (thread : Nat) (t : Entry) : M Unit := do
  let fa := BitVec.ofNat 64 t.va
  match t.kind with
  | .send => performSend g t
  | .lost => trap .memabort 0 fa
  | .atomic => engineAtomic g t.va t.atom
  | .store =>
    let data := leBytes t.bytes t.data
    if t.pol = .own then
      let page ← translate g.v t.va { w := true } fa 0
      match page.home t.va with
      | .remote _ _ => trap .policy 0 fa
      | .phys pa =>
        let a := { acc1 thread g.v t.va t.bytes pa page fa 0 with engine := true }
        checkIsolated a
        if !(← get).hasMemory pa then trap .memabort 2 fa
        storeHome a .own (BitVec.ofNat 512 (t.data % 2 ^ (8 * t.bytes) * 2 ^ (8 * (pa % 64)))) true
    else writePiece g t.va data fa 0

/-- Performs entries in order; `note` is told each one that aborts, and `next` that one more is performed. The answers that
an entry waited for are its own: the next entry sends its own requests (R172). -/
def performFrom (g : Agent) (thread : Nat) (note : Trap → Nat → M Unit) (next : M Unit) :
    List Entry → M Unit
  | [] => pure ()
  | t :: ts => do
    match ← attempt (performEntry g thread t) with
    | .ok () => pure ()
    | .error x => note x t.va
    modify fun s => s.dropWaits g.k
    next
    performFrom g thread note next ts

/-- The application engine: phase 1, then the entries in list order (R172, R201). -/
def applyDone (e : Engine) : M (Option Trap) := do
  match e.op with
  | .eapply descr image _ =>
    let g := e.agent
    let cl := e.thread / 8 / 8
    let c ← getCluster cl
    let list := descr.bind c.list?
    let start ← match e.work with
      | some es => pure (.ok es)
      | none => applyEntries g list image e.ctx
    match start with
    | .error (t, va) =>
      match descr with
      | some p => modCluster cl fun c => c.modList p fun l => { l with faddr := BitVec.ofNat 64 va, fault := true }
      | none => pure ()
      return some { t with faddr := BitVec.ofNat 64 va }
    | .ok es =>
      modEngine e.id fun x => { x with work := some es }
      performFrom g e.thread
        (fun t va => modEngine e.id fun x =>
          { x with failed := x.failed.orElse fun _ => some { t with faddr := BitVec.ofNat 64 va } })
        (modEngine e.id fun x => { x with pos := x.pos + 1 }) (es.drop e.pos)
      return ((← get).engines.find? fun x => x.id == e.id).bind (·.failed)
  | _ => return none

/-- The list after one of its applications ends (R196). -/
def applicationEnds (e : Engine) : M Unit := do
  match e.op with
  | .eapply (some p) _ _ =>
    let cl := e.thread / 8 / 8
    match ((← getCluster cl).list? p).map EList.st with
    | some (.applying left n drop) =>
      if n > 1 then modCluster cl fun c => c.modList p fun l => { l with st := .applying left (n - 1) drop }
      else if drop then modCluster cl fun c => c.dropList p
      else modCluster cl fun c => c.modList p fun l => { l with st := if left then .spilled else .closed }
    | some (.committing n drop) => modCluster cl fun c => c.modList p fun l => { l with st := .committing (n - 1) drop }
    | _ => pure ()
  | _ => pure ()

/-- EAPPLY_COMPLETE (R201). -/
def execEapplyComplete (k : Nat) (s : State) : Host.Outcome State Fault Refusal :=
  engineEvent k (fun op => match op with | .eapply _ _ _ => true | _ => false)
    (engineRun k true applyDone applicationEnds) s

/-! ## The commit arbiter (R207, R208, R403) -/

/-- Keys of a channel's activations that have not committed, other than the `skip`-th of the die's waiting lists. -/
def openKeys (s : State) (die chan skip : Nat) : List (List Nat) :=
  let waiting := ((s.die die).awaiting.zipIdx.filter fun p => p.2 != skip && p.1.chan == chan).map fun p => p.1.key
  let running := s.threads.filterMap fun kt =>
    match kt.2.act with
    | some a => if a.ordered && a.slot.chan == some chan && dieOf (kt.1 / 8) == die then some (keyOf a.header) else none
    | none => none
  let pending := s.cores.flatMap fun wc =>
    if dieOf wc.1 = die then
      (wc.2.inbox.pending.filter fun p => p.slot.chan == some chan).map fun p => keyOf p.header
    else []
  let flying := (s.flights.filter fun fl => dieOf fl.dst == die && fl.place.map (·.1) == some chan).map fun fl => keyOf fl.header
  waiting ++ running ++ pending ++ flying

/-- The keys of the latest messages that the open endpoints of a channel, of this device, of others and of a front end, have
sent to it; none for one that has sent none. -/
def latestKeys (s : State) (die chan : Nat) : List (Option (List Nat)) :=
  let key := fun (who ep : Nat) => (s.die die).commits.latest.find? (senderKey chan who ep)
  (s.launches.filterMap fun p => if s.startsOpen p.1 p.2 (die, chan) then some (key 0 (64 + p.1)) else none) ++
  (s.cores.flatMap fun wc =>
    (wc.2.inbox.eps.filter fun p => p.2.isOpen && p.2.chan == some (die, chan)).map fun p => key wc.1 p.1) ++
  (s.channel die chan).feeders.map fun f => key (f / 64) (f % 64)

/-- Whether the `k`-th waiting list of a die may commit next (R208). -/
def mayCommit (s : State) (die k : Nat) (w : Awaiting) : Bool :=
  let others := (s.die die).awaiting.zipIdx.any fun p => p.2 != k && p.1.work.isSome
  !others && !s.ctxHalted w.ctx && (openKeys s die w.chan k).all (fun x => !keyLt x w.key)
    && (latestKeys s die w.chan).all fun x => match x with | none => false | some y => !keyLt y w.key

/-- Whether a committed line conflicts with a signature (R208). -/
def conflicts (s : State) (die : Nat) (w : Awaiting) : Bool :=
  (s.die die).commits.lines.any fun p =>
    decide (w.act.since < p.1) && (signatureBits p.2).all fun b => w.act.sig.contains b.toNat

/-- The descriptor of a waiting list, where it is still that list's (R193, R196). -/
def Awaiting.list? (w : Awaiting) (c : Cluster) : Option EList :=
  if (c.descrs.get w.descr {}).gen = w.gen then c.list? w.descr else none

/-- Drops a waiting list, where its descriptor is still its own. -/
def Awaiting.drop (w : Awaiting) : M Unit :=
  modCluster (w.who / 8) fun c => if (w.list? c).isSome then c.endList w.descr else c

/-- Removes a waiting list. -/
def unawait (die k : Nat) : M Unit := modDie die fun d => { d with awaiting := d.awaiting.eraseIdx k }

/-- Changes a waiting list. -/
def modAwait (die k : Nat) (f : Awaiting → Awaiting) : M Unit :=
  modDie die fun d => { d with awaiting := d.awaiting.modify k f }

/-- A conflict: the list is dropped and the activation waits to be bound again from its retained message (R208), ahead of the
core's other PENDING messages, which the spec leaves open (log entry 78). -/
def rerun (die k : Nat) (w : Awaiting) : M Unit := do
  unawait die k
  w.drop
  modCore w.who fun c => { c with inbox := { c.inbox with
    pending := { slot := w.act.slot, header := w.act.header } :: c.inbox.pending } }

/-- The agent of a commit. -/
def Awaiting.agent (w : Awaiting) : Agent :=
  { k := 2 ^ 33 + w.who * 8 + w.htid, v := { who := w.who, user := true, ctx := w.ctx }, vec := {}, engine := true }

/-- Reports an aborted entry of a commit (R403): counted, the first one kept. -/
def commitAborted (die k va : Nat) : M Unit := do
  modDieRegs die fun r => { r with errstore := satInc64 r.errstore }
  modAwait die k fun w => { w with firstAbort := w.firstAbort.orElse fun _ => some va }

/-- COMMITABORT (R403). -/
def commitMessage (die : Nat) (w : Awaiting) (va : Nat) : M Unit :=
  let h := w.act.header.toNat
  sendSystemFrom (.arbiter die) w.who die 14
    (faultMessage w.who 0x0B w.act.cls w.ctx (w.chan % 4096) va (h / 2 ^ 64 % 2 ^ 32) (h / 2 ^ 20 % 2 ^ 14)
      (if w.act.header.getLsbD 15 then h / 2 ^ 34 % 256 else 0))

/-- The end of a commit: the lines it wrote, its key, the slot, the list. -/
def committed (die k : Nat) (w : Awaiting) (es : List Entry) : M Unit := do
  unawait die k
  modDie die fun d =>
    let n := d.commits.count + 1
    let lines := ((es.filter fun t => t.kind != .send).map fun t => (n, t.va / 64)).eraseDups
    { d with commits := { d.commits with
        count := n, lines := lines ++ d.commits.lines, high := d.commits.high.put w.chan w.key } }
  w.drop
  freeSlot w.who w.act.slot
  match w.firstAbort with
  | some va => commitMessage die w va
  | none => pure ()

/-- The arbiter's work on the `k`-th waiting list of a die (R208). -/
def commitList (die k : Nat) : M Unit := do
  let s ← get
  match (s.die die).awaiting[k]? with
  | none => pure ()
  | some w =>
    if w.work.isNone && !(mayCommit s die k w && s.boot.rdyeng.getLsbD (8 + die)) then pure ()
    else
      remoteScope w.agent.k do
        let list := w.list? (← getCluster (w.who / 8))
        let es ← match w.work with
          | some es => pure (some es)
          | none =>
            if conflicts s die w then pure none
            else match ← applyEntries w.agent list none w.ctx with
              | .error _ => pure none
              | .ok es => pure (some es)
        match es with
        | none => rerun die k w
        | some es =>
          modAwait die k fun w => { w with work := some es }
          performFrom w.agent (w.who * 8 + w.htid) (fun _ va => commitAborted die k va)
            (modAwait die k fun w => { w with pos := w.pos + 1 }) (es.drop w.pos)
          match ((← get).die die).awaiting[k]? with
          | some w' => committed die k w' es
          | none => pure ()

/-- COMMIT (R208). -/
def execCommit (die : BitVec 2) (k : Nat) (s : State) : Host.Outcome State Fault Refusal :=
  match commitList die.toNat k s with
  | .ok _ s' => .next s'
  | .error _ s' => .next s'

end Sys2Proof.Machine
end

