-- ==== Sys2Proof/Machine/Shootdown.lean ====
section
/-! DEFINITION. Removing translations and the L1 lines held under them, and TLBI (R358, R366, R367, R375). -/

namespace Sys2Proof.Machine

/-! ## Removal -/

/-- Whether a translation overlaps `n` units from unit `u` of a space. -/
def TlbEntry.overlaps (t : TlbEntry) (sp : Space) (u n : Nat) : Bool :=
  t.space == sp && decide (t.vbase < u + n) && decide (u < t.vbase + t.units)

/-- Units of 256 KiB that a walk-cache entry covers. -/
def WalkEntry.span (w : WalkEntry) : Nat := if w.level = 1 then 2 ^ 30 else 2 ^ 15

/-- Whether a walk-cache entry overlaps units of a space. -/
def WalkEntry.overlaps (w : WalkEntry) (sp : Space) (u n : Nat) : Bool :=
  w.space == sp && decide (w.pfx * w.span < u + n) && decide (u < (w.pfx + 1) * w.span)

/-- Removes TLB entries at every level where cores of a kind `who` hold them. -/
def dropTlbs (who : Nat → Bool) (p : TlbEntry → Bool) : M Unit :=
  modify fun s =>
    { s with
      cores := s.cores.map fun c => if who c.1 then (c.1, { c.2 with tlb := c.2.tlb.filter fun t => !p t }) else c
      clusters := s.clusters.map fun c =>
        if who (c.1 * 8) then (c.1, { c.2 with tlb := c.2.tlb.filter fun t => !p t }) else c
      dies := s.dies.map fun d =>
        if who (if d.1 = 4 then 0x2000 else d.1 * 2048) then 
          (d.1, { d.2 with l3 := d.2.l3.map fun x => (x.1, x.2.filter fun t => !p t) }) else d }

/-- Removes walk-cache entries. -/
def dropWalks (p : WalkEntry → Bool) : M Unit :=
  modify fun s => { s with dies := s.dies.map fun d => (d.1, { d.2 with
    walks := d.2.walks.map fun x => (x.1, x.2.filter fun w => !p w) }) }

/-- Sends the L1 lines of a core that satisfy `p` home, with their dirty bytes, registrations and copies, and invalidates
them (R153). -/
def flushLines (who : Nat) (p : L1Line → Bool) : M Unit := do
  ((← getCore who).l1.filter p).forM (dropLine who false)

/-- The same in every L1 whose core satisfies `q`. -/
def flushAll (q : Nat → Bool) (p : L1Line → Bool) : M Unit := do
  ((← get).cores.filter fun c => q c.1).forM fun c => flushLines c.1 p

/-- Every request that waits at a home, queued or in a busy entry, and satisfies `p` is performed (R163). -/
def drainWhere (p : Req → Bool) : M Unit := drainReqs afadd p

/-- Every translation of a space over a range of units goes, with the walks in flight and the walk results kept (R367). -/
def dropSpace (sp : Space) (u n : Nat) : M Unit := do
  dropTlbs (fun _ => true) (fun t => t.overlaps sp u n)
  dropWalks (fun w => w.overlaps sp u n)
  modify fun s => { s with walks := s.walks.filter fun w =>
    !(w.space == sp && decide (u ≤ w.va / 2 ^ 18) && decide (w.va / 2 ^ 18 < u + n)) }

/-- A CRW to KPTROOT (R358): the new value, and every kernel translation of its side on its die, or of its hub core, goes. -/
def writeKptroot (who : Nat) (v : Word) : M Unit := do
  let sp : Space := if isHub who then .hub who else .dev (dieOf who)
  modCore who fun c => { c with regs := { c.regs with kptroot := v &&& ~~~(BitVec.ofNat 64 (2 ^ 64 - 2 ^ 42 + 0x7E)) } }
  dropSpace sp 0 (2 ^ 34)

/-! ## TLBI (R367) -/

/-- Whether the control word or the start address of TLBI is malformed. -/
def tlbiBad (x z : Word) : Bool :=
  let range := bits z 17 16 = 0
  bits z 15 0 == 0 || decide (1 < bits z 17 16) || bits z 19 18 != 0 || bits z 63 52 != 0 ||
    (range && (bits z 51 20 == 0 || bits x 17 0 != 0 || decide (2 ^ 52 < vaOf x + bits z 51 20 * 2 ^ 18))) ||
    (bits z 17 16 == 1 && bits z 51 20 != 0)

/-- TLBI (R367). -/
def doTlbi (d a : Reg) (len : Nat) : M Unit := straight len do
  let o ← readP d
  let x ← readP a
  let z ← readP (a + 1)
  forbidCollecting
  let obj ← checkObject o
  if tlbiBad x z then trap .page 6 (BitVec.ofNat 64 (vaOf x)) z
  release (← me) (← scopeOf obj)
  let whole := bits z 17 16 == 1
  fork (.tlbi (bits z 15 0) (if whole then 0 else vaOf x / 2 ^ 18) (if whole then 2 ^ 34 else bits z 51 20) whole) obj 5

/-- The meaning of `tlbi`. -/
def execTlbi (d a : Reg) (s : State) : Host.Outcome State Fault Refusal := finish (doTlbi d a 4) s

/-- The TLBI engine (R367): translations, then the accesses under way, then lines, among them those that these accesses have
filled; it waits for the accesses of the context that are under
way to other devices. -/
def tlbiDone (e : Engine) : M (Option Trap) := do
  match e.op with
  | .tlbi ctx u n _ =>
    dropSpace (.ctx ctx) u n
    performAll (fun r => r.src.ctx == ctx) fun g => g.2 == ctx
    flushAll (fun _ => true) fun l =>
      l.space == .ctx ctx && decide (u ≤ l.vline / 2 ^ 12) && decide (l.vline / 2 ^ 12 < u + n)
    if (← get).links.waits.any fun w => w.ctx == ctx && w.answer.isNone then throw .stall
    return none
  | _ => return none

/-- The meaning of `tlbiComplete`. -/
def execTlbiComplete (k : Nat) (s : State) : Host.Outcome State Fault Refusal :=
  engineEvent k (fun op => match op with | .tlbi _ _ _ _ => true | _ => false)
    (engineRun k true tlbiDone fun _ => pure ()) s

end Sys2Proof.Machine
end

