-- ==== Sys2Proof/Machine/Frames.lean ====
section
/-! DEFINITION. The Frame Custody Unit: records, transactions, revocation, notices (R371 to R382). -/

namespace Sys2Proof.Machine

/-- The other side. -/
def Side.other : Side → Side
  | .host => .device
  | .device => .host

/-- Code of a side (R372). -/
def sideCode : Option Side → Nat
  | none => 0
  | some .host => 1
  | some .device => 2

/-- Code of a record's state (R372). -/
def FrameState.code : FrameState → Nat
  | .free => 0 | .owned => 1 | .offered => 2 | .lent => 3 | .recalling => 4 | .revoking => 5

/-- A record as 128 bits (R372). -/
def Custody.word (c : Custody) : Nat :=
  sideCode c.owner + c.st.code * 2 ^ 2 + sideCode c.borrower * 2 ^ 5 + (if c.keep then 2 ^ 7 else 0)
    + c.interval.toNat * 2 ^ 32 + c.deadline.toNat * 2 ^ 64

/-- Changes a record. -/
def modCustody (f : Nat) (g : Custody → Custody) : M Unit :=
  modify fun s => { s with fcu := { s.fcu with records := s.fcu.records.put f (g (s.custody f)) } }

/-! ## Notices (R377) -/

/-- A counter half that saturates at 2^32 - 1. -/
def satNat (n : Nat) : Nat := min (n + 1) (2 ^ 32 - 1)

/-- Whether a side may reach a frame (R373, R377). -/
def reaches (s : State) (side : Side) (frame : Nat) : Bool :=
  s.hasMemory (frame * 2 ^ 18) && (s.custody frame).allows side

/-- Writes a notice to the ring of a side, then adds 1 to its COUNT; or counts it as dropped. `time` is TIME of the
transaction, or the deadline that passed. -/
def notice (side : Side) (kind : Nat) (cause : Option Side) (frame deadline time : Nat) : M Unit := do
  let s ← get
  let ring := match side with | .host => s.fcu.ringHost | .device => s.fcu.ringDevice
  let base := bits ring 41 14 * 2 ^ 14
  if !ring.getLsbD 63 || !reaches s side (base / 2 ^ 18) then
    set { s with fcu := { s.fcu with dropped := satNat s.fcu.dropped } }
  else
    let src : Source := { who := 0, ctx := 0, engine := true }
    let bs := leBytes 1 kind ++ leBytes 1 (sideCode cause) ++ leBytes 2 0 ++ leBytes 4 frame ++ leBytes 8 time
      ++ leBytes 8 deadline ++ leBytes 8 0
    let count ← match ← serve { kind := .rdh, src := src, pline := base / 64, mask := byteMask 0 8 } with
      | .ok rep => pure (lineNat rep.data 0 8)
      | .error _ => pure 0
    let a := base + 64 + 32 * (count % 256)
    let _ ← serve { kind := .wrh, src := src, pline := a / 64, mask := byteMask (a % 64) 32,
                    data := BitVec.ofNat 512 (leNat bs * 2 ^ (8 * (a % 64))) }
    let _ ← serve { kind := .atom, src := src, pline := base / 64, mask := byteMask 0 8,
                    atom := some { op := 16, wide := true, b := 0, b1 := 0 } }

/-- A CRW to FCUNQ (R377): the ring of the issuing side. -/
def writeRing (side : Side) (v : Word) : M Unit :=
  let v := v &&& (BitVec.ofNat 64 (2 ^ 63 + 2 ^ 42 - 2 ^ 14))
  modify fun s => match side with
    | .host => { s with fcu := { s.fcu with ringHost := v } }
    | .device => { s with fcu := { s.fcu with ringDevice := v } }

/-! ## Revocation (R375) and zeroing (R380) -/

/-- Whether a core is of a side (R373). -/
def ofSide (side : Side) (who : Nat) : Bool := match side with | .host => isHub who | .device => !isHub who

/-- The lines of a frame leave the L1s of a side's cores (R375 step 4). -/
def flushFrame (side : Side) (frame : Nat) : M Unit :=
  flushAll (ofSide side) fun l => match l.home with | .here p => p / 4096 == frame | .away _ _ => false

/-- A revocation begins: grants, TLB entries, walks in flight and L1 lines of the side go (R375 steps 1 to 4). Which frame a
background walk would reach is not known before it ends: every one of the side ends. `began` is TIME of the transaction, or
the deadline that passed. -/
def revoke (side : Side) (frame : Nat) (after' : After) (waiter : Option Nat) (began : Nat) : M Unit := do
  modCustody frame fun c => { c with st := .revoking, deadline := 0, revoked := some side, after := after', waiter := waiter,
                                     began := BitVec.ofNat 64 began }
  modify fun s => { s with dies := s.dies.map fun d =>
    (d.1, { d.2 with grants := d.2.grants.map fun x => (x.1, x.2.filter fun g => g != (side == .host, frame)) }) }
  dropTlbs (ofSide side) fun t => match t.target with
    | .phys b => decide (b / 2 ^ 18 ≤ frame) && decide (frame < b / 2 ^ 18 + t.units)
    | .remote _ _ => false
  modify fun s => { s with walks := s.walks.filter fun w => !ofSide side (w.thread / 8) }
  flushFrame side frame

/-- Zeroes every line of a frame as WrH (R380). -/
def zeroFrame (frame : Nat) : M Unit :=
  (List.range 4096).forM fun i => do
    let _ ← serve { kind := .wrh, src := { who := 0, ctx := 0, engine := true }, pline := frame * 4096 + i,
                    mask := BitVec.allOnes 64 }

/-- Runs `m` whole: where it must wait (for memory that has not come up), it has done nothing (log entry 17). -/
def whole {α : Type} (m : M α) : M α := fun s =>
  match m s with
  | .error .stall _ => .error .stall s
  | r => r

/-! ## Transactions (R376) -/

/-- What a transaction of thread `k` does in a state (R376): its status, or none where a revocation has begun for it. -/
def deal (o : Deal) (side : Side) (f : Nat) (y : Word) (k : Nat) : M (Option Nat) := do
  let s ← get
  let c := s.custody f
  let own := c.owner == some side
  let borrows := c.borrower == some side
  let wait := fun (x : Side) (w : After) => do
    modThread k fun t => { t with waiting := some none }
    revoke x f w (some k) s.time
    return (none : Option Nat)
  match o with
  | .offer =>
    if !own then return some 2
    else if c.st ≠ .owned then return some 1
    else
      modCustody f fun c => { c with st := .offered, keep := y.getLsbD 0 }
      notice side.other 1 (some side) f 0 s.time
      return some 0
  | .lend =>
    if !own then return some 2
    else if c.st ≠ .owned then return some 1
    else
      modCustody f fun c => { c with st := .lent, borrower := some side.other,
                                     interval := if y = 0 then 200000 else y.setWidth 32 }
      notice side.other 4 (some side) f 0 s.time
      return some 0
  | .recall =>
    if !own then return some 2
    else match c.st with
      | .offered =>
        modCustody f fun c => { c with st := .owned, keep := false }
        notice side.other 2 (some side) f 0 s.time
        return some 0
      | .lent =>
        let dl := s.time + c.interval.toNat
        modCustody f fun c => { c with st := .recalling, deadline := BitVec.ofNat 64 dl }
        notice side.other 5 (some side) f (dl % 2 ^ 64) s.time
        return some 0
      | _ => return some 1
  | .accept =>
    match c.st with
    | .free =>
      zeroFrame f
      modCustody f fun c => { line := c.line, st := .owned, owner := some side }
      return some 0
    | .offered => if own then return some 2 else wait side.other (.accept !c.keep)
    | _ => if own then return some 2 else return some 1
  | .give =>
    match c.st with
    | .owned => if own then wait side .free else return some 2
    | .lent | .recalling => if borrows then wait side (.back false) else return some 2
    | _ => if own then return some 1 else return some 2

/-- The status of a transaction reaches its thread (R379). -/
def answerDeal (k st : Nat) : M Unit := modThread k fun t => { t with waiting := t.waiting.map fun _ => some st }

/-- The transactions that wait at a frame are served in their order, at most `n`, until one begins a revocation (R376). -/
def serveTurns (frame : Nat) : Nat → M Unit
  | 0 => pure ()
  | n + 1 => do
    let c := (← get).custody frame
    match c.line with
    | [] => pure ()
    | x :: rest =>
      if c.st ≠ .revoking then
        modCustody frame fun c => { c with line := rest }
        match ← deal x.deal x.side frame x.arg x.thread with
        | some st => answerDeal x.thread st
        | none => pure ()
        serveTurns frame n

/-- A revocation ends (R375 step 5, R376): the accesses under way are performed, the copies that they have filled go, the
record changes, the transaction that began it answers 0, and those that wait are served. -/
def endRevocation (frame : Nat) : M Unit := do
  let c := (← get).custody frame
  drainWhere fun r => r.pline / 4096 == frame
  match c.revoked with
  | some x => flushFrame x frame
  | none => pure ()
  let owner' := fun (o : Option Side) => modCustody frame fun c =>
    { line := c.line, st := if o.isSome then .owned else .free, owner := o }
  match c.after, c.revoked with
  | .free, _ => owner' none
  | .accept zero, some x =>
    if zero then zeroFrame frame
    owner' (some x.other)
    notice x 3 (some x.other) frame 0 c.began.toNat
  | .back overrun, some x =>
    owner' c.owner
    match c.owner with
    | some o =>
      if overrun then
        modify fun s => { s with fcu := { s.fcu with overruns := satNat s.fcu.overruns } }
        notice o 7 none frame 0 c.began.toNat
        notice x 7 none frame 0 c.began.toNat
      else notice o 6 (some x) frame 0 c.began.toNat
    | none => pure ()
  | _, _ => pure ()
  match c.waiter with
  | some k => answerDeal k 0
  | none => pure ()
  serveTurns frame c.line.length

/-- REVOCATION_COMPLETE (R375). -/
def execRevocationComplete (frame : BitVec 24) (s : State) : Host.Outcome State Fault Refusal :=
  if (s.custody frame.toNat).st = .revoking then
    match whole (endRevocation frame.toNat) s with
    | .ok _ s' => .next s'
    | .error _ s' => .next s'
  else .next s

/-- RECALL_DEADLINE (R376): the borrower's revocation begins; OVERRUNS rises when it has ended. -/
def execRecallDeadline (frame : BitVec 24) (s : State) : Host.Outcome State Fault Refusal :=
  let c := s.custody frame.toNat
  match c.st, c.borrower with
  | .recalling, some b =>
    if c.deadline.toNat ≤ s.time then
      match whole (revoke b frame.toNat (.back true) none c.deadline.toNat) s with
      | .ok _ s' => .next s'
      | .error _ s' => .next s'
    else .next s
  | _, _ => .next s

/-! ## The instructions (R378 to R381) -/

/-- Whether the operands are malformed (R378, R380). -/
def dealBad (o : Deal) (x y : Word) : Bool :=
  bits x 17 0 != 0 || bits x 63 42 != 0 ||
    (match o with
     | .offer => bits y 63 1 != 0
     | .lend => bits y 63 32 != 0 || (y != 0 && (decide (y.toNat < 1000) || decide (1000000000 < y.toNat)))
     | _ => y != 0)

/-- A transaction as an instruction (R379): a release, the transaction, its status, an acquire. One that waits at its frame,
or whose revocation is under way, holds its thread. -/
def dealForm (o : Deal) (d a b : Reg) (e f : Bool) (len : Nat) : M Unit := straight len do
  let x ← readG a e
  let y ← readG b f
  checkDest d
  forbidCollecting
  let k ← me
  let frame := x.toNat / 2 ^ 18
  let done := fun (st : Nat) => do
    writeG d (BitVec.ofNat 64 st)
    acquire k .package
  match (← myThread).waiting with
  | some (some st) =>
    modMe fun t => { t with waiting := none }
    done st
  | some none => throw .stall
  | none =>
    release k .package
    let s ← get
    let side : Side := if isHub (k / 8) then .host else .device
    if !s.boot.rdycore.getLsbD 8 then throw .stall
    if dealBad o x y then done 3
    else if !s.hasMemory (frame * 2 ^ 18) then done 4
    else if (s.custody frame).st = .revoking then
      modCustody frame fun c => { c with line := c.line ++ [{ thread := k, deal := o, side := side, arg := y }] }
      modMe fun t => { t with waiting := some none }
      throw .stall
    else
      match ← whole (deal o side frame y k) with
      | some st => done st
      | none => throw .stall

/-- FOFFER (R376). -/
def doFoffer (d a b : Reg) (e f : Bool) (len : Nat) : M Unit := dealForm .offer d a b e f len

/-- The meaning of `foffer`. -/
def execFoffer (d a b : Reg) (e f : Bool) (s : State) : Host.Outcome State Fault Refusal := finish (doFoffer d a b e f 4) s

/-- FACCEPT (R376). -/
def doFaccept (d a b : Reg) (e f : Bool) (len : Nat) : M Unit := dealForm .accept d a b e f len

/-- The meaning of `faccept`. -/
def execFaccept (d a b : Reg) (e f : Bool) (s : State) : Host.Outcome State Fault Refusal := finish (doFaccept d a b e f 4) s

/-- FLEND (R376). -/
def doFlend (d a b : Reg) (e f : Bool) (len : Nat) : M Unit := dealForm .lend d a b e f len

/-- The meaning of `flend`. -/
def execFlend (d a b : Reg) (e f : Bool) (s : State) : Host.Outcome State Fault Refusal := finish (doFlend d a b e f 4) s

/-- FRECALL (R376). -/
def doFrecall (d a b : Reg) (e f : Bool) (len : Nat) : M Unit := dealForm .recall d a b e f len

/-- The meaning of `frecall`. -/
def execFrecall (d a b : Reg) (e f : Bool) (s : State) : Host.Outcome State Fault Refusal := finish (doFrecall d a b e f 4) s

/-- FRETURN (R376). -/
def doFreturn (d a b : Reg) (e f : Bool) (len : Nat) : M Unit := dealForm .give d a b e f len

/-- The meaning of `freturn`. -/
def execFreturn (d a b : Reg) (e f : Bool) (s : State) : Host.Outcome State Fault Refusal := finish (doFreturn d a b e f 4) s

/-- FQUERY (R381). -/
def doFquery (d a b : Reg) (e f : Bool) (len : Nat) : M Unit := straight len do
  let x ← readG a e
  let y ← readG b f
  checkDest d
  forbidCollecting
  let s ← get
  if !s.boot.rdycore.getLsbD 8 then throw .stall
  let w := (s.custody (x.toNat / 2 ^ 18)).word
  writeG d <|
    if bits x 17 0 ≠ 0 || bits x 63 42 ≠ 0 || !s.hasMemory (x.toNat / 2 ^ 18 * 2 ^ 18) then BitVec.allOnes 64
    else if y = 0 then BitVec.ofNat 64 w
    else if y = 1 then BitVec.ofNat 64 (w / 2 ^ 64)
    else 0

/-- The meaning of `fquery`. -/
def execFquery (d a b : Reg) (e f : Bool) (s : State) : Host.Outcome State Fault Refusal := finish (doFquery d a b e f 4) s

end Sys2Proof.Machine
end

