-- ==== Sys2Proof/Machine/Groups.lean ====
section
/-! DEFINITION. Groups, multicast and collective reduction (R288 to R297). -/

namespace Sys2Proof.Machine

/-- Whether a GMCAST or GRED of a group is outstanding (R290). -/
def State.groupBusy (s : State) (die g : Nat) : Bool :=
  !(s.group die g).reds.isEmpty || s.engines.any fun e =>
    match e.op with
    | .gmcast d n _ _ _ _ | .gadd d n => d == die && n == g
    | _ => false

/-- The barriers of a die that are bound to a group. -/
def State.barriersOf (s : State) (die g : Nat) : List Nat :=
  (s.die die).bars.filterMap fun p => if p.2.st != .free && p.2.group == g then some p.1 else none

/-- The rank of a core: members of lower WHO (R289). -/
def Group.rank (g : Group) (who : Nat) : Nat := (g.members.filter fun m => decide (m < who)).length

/-- Adds a member, in WHO order. -/
def Group.add (g : Group) (who : Nat) : Group :=
  { g with members := g.members.filter (fun m => decide (m < who)) ++ who :: g.members.filter fun m => decide (who < m) }

/-! ## GINFO and GSET (R294, R297) -/

/-- GINFO's report. -/
def groupReport (s : State) (who ctx : Nat) (x y : Word) : Nat :=
  let g := s.group (dieOf who) (bits x 7 0)
  if bits x 63 8 ≠ 0 || g.st = .free || g.ctx ≠ ctx then 2 ^ 63
  else if y = 0 then
    let mine := g.members.contains who
    (if mine then g.rank who else 0xFFF) + g.members.length * 2 ^ 12
      + (match g.st with | .free => 0 | .bound => 1 | .broken => 2) * 2 ^ 24 + (if mine then 2 ^ 26 else 0)
  else if 0x1000 ≤ y.toNat && y.toNat - 0x1000 < g.members.length then g.members.getD (y.toNat - 0x1000) 0
  else 0

/-- GINFO (R294). -/
def doGinfo (d a b : Reg) (e f : Bool) (len : Nat) : M Unit := straight len do
  let x ← readG a e
  let y ← readG b f
  checkDest d
  forbidCollecting
  writeG d (BitVec.ofNat 64 (groupReport (← get) (← myWho) (← myThread).kern.ctxid.toNat x y))

/-- The meaning of `ginfo`. -/
def execGinfo (d a b : Reg) (e f : Bool) (s : State) : Host.Outcome State Fault Refusal := finish (doGinfo d a b e f 4) s

/-- The status that GSET refuses an operation with, in the order 2, 4, 3, 1 (R297). -/
def gsetRefusal (s : State) (die : Nat) (x y : Word) : Option Nat :=
  let n := bits x 7 0
  let g := s.group die n
  let op := bits y 1 0
  let core := die * 2048 + bits y 12 2
  let suits := match g.st, op with
    | .free, 1 => true
    | .bound, 0 | .bound, 2 | .bound, 3 => true
    | .broken, 0 | .broken, 1 => true
    | _, _ => false
  if bits x 63 8 ≠ 0 || bits y 15 13 ≠ 0 || bits y 63 32 ≠ 0 || !suits then some 2
  else if (op = 2 || op = 3) && isDevKernel core then some 4
  else if g.st = .bound && s.groupBusy die n then some 3
  else if g.st = .bound && op = 0 && (s.barriersOf die n).any (fun b => !(s.parkedOn die b).isEmpty) then some 3
  else if op = 2 && !g.members.contains core &&
      ((s.die die).groups.filter fun p => p.2.st != .free && p.2.members.contains core).length ≥ 4 then some 1
  else none

/-- The change that GSET makes. -/
def gsetApply (die : Nat) (x y : Word) : M Unit := do
  let n := bits x 7 0
  let core := die * 2048 + bits y 12 2
  let bars := (← get).barriersOf die n
  match bits y 1 0 with
  | 0 =>
    modGroup die n fun _ => {}
    bars.forM fun b => do
      modBarrier die b fun r => { r with arr := [] }
      recheckBarrier die b
  | 1 =>
    modGroup die n fun _ => { st := .bound, ctx := bits y 31 16 }
    bars.forM fun b => do
      modBarrier die b fun r => { r with arr := [] }
      recheckBarrier die b
  | 2 => modGroup die n fun g => if g.members.contains core then g else g.add core
  | _ =>
    modGroup die n fun g => { g with members := g.members.filter (· != core) }
    bars.forM fun b => do
      modBarrier die b fun r => { r with arr := r.arr.filter (· != core) }
      recheckBarrier die b

/-- GSET (R297): a release and an acquire at DIE scope. -/
def doGset (d a b : Reg) (e f : Bool) (len : Nat) : M Unit := straight len do
  let x ← readG a e
  let y ← readG b f
  checkDest d
  forbidCollecting
  let k ← me
  let die := dieOf (k / 8)
  release k .die
  match gsetRefusal (← get) die x y with
  | some st => writeG d (BitVec.ofNat 64 st)
  | none =>
    gsetApply die x y
    writeG d 0
  acquire k .die

/-- The meaning of `gset`. -/
def execGset (d a b : Reg) (e f : Bool) (s : State) : Host.Outcome State Fault Refusal := finish (doGset d a b e f 4) s

/-! ## GMCAST (R295) -/

/-- CHAN GROUP (R291). -/
def checkGroup (z : Word) (member : Bool) : M Group := do
  let who ← myWho
  let g := (← get).group (dieOf who) (bits z 7 0)
  if g.st ≠ .bound || g.ctx ≠ (← myThread).kern.ctxid.toNat || (member && !g.members.contains who) then trap .chan 8 0 z
  return g

/-- GMCAST (R295). -/
def doGmcast (d a b : Reg) (e f : Bool) (len : Nat) : M Unit := straight len do
  let (o, x, y, z) ← engineOperands d a b e f
  forbidCollecting
  let obj ← checkObject o
  if bits z 15 8 ≠ 0 || bits z 63 32 ≠ 0 then trap .chan 4 0 z
  let g ← checkGroup z false
  let n := bits z 31 16
  let dst := vaOf y
  checkRange (vaOf x) n false
  if regionOf dst ≠ some 0 || dst % 2 ^ 44 + n > 2 ^ 16 then
    trap .page 0x10 (BitVec.ofNat 64 dst) (accessInfo 0 true false 3 false false)
  release (← me) (← scopeOf obj)
  fork (.gmcast (dieOf (← myWho)) (bits z 7 0) (vaOf x) (dst % 2 ^ 44) n g.members) obj 1

/-- The meaning of `gmcast`. -/
def execGmcast (d a b : Reg) (e f : Bool) (s : State) : Host.Outcome State Fault Refusal := finish (doGmcast d a b e f 4) s

/-- The multicast engine: the source is read once, then every member's scratchpad is written; a killed member is skipped and
sets FAULT (R290, R295). -/
def gmcastDone (e : Engine) : M (Option Trap) := do
  match e.op with
  | .gmcast _ _ src off n members =>
    match ← attempt (readVa e.agent src n) with
    | .error t => return some t
    | .ok bs =>
      members.forM fun m => do
        if (← getCore m).killed then modEngine e.id fun x => { x with faulty := true }
        else putBytes (placeScratch m off) bs
      return none
  | _ => return none

/-- GMCAST_COMPLETE (R295). -/
def execGmcastComplete (k : Nat) (s : State) : Host.Outcome State Fault Refusal :=
  engineEvent k (fun op => match op with | .gmcast _ _ _ _ _ _ => true | _ => false)
    (engineRun k true gmcastDone fun _ => pure ()) s

/-! ## GRED (R296) -/

/-- Element size of an OP. -/
def redBytes (op : Nat) : Nat := if op = 1 || op = 6 || op = 7 || op = 8 then 8 else 4

/-- One step of the fold (R296). -/
def redOp (op : Nat) (a b : Nat) : Nat :=
  let s32 := fun (x : Nat) => if x < 2 ^ 31 then (x : Int) else (x : Int) - 2 ^ 32
  match op with
  | 0 => (a + b) % 2 ^ 32
  | 1 => (a + b) % 2 ^ 64
  | 2 => if s32 b < s32 a then b else a
  | 3 => if s32 a < s32 b then b else a
  | 4 => min a b
  | 5 => max a b
  | 6 => a &&& b
  | 7 => a ||| b
  | 8 => a ^^^ b
  | 9 => (fAdd .fp32 .nearest a b).1
  | 10 => (fMinMax .fp32 .nearest true a b).1
  | 11 => (fMinMax .fp32 .nearest false a b).1
  | _ => a

/-- GREDs of a member on a group that have not added. -/
def State.gredsOf (s : State) (die g who : Nat) : Nat :=
  ((s.group die g).reds.filter fun r => r.any fun a => a.who == who).length +
    (s.engines.filter fun e => e.thread / 8 == who &&
      (match e.op with | .gadd d n => d == die && n == g | _ => false)).length

/-- A member joins the first open reduction that it has not joined. -/
def joinRed (a : GredArrival) : List (List GredArrival) → List (List GredArrival)
  | [] => [[a]]
  | r :: rs => if r.any fun x => x.who == a.who then r :: joinRed a rs else (r ++ [a]) :: rs

/-- GRED (R296). -/
def doGred (d a b : Reg) (e f : Bool) (len : Nat) : M Unit := straight len do
  let (o, x, y, z) ← engineOperands d a b e f
  forbidCollecting
  let k ← me
  let who := k / 8
  let die := dieOf who
  let obj ← checkObject o
  let op := bits z 11 8
  let n := bits z 26 16
  if bits z 15 12 ≠ 0 || bits z 31 27 ≠ 0 || bits z 63 32 ≠ 0 || n = 0 || n > 1024 || op ≥ 12 then trap .chan 4 0 z
  let gn := bits z 7 0
  let _ ← checkGroup z true
  let w := redBytes op
  if vaOf x % w ≠ 0 then trap .misalign 0 (BitVec.ofNat 64 (vaOf x))
  if vaOf y % w ≠ 0 then trap .misalign 0 (BitVec.ofNat 64 (vaOf y))
  checkRange (vaOf x) (n * w) false
  checkRange (vaOf y) (n * w) true
  if (← get).gredsOf die gn who ≥ 2 then park .gred
  release k (← scopeOf obj)
  modGroup die gn fun g => { g with
    reds := joinRed { who := who, thread := k, src := BitVec.ofNat 64 (vaOf x), dst := BitVec.ofNat 64 (vaOf y), ctl := z,
                      obj := BitVec.ofNat 64 obj } g.reds }

/-- The meaning of `gred`. -/
def execGred (d a b : Reg) (e f : Bool) (s : State) : Host.Outcome State Fault Refusal := finish (doGred d a b e f 4) s

/-- The agent of a member in a reduction. -/
def redAgent (die gn ctx : Nat) (a : GredArrival) : Agent :=
  { k := 2 ^ 34 + die * 2 ^ 8 + gn, v := { who := a.who, user := true, ctx := ctx }, vec := {}, engine := true }

/-- Reads every member's elements and folds them in rank order (R296): the pieces to write at every member, or the fault. -/
def foldMembers (die gn ctx : Nat) (arr : List GredArrival) : M RedWork := do
  match arr with
  | [] => return { todo := [] }
  | a0 :: _ =>
    let op := bits a0.ctl 11 8
    let n := bits a0.ctl 26 16
    let w := redBytes op
    match ← attempt (arr.mapM fun a => readVa (redAgent die gn ctx a) a.src.toNat (n * w)) with
    | .error t => return { todo := [], fault := some t }
    | .ok [] => return { todo := [] }
    | .ok (x0 :: xs) =>
      let elem := fun (bs : List Byte) (i : Nat) => bytesAt bs (i * w) w
      let result := (List.range n).flatMap fun i => leBytes w (xs.foldl (fun r bs => redOp op r (elem bs i)) (elem x0 i))
      return { todo := arr.flatMap fun a => (pieces a.dst.toNat result.length).map fun p =>
        (a.who, p.1, (result.drop ((p.1 + 2 ^ 52 - a.dst.toNat) % 2 ^ 52)).take p.2) }

/-- Writes the pieces of a result, each once; a member where one fails takes no more of them. Answers the first fault. One that
waits for another device leaves what is done and goes on from there. -/
def writeMembers (die gn ctx : Nat) (arr : List GredArrival) : Nat → RedWork → M (Option Trap)
  | 0, w => return w.fault
  | fuel + 1, w => do
    match w.todo with
    | [] => return w.fault
    | (who, va, bs) :: rest =>
      let next ← match arr.find? fun a => a.who == who with
        | none => pure { w with todo := rest }
        | some a => do
          match ← attempt (writePiece (redAgent die gn ctx a) va bs (BitVec.ofNat 64 va) 0) with
          | .ok () => pure { w with todo := rest }
          | .error t => pure { todo := rest.filter fun x => x.1 != who, fault := w.fault.orElse fun _ => some t }
      modify fun s => s.dropWaits (2 ^ 34 + die * 2 ^ 8 + gn)
      modGroup die gn fun g => { g with work := some next }
      writeMembers die gn ctx arr fuel next

/-- A reduction that every member has joined: the fold, which reads every source before any destination is written, then the
writes (R296). -/
def reduceAll (die gn ctx : Nat) (arr : List GredArrival) : M (Option Trap) := do
  let w ← match ((← get).group die gn).work with
    | some w => pure w
    | none => do
      let w ← foldMembers die gn ctx arr
      modify fun s => s.dropWaits (2 ^ 34 + die * 2 ^ 8 + gn)
      modGroup die gn fun g => { g with work := some w }
      pure w
  writeMembers die gn ctx arr (w.todo.length + 1) w

/-- Forks the completion adds of a reduction's members. -/
def redAdds (die gn ctx : Nat) (arr : List GredArrival) (fault : Option Trap) (faulty : Bool) : M Unit :=
  arr.forM fun a => modify fun s =>
    let e : Engine :=
      { id := s.engineSeq, op := .gadd die gn, thread := a.thread, obj := a.obj, fn := 2, ctx := ctx, user := true,
        launch := (s.core a.who).held.map (·.1), failed := fault, faulty := faulty, finished := true }
    { s with engines := s.engines ++ [e], engineSeq := s.engineSeq + 1 }

/-- Performs the completion adds of a group's reductions that wait, and wakes members parked in GRED (R296). -/
def performAdds (die gn : Nat) : M Unit := do
  let es := (← get).engines.filter fun e => match e.op with | .gadd d n => d == die && n == gn | _ => false
  for e in es do
    modify fun s =>
      match engineRun e.id true (fun _ => pure none) (fun _ => pure ()) s with
      | .ok _ s' => s'
      | .error _ s' => s'
  wakeAll fun r => r == .gred

/-- The oldest open reduction of a group is performed, once every member has joined it (R296). -/
def performRed (die gn : Nat) : M Unit := do
  let g := (← get).group die gn
  match g.reds with
  | [] => pure ()
  | arr :: rest =>
    if g.st = .bound && g.members.all fun m => arr.any fun a => a.who == m then
      let arr := g.members.filterMap fun m => arr.find? fun a => a.who == m
      remoteScope (2 ^ 34 + die * 2 ^ 8 + gn) do
        let same := match arr with | [] => true | a :: as => as.all fun x => x.ctl == a.ctl
        let fault ← if same then reduceAll die gn g.ctx arr else pure none
        modGroup die gn fun g => { g with reds := rest, work := none }
        redAdds die gn g.ctx arr fault (!same)

/-- GRED_REDUCTION (R296). -/
def execGredReduction (die : BitVec 2) (group : BitVec 8) (s : State) : Host.Outcome State Fault Refusal :=
  let s1 := match performRed die.toNat group.toNat s with
    | .ok _ s' => s'
    | .error _ s' => s'
  match performAdds die.toNat group.toNat s1 with
  | .ok _ s' => .next s'
  | .error _ s' => .next s'

/-- A member core of a group is killed (R290): the group breaks, and each open reduction ends with FAULT at the survivors. -/
def breakGroup (die gn who : Nat) : M Unit := do
  let g := (← get).group die gn
  if g.st = .bound && g.members.contains who then
    modGroup die gn fun g => { g with st := .broken, reds := [], work := none }
    g.reds.forM fun arr => redAdds die gn g.ctx (arr.filter fun a => a.who != who) none true
    performAdds die gn

/-- Every GMCAST and GRED of a group adds before the group goes (R290): what can be performed is performed, a reduction that not
every member has joined ends with FAULT. -/
def settleGroup (die gn : Nat) : M Unit := do
  (List.replicate ((← get).group die gn).reds.length ()).forM fun _ => performRed die gn
  let g := (← get).group die gn
  modGroup die gn fun g => { g with reds := [], work := none }
  g.reds.forM fun arr => redAdds die gn g.ctx arr none true
  let casts := (← get).engines.filter fun e => match e.op with | .gmcast d n _ _ _ _ => d == die && n == gn | _ => false
  casts.forM fun e => engineRun e.id true gmcastDone fun _ => pure ()
  performAdds die gn
  if (← get).groupBusy die gn then throw .stall

end Sys2Proof.Machine
end

