-- ==== Sys2Proof/Machine/Pins.lean ====
section
/-! DEFINITION. Mapping of scratchpad ranges: pinning the words of a line at their home, and ending the pins with write-back
(R133 to R135, R145, R148). -/

namespace Sys2Proof.Machine

/-- Entries of a line's directory set that hold pinned words. -/
def pinnedMates (s : State) (p : Nat) : Nat :=
  (s.homes.dir.filter fun (e : Nat × Dir) => e.2.pinned && setKey e.1 == setKey p).length

/-- Whether a home can hold the pins of a line beside those it holds (R145): at most 4 entries of a set hold pinned words,
and a word stays pinned to one place. -/
def canPin (s : State) (pline : Nat) : Bool :=
  !(s.dirOf pline).pinned && decide (pinnedMates s pline < 4)

/-- Every copy and registration of a line ends, with its data, before its words are pinned (R133, R134): the tracked ones
and, by the reverse map (R120), the SELF copies. -/
def recallLine (who pline : Nat) (traced : Bool) : M Unit := do
  drainLine afadd pline
  let r : Req :=
    { kind := .atom, src := { who := who, ctx := 0, engine := true }, pline := pline, mask := BitVec.allOnes 64, trace := traced }
  (allAsks (← get) r).forM fun a => do let _ ← doAsk r a
  let left := (← get).cores.filter fun c => c.2.l1.any (·.copies pline)
  left.forM fun c => do let _ ← doAsk r (c.1, .invalidate)
  setDir pline { (← get).dirOf pline with st := .n }

/-- Pins the words of a recalled line to 64 bytes of a core's scratchpad (R133), if its home can hold the pins: waits on its
words read again at the new place (R137). -/
def pinLine (who pline0 place : Nat) (traced : Bool) : M Bool := do
  let pline := (← get).redirect pline0
  if canPin (← get) pline then
    makeRoom afadd pline
    let d := (← get).dirOf pline
    let owners : Store Owner := (List.range 16).map fun i => (i, Owner.pin who (place + 4 * i))
    setDir pline { d with owners := owners, trace := d.trace || traced }
    wakeAll (waitsOn (pline * 64) 64)
    return true
  else return false

/-- Ends the pins of a line that name 64 bytes of a core's scratchpad; waits on its words read again at home (R137). -/
def dropPins (who pline0 place : Nat) : M Bool := do
  let pline := (← get).redirect pline0
  drainLine afadd pline
  let d := (← get).dirOf pline
  if d.owners.any fun p => p.2 == .pin who (place + 4 * p.1) then
    setDir pline { d with owners := d.owners.filter fun p => !(p.2 == .pin who (place + 4 * p.1)) }
    wakeAll (waitsOn place 64)
    return true
  else return false

/-- Ends the pins of a line and writes the scratchpad's 64 bytes to its backing memory (R135). -/
def unpinLine (who pline0 place : Nat) : M Unit := do
  let pline := (← get).redirect pline0
  let traced := ((← get).dirOf pline).trace
  if ← dropPins who pline0 place then
    let bs ← takeBytes place 64
    writeHome (noteAt pline traced) pline (BitVec.allOnes 64) (packLine bs) 7 { who := who, ctx := 0 }

/-- Ends every pin of a mapping entry, with write-back (R135). -/
def MapEntry.release (e : MapEntry) (who : Nat) : M Unit :=
  (e.plines.foldlM (fun i p => do
    unpinLine who p (e.place + 64 * i)
    return i + 1) 0) >>= fun _ => pure ()

/-- Evicts a core's mappings of a context: written back, pins ended, the entries stay EVICTED (R135, R351). -/
def evictMaps (who ctx : Nat) : M Unit := do
  (← getCore who).maps.forM fun e => if e.ctx = ctx && !e.evicted then e.release who else pure ()
  modCore who fun c => { c with maps := c.maps.map fun e => if e.ctx = ctx then { e with evicted := true } else e }

/-- Unmaps a core's mappings of a context, with write-back, at the end of a launch (R135, R317). -/
def removeMaps (who ctx : Nat) : M Unit := do
  (← getCore who).maps.forM fun e => if e.ctx = ctx && !e.evicted then e.release who else pure ()
  modCore who fun c => { c with maps := c.maps.filter fun e => e.ctx != ctx }

/-- Whether two ranges share a byte. -/
def overlap (a n b m : Nat) : Bool := decide (a < b + m) && decide (b < a + n)

end Sys2Proof.Machine
end

