-- ==== Sys2Proof/Machine/Vector.lean ====
section
/-! DEFINITION. The lane grant and the vector instructions on registers (R44, R45, R210 to R224). -/

namespace Sys2Proof.Machine

/-! ## Lanes and masks (R210, R211) -/

/-- Lane `i` of v register `r`. -/
def Vec.lane (v : Vec) (r : Reg) (i : Nat) : BitVec 32 := v.v.get (r.toNat * 256 + i) 0

/-- Sets lane `i` of v register `r`; a zero lane is not listed. -/
def Vec.setLane (v : Vec) (r : Reg) (i : Nat) (x : BitVec 32) : Vec :=
  { v with v := if x = 0 then v.v.del (r.toNat * 256 + i) else v.v.put (r.toNat * 256 + i) x }

/-- The lanes below VLEN, as mask bits. -/
def Vec.all (v : Vec) : BitVec 256 := BitVec.ofNat 256 (2 ^ v.vlen - 1)

/-- Mask `n`: m0 reads as all ones; bits at or above VLEN read as 0. -/
def Vec.mask (v : Vec) (n : BitVec 3) : BitVec 256 := (if n = 0 then BitVec.allOnes 256 else v.m[n.toNat]) &&& v.all

/-- Writes a mask; a write to m0 is ignored. -/
def Vec.setMask (v : Vec) (n : BitVec 3) (x : BitVec 256) : Vec :=
  if n = 0 then v else { v with m := v.m.set n.toNat (x &&& v.all) }

/-- The active lanes of an instruction, lowest first. -/
def Vec.active (v : Vec) (m : BitVec 3) : List Nat := (List.range v.vlen).filter fun i => (v.mask m).getLsbD i

/-- Changes the issuing thread's vector state. -/
def modVec (f : Vec → Vec) : M Unit := modMe fun t => { t with vec := f t.vec }

/-- Writes lanes of a v register. -/
def Vec.setLanes (v : Vec) (r : Reg) (xs : List (Nat × BitVec 32)) : Vec := xs.foldl (fun v p => v.setLane r p.1 p.2) v

/-- A mask from the lanes it holds. -/
def maskOf (lanes : List Nat) : BitVec 256 := lanes.foldl (fun x i => x ||| ((1 : BitVec 256) <<< i)) 0

/-- Every active lane computed from lane number and lane state; the others keep their value (R219). -/
def formLane (d : Reg) (m : BitVec 3) (len : Nat) (op : Vec → Nat → BitVec 32) : M Unit := straight len do
  let v := (← myThread).vec
  modVec fun _ => v.setLanes d ((v.active m).map fun i => (i, op v i))

/-- An integer operation on two v registers. -/
def formV2 (d a b : Reg) (m : BitVec 3) (len : Nat) (op : BitVec 32 → BitVec 32 → BitVec 32) : M Unit :=
  formLane d m len fun v i => op (v.lane a i) (v.lane b i)

/-- An integer compare into a mask (R220). -/
def formVCmp (d : BitVec 3) (a b : Reg) (m : BitVec 3) (len : Nat) (op : BitVec 32 → BitVec 32 → Bool) : M Unit :=
  straight len do
    modVec fun v => v.setMask d (maskOf ((v.active m).filter fun i => op (v.lane a i) (v.lane b i)))

/-- Sets the flags of a vector instruction: the union, and the lowest lane that raised an enabled one (R219, R233). -/
def raiseLanes (fs : List (Nat × Nat)) : M Unit :=
  raiseFlags (fs.foldl (fun x p => x ||| p.2) 0) true fun en => ((fs.find? fun p => p.2 &&& en != 0).map (·.1)).getD 0

/-- A floating-point operation on lanes `a`, `b` and the old lane `d` (R219, R221). -/
def formVF (d a b : Reg) (m : BitVec 3) (len : Nat) (op : Ctrl → Nat → Nat → Nat → Nat × Nat) : M Unit := straight len do
  let v := (← myThread).vec
  let c ← sampleFpc
  let rs := (v.active m).map fun i => (i, op c (v.lane a i).toNat (v.lane b i).toNat (v.lane d i).toNat)
  modVec fun _ => v.setLanes d (rs.map fun r => (r.1, BitVec.ofNat 32 r.2.1))
  raiseLanes (rs.map fun r => (r.1, r.2.2))

/-- A floating-point compare into a mask; with m0 as its destination it performs nothing visible (R220, R221). -/
def formVFCmp (d : BitVec 3) (a b : Reg) (m : BitVec 3) (len : Nat) (op : Fmt → Ctrl → Nat → Nat → Bool × Nat) : M Unit :=
  straight len do
    if d ≠ 0 then
      let v := (← myThread).vec
      let c ← sampleFpc
      let rs := (v.active m).map fun i => (i, op .fp32 c (v.lane a i).toNat (v.lane b i).toNat)
      modVec fun v => v.setMask d (maskOf ((rs.filter fun r => r.2.1).map (·.1)))
      raiseLanes (rs.map fun r => (r.1, r.2.2))

/-! ## The grant (R217) -/

/-- The target of a claim of `n` lanes. -/
def claimTarget (n : Nat) : Nat := max 8 (if n > 200 then 200 else (n + 7) / 8 * 8)

/-- The free pool groups of a cluster, lowest first. -/
def Cluster.freeGroups (c : Cluster) : List Nat := (List.range 24).filter fun g => (c.pool.find? g).isNone

/-- Takes free groups for a thread; their lanes and slices read zero (R213, R214). -/
def takeGroups (k : Nat) (gs : List Nat) : M Unit := do
  let cl := k / 64
  modCluster cl fun c => { c with pool := gs.foldl (fun p g => Store.put p g k) c.pool }
  modify fun s => { s with mem := gs.foldl (fun m g => m.zero (placePool cl g 0) (2 ^ 13)) s.mem }
  modThread k fun t => { t with vec := { t.vec with
    groups := t.vec.groups ++ gs
    vlen := t.vec.vlen + 8 * gs.length
    v := t.vec.v.filter fun p => decide (p.1 % 256 < t.vec.vlen)
    m := t.vec.m.map fun x => x &&& t.vec.all } }

/-- VCLAIM. -/
def doVclaim (d a : Reg) (e : Bool) (len : Nat) : M Unit := straight len do
  let x ← readG a e
  checkDest d
  let k ← me
  if isHub (k / 8) then writeG d 32
  else
    let target := claimTarget x.toNat
    let n := (← myThread).vec.vlen
    if target ≤ n then giveUpLanes k target
    else takeGroups k (((← getCluster (k / 64)).freeGroups).take ((target - n) / 8))
    modVec fun v => { v with target := target }
    writeG d (BitVec.ofNat 64 (← myThread).vec.vlen)

/-- The meaning of `vclaim`. -/
def execVclaim (d a : Reg) (e : Bool) (s : State) : Host.Outcome State Fault Refusal := finish (doVclaim d a e 4) s

/-- VREL. -/
def doVrel (len : Nat) : M Unit := straight len do releaseLanes (← me)

/-- The meaning of `vrel`. -/
def execVrel (s : State) : Host.Outcome State Fault Refusal := finish (doVrel 4) s

/-- VLEN. -/
def doVlen (d : Reg) (len : Nat) : M Unit := straight len do
  checkDest d
  writeG d (BitVec.ofNat 64 (← myThread).vec.vlen)

/-- The meaning of `vlen`. -/
def execVlen (d : Reg) (s : State) : Host.Outcome State Fault Refusal := finish (doVlen d 4) s

/-! ## Integer lanes (R220) -/

/-- VADD (R220). -/
def doVadd (d a b : Reg) (m : BitVec 3) (len : Nat) : M Unit := formV2 d a b m len fun x y => x + y

/-- The meaning of `vadd`. -/
def execVadd (d a b : Reg) (m : BitVec 3) (s : State) : Host.Outcome State Fault Refusal := finish (doVadd d a b m 4) s

/-- VSUB (R220). -/
def doVsub (d a b : Reg) (m : BitVec 3) (len : Nat) : M Unit := formV2 d a b m len fun x y => x - y

/-- The meaning of `vsub`. -/
def execVsub (d a b : Reg) (m : BitVec 3) (s : State) : Host.Outcome State Fault Refusal := finish (doVsub d a b m 4) s

/-- VMUL (R220). -/
def doVmul (d a b : Reg) (m : BitVec 3) (len : Nat) : M Unit := formV2 d a b m len fun x y => x * y

/-- The meaning of `vmul`. -/
def execVmul (d a b : Reg) (m : BitVec 3) (s : State) : Host.Outcome State Fault Refusal := finish (doVmul d a b m 4) s

/-- VMIN (R220). -/
def doVmin (d a b : Reg) (m : BitVec 3) (len : Nat) : M Unit := formV2 d a b m len fun x y => if x.sle y then x else y

/-- The meaning of `vmin`. -/
def execVmin (d a b : Reg) (m : BitVec 3) (s : State) : Host.Outcome State Fault Refusal := finish (doVmin d a b m 4) s

/-- VMAX (R220). -/
def doVmax (d a b : Reg) (m : BitVec 3) (len : Nat) : M Unit := formV2 d a b m len fun x y => if x.sle y then y else x

/-- The meaning of `vmax`. -/
def execVmax (d a b : Reg) (m : BitVec 3) (s : State) : Host.Outcome State Fault Refusal := finish (doVmax d a b m 4) s

/-- VMINN (R220). -/
def doVminn (d a b : Reg) (m : BitVec 3) (len : Nat) : M Unit := formV2 d a b m len fun x y => if x.ule y then x else y

/-- The meaning of `vminn`. -/
def execVminn (d a b : Reg) (m : BitVec 3) (s : State) : Host.Outcome State Fault Refusal := finish (doVminn d a b m 4) s

/-- VMAXN (R220). -/
def doVmaxn (d a b : Reg) (m : BitVec 3) (len : Nat) : M Unit := formV2 d a b m len fun x y => if x.ule y then y else x

/-- The meaning of `vmaxn`. -/
def execVmaxn (d a b : Reg) (m : BitVec 3) (s : State) : Host.Outcome State Fault Refusal := finish (doVmaxn d a b m 4) s

/-- VAND (R220). -/
def doVand (d a b : Reg) (m : BitVec 3) (len : Nat) : M Unit := formV2 d a b m len fun x y => x &&& y

/-- The meaning of `vand`. -/
def execVand (d a b : Reg) (m : BitVec 3) (s : State) : Host.Outcome State Fault Refusal := finish (doVand d a b m 4) s

/-- VOR (R220). -/
def doVor (d a b : Reg) (m : BitVec 3) (len : Nat) : M Unit := formV2 d a b m len fun x y => x ||| y

/-- The meaning of `vor`. -/
def execVor (d a b : Reg) (m : BitVec 3) (s : State) : Host.Outcome State Fault Refusal := finish (doVor d a b m 4) s

/-- VXOR (R220). -/
def doVxor (d a b : Reg) (m : BitVec 3) (len : Nat) : M Unit := formV2 d a b m len fun x y => x ^^^ y

/-- The meaning of `vxor`. -/
def execVxor (d a b : Reg) (m : BitVec 3) (s : State) : Host.Outcome State Fault Refusal := finish (doVxor d a b m 4) s

/-- VSLL (R220). -/
def doVsll (d a b : Reg) (m : BitVec 3) (len : Nat) : M Unit := formV2 d a b m len fun x y => x <<< (y.toNat % 32)

/-- The meaning of `vsll`. -/
def execVsll (d a b : Reg) (m : BitVec 3) (s : State) : Host.Outcome State Fault Refusal := finish (doVsll d a b m 4) s

/-- VSRL (R220). -/
def doVsrl (d a b : Reg) (m : BitVec 3) (len : Nat) : M Unit := formV2 d a b m len fun x y => x >>> (y.toNat % 32)

/-- The meaning of `vsrl`. -/
def execVsrl (d a b : Reg) (m : BitVec 3) (s : State) : Host.Outcome State Fault Refusal := finish (doVsrl d a b m 4) s

/-- VSRA (R220). -/
def doVsra (d a b : Reg) (m : BitVec 3) (len : Nat) : M Unit := formV2 d a b m len fun x y => x.sshiftRight (y.toNat % 32)

/-- The meaning of `vsra`. -/
def execVsra (d a b : Reg) (m : BitVec 3) (s : State) : Host.Outcome State Fault Refusal := finish (doVsra d a b m 4) s

/-- VCMPEQ (R220). -/
def doVcmpeq (d : BitVec 3) (a b : Reg) (m : BitVec 3) (len : Nat) : M Unit := formVCmp d a b m len fun x y => x == y

/-- The meaning of `vcmpeq`. -/
def execVcmpeq (d : BitVec 3) (a b : Reg) (m : BitVec 3) (s : State) : Host.Outcome State Fault Refusal := finish (doVcmpeq d a b m 4) s

/-- VCMPLT (R220). -/
def doVcmplt (d : BitVec 3) (a b : Reg) (m : BitVec 3) (len : Nat) : M Unit := formVCmp d a b m len fun x y => x.slt y

/-- The meaning of `vcmplt`. -/
def execVcmplt (d : BitVec 3) (a b : Reg) (m : BitVec 3) (s : State) : Host.Outcome State Fault Refusal := finish (doVcmplt d a b m 4) s

/-- VCMPLTN (R220). -/
def doVcmpltn (d : BitVec 3) (a b : Reg) (m : BitVec 3) (len : Nat) : M Unit := formVCmp d a b m len fun x y => x.ult y

/-- The meaning of `vcmpltn`. -/
def execVcmpltn (d : BitVec 3) (a b : Reg) (m : BitVec 3) (s : State) : Host.Outcome State Fault Refusal := finish (doVcmpltn d a b m 4) s

/-! ## FP32 lanes (R221, R222) -/

/-- VFADD (R221). -/
def doVfadd (d a b : Reg) (m : BitVec 3) (len : Nat) : M Unit := formVF d a b m len fun c x y _ => fAdd .fp32 c x y

/-- The meaning of `vfadd`. -/
def execVfadd (d a b : Reg) (m : BitVec 3) (s : State) : Host.Outcome State Fault Refusal := finish (doVfadd d a b m 4) s

/-- VFSUB (R221). -/
def doVfsub (d a b : Reg) (m : BitVec 3) (len : Nat) : M Unit := formVF d a b m len fun c x y _ => fSub .fp32 c x y

/-- The meaning of `vfsub`. -/
def execVfsub (d a b : Reg) (m : BitVec 3) (s : State) : Host.Outcome State Fault Refusal := finish (doVfsub d a b m 4) s

/-- VFMUL (R221). -/
def doVfmul (d a b : Reg) (m : BitVec 3) (len : Nat) : M Unit := formVF d a b m len fun c x y _ => fMul .fp32 c x y

/-- The meaning of `vfmul`. -/
def execVfmul (d a b : Reg) (m : BitVec 3) (s : State) : Host.Outcome State Fault Refusal := finish (doVfmul d a b m 4) s

/-- VFFMA (R221). -/
def doVffma (d a b : Reg) (m : BitVec 3) (len : Nat) : M Unit := formVF d a b m len fun c x y z => fFma .fp32 c x y z

/-- The meaning of `vffma`. -/
def execVffma (d a b : Reg) (m : BitVec 3) (s : State) : Host.Outcome State Fault Refusal := finish (doVffma d a b m 4) s

/-- VFMIN (R221). -/
def doVfmin (d a b : Reg) (m : BitVec 3) (len : Nat) : M Unit := formVF d a b m len fun c x y _ => fMinMax .fp32 c false x y

/-- The meaning of `vfmin`. -/
def execVfmin (d a b : Reg) (m : BitVec 3) (s : State) : Host.Outcome State Fault Refusal := finish (doVfmin d a b m 4) s

/-- VFMAX (R221). -/
def doVfmax (d a b : Reg) (m : BitVec 3) (len : Nat) : M Unit := formVF d a b m len fun c x y _ => fMinMax .fp32 c true x y

/-- The meaning of `vfmax`. -/
def execVfmax (d a b : Reg) (m : BitVec 3) (s : State) : Host.Outcome State Fault Refusal := finish (doVfmax d a b m 4) s

/-- VFNEG (R221). -/
def doVfneg (d a : Reg) (m : BitVec 3) (len : Nat) : M Unit := formVF d a a m len fun c x _ _ => fSign .fp32 c false x

/-- The meaning of `vfneg`. -/
def execVfneg (d a : Reg) (m : BitVec 3) (s : State) : Host.Outcome State Fault Refusal := finish (doVfneg d a m 4) s

/-- VFABS (R221). -/
def doVfabs (d a : Reg) (m : BitVec 3) (len : Nat) : M Unit := formVF d a a m len fun c x _ _ => fSign .fp32 c true x

/-- The meaning of `vfabs`. -/
def execVfabs (d a : Reg) (m : BitVec 3) (s : State) : Host.Outcome State Fault Refusal := finish (doVfabs d a m 4) s

/-- VFEQ (R221). -/
def doVfeq (d : BitVec 3) (a b : Reg) (m : BitVec 3) (len : Nat) : M Unit := formVFCmp d a b m len fEq

/-- The meaning of `vfeq`. -/
def execVfeq (d : BitVec 3) (a b : Reg) (m : BitVec 3) (s : State) : Host.Outcome State Fault Refusal := finish (doVfeq d a b m 4) s

/-- VFLT (R221). -/
def doVflt (d : BitVec 3) (a b : Reg) (m : BitVec 3) (len : Nat) : M Unit := formVFCmp d a b m len fLt

/-- The meaning of `vflt`. -/
def execVflt (d : BitVec 3) (a b : Reg) (m : BitVec 3) (s : State) : Host.Outcome State Fault Refusal := finish (doVflt d a b m 4) s

/-- VFLE (R221). -/
def doVfle (d : BitVec 3) (a b : Reg) (m : BitVec 3) (len : Nat) : M Unit := formVFCmp d a b m len fLe

/-- The meaning of `vfle`. -/
def execVfle (d : BitVec 3) (a b : Reg) (m : BitVec 3) (s : State) : Host.Outcome State Fault Refusal := finish (doVfle d a b m 4) s

/-- VFDIV (R221). -/
def doVfdiv (d a b : Reg) (m : BitVec 3) (len : Nat) : M Unit := formVF d a b m len fun c x y _ => fDiv .fp32 c x y

/-- The meaning of `vfdiv`. -/
def execVfdiv (d a b : Reg) (m : BitVec 3) (s : State) : Host.Outcome State Fault Refusal := finish (doVfdiv d a b m 4) s

/-- VEXP2 (R44). -/
def doVexp2 (d a : Reg) (m : BitVec 3) (len : Nat) : M Unit := formVF d a a m len fun c x _ _ => fExp2 c x

/-- The meaning of `vexp2`. -/
def execVexp2 (d a : Reg) (m : BitVec 3) (s : State) : Host.Outcome State Fault Refusal := finish (doVexp2 d a m 4) s

/-- VLOG2 (R222). -/
def doVlog2 (d a : Reg) (m : BitVec 3) (len : Nat) : M Unit := formVF d a a m len fun c x _ _ => fLog2 c x

/-- The meaning of `vlog2`. -/
def execVlog2 (d a : Reg) (m : BitVec 3) (s : State) : Host.Outcome State Fault Refusal := finish (doVlog2 d a m 4) s

/-- VRCP (R222). -/
def doVrcp (d a : Reg) (m : BitVec 3) (len : Nat) : M Unit := formVF d a a m len fun c x _ _ => fRcp c x

/-- The meaning of `vrcp`. -/
def execVrcp (d a : Reg) (m : BitVec 3) (s : State) : Host.Outcome State Fault Refusal := finish (doVrcp d a m 4) s

/-- VRSQRT (R222). -/
def doVrsqrt (d a : Reg) (m : BitVec 3) (len : Nat) : M Unit := formVF d a a m len fun c x _ _ => fRsqrt c x

/-- The meaning of `vrsqrt`. -/
def execVrsqrt (d a : Reg) (m : BitVec 3) (s : State) : Host.Outcome State Fault Refusal := finish (doVrsqrt d a m 4) s

/-! ## Movement, conversion, reductions (R223, R45) -/

/-- VBCAST (R223). -/
def doVbcast (d a : Reg) (m : BitVec 3) (len : Nat) : M Unit := do
  let x ← readP a
  formLane d m len fun _ _ => x.setWidth 32

/-- The meaning of `vbcast`. -/
def execVbcast (d a : Reg) (m : BitVec 3) (s : State) : Host.Outcome State Fault Refusal := finish (doVbcast d a m 4) s

/-- VEXT (R223). -/
def doVext (d a b : Reg) (len : Nat) : M Unit := straight len do
  let j ← readP b
  checkDest d
  let v := (← myThread).vec
  writeG d (if j.toNat < v.vlen then (v.lane a j.toNat).setWidth 64 else 0)

/-- The meaning of `vext`. -/
def execVext (d a b : Reg) (s : State) : Host.Outcome State Fault Refusal := finish (doVext d a b 4) s

/-- VIDX (R223). -/
def doVidx (d : Reg) (m : BitVec 3) (len : Nat) : M Unit := formLane d m len fun _ i => BitVec.ofNat 32 i

/-- The meaning of `vidx`. -/
def execVidx (d : Reg) (m : BitVec 3) (s : State) : Host.Outcome State Fault Refusal := finish (doVidx d m 4) s

/-- VSEL (R223). -/
def doVsel (d a b : Reg) (m : BitVec 3) (len : Nat) : M Unit := formLane d 0 len fun v i => if (v.mask m).getLsbD i then v.lane a i else v.lane b i

/-- The meaning of `vsel`. -/
def execVsel (d a b : Reg) (m : BitVec 3) (s : State) : Host.Outcome State Fault Refusal := finish (doVsel d a b m 4) s

/-- VPERM (R223). -/
def doVperm (d a b : Reg) (m : BitVec 3) (len : Nat) : M Unit := formLane d m len fun v i =>
  let j := (v.lane b i).toNat
  if j < v.vlen then v.lane a j else 0

/-- The meaning of `vperm`. -/
def execVperm (d a b : Reg) (m : BitVec 3) (s : State) : Host.Outcome State Fault Refusal := finish (doVperm d a b m 4) s

/-- VCVTFI (R223). -/
def doVcvtfi (d a : Reg) (m : BitVec 3) (len : Nat) : M Unit :=
  formVF d a a m len fun c x _ _ => toInt 32 c.rm (Fmt.fp32.operand c.ftz x)

/-- The meaning of `vcvtfi`. -/
def execVcvtfi (d a : Reg) (m : BitVec 3) (s : State) : Host.Outcome State Fault Refusal := finish (doVcvtfi d a m 4) s

/-- VCVTIF (R223). -/
def doVcvtif (d a : Reg) (m : BitVec 3) (len : Nat) : M Unit :=
  formVF d a a m len fun c x _ _ => ofInt .fp32 c (BitVec.ofNat 32 x).toInt

/-- The meaning of `vcvtif`. -/
def execVcvtif (d a : Reg) (m : BitVec 3) (s : State) : Host.Outcome State Fault Refusal := finish (doVcvtif d a m 4) s

/-- VRSUM (R223). -/
def doVrsum (d a : Reg) (m : BitVec 3) (len : Nat) : M Unit := straight len do
  checkDest d
  let v := (← myThread).vec
  writeG d (((v.active m).foldl (fun x i => x + v.lane a i) (0 : BitVec 32)).signExtend 64)

/-- The meaning of `vrsum`. -/
def execVrsum (d a : Reg) (m : BitVec 3) (s : State) : Host.Outcome State Fault Refusal := finish (doVrsum d a m 4) s

/-- A partial result of the tree: its value and the lowest lane that feeds it. -/
abbrev Partial := Option (Nat × Nat)

/-- One combination (R45); the flags it raised are listed with its lowest lane. -/
def combine (op : Nat → Nat → Nat × Nat) : Partial → Partial → Partial × List (Nat × Nat)
  | some (x, i), some (y, j) => let r := op x y; (some (r.1, min i j), [(min i j, r.2)])
  | some p, none => (some p, [])
  | none, q => (q, [])

/-- One level of the tree. -/
def treeLevel (op : Nat → Nat → Nat × Nat) : List Partial → List Partial × List (Nat × Nat)
  | x :: y :: rest =>
    let c := combine op x y
    let r := treeLevel op rest
    (c.1 :: r.1, c.2 ++ r.2)
  | l => (l, [])

/-- The whole tree, `fuel` levels. -/
def tree (op : Nat → Nat → Nat × Nat) : Nat → List Partial → List (Nat × Nat) → Partial × List (Nat × Nat)
  | 0, l, fs => (l.headD none, fs)
  | fuel + 1, l, fs =>
    if l.length ≤ 1 then (l.headD none, fs)
    else let r := treeLevel op l; tree op fuel r.1 (fs ++ r.2)

/-- A pairwise-tree reduction of the active lanes (R45): FP32 in g[d]. -/
def formTree (d a : Reg) (m : BitVec 3) (len : Nat) (empty : Nat) (op : Ctrl → Nat → Nat → Nat × Nat) : M Unit :=
  straight len do
    checkDest d
    let v := (← myThread).vec
    let c ← sampleFpc
    let lanes := (List.range v.vlen).map fun i =>
      if (v.mask m).getLsbD i then some ((v.lane a i).toNat, i) else none
    let (r, fs) := tree (op c) 8 lanes []
    writeG d (BitVec.ofNat 64 (match r with | some (x, _) => x | none => empty))
    let all := fs.foldl (fun x p => x ||| p.2) 0
    raiseFlags all true fun en =>
      let ls := (fs.filter fun p => p.2 &&& en != 0).map (·.1)
      ls.foldl min (ls.headD 0)

/-- VFRSUM (R45). -/
def doVfrsum (d a : Reg) (m : BitVec 3) (len : Nat) : M Unit := formTree d a m len 0 fun c x y => fAdd .fp32 c x y

/-- The meaning of `vfrsum`. -/
def execVfrsum (d a : Reg) (m : BitVec 3) (s : State) : Host.Outcome State Fault Refusal := finish (doVfrsum d a m 4) s

/-- VFRMAX (R45). -/
def doVfrmax (d a : Reg) (m : BitVec 3) (len : Nat) : M Unit :=
  formTree d a m len 0xFF800000 fun c x y => fMinMax .fp32 c true x y

/-- The meaning of `vfrmax`. -/
def execVfrmax (d a : Reg) (m : BitVec 3) (s : State) : Host.Outcome State Fault Refusal := finish (doVfrmax d a m 4) s

/-! ## Masks (R224) -/

/-- MAND (R224). -/
def doMand (d a b : BitVec 3) (len : Nat) : M Unit := straight len (modVec fun v => v.setMask d (v.mask a &&& v.mask b))

/-- The meaning of `mand`. -/
def execMand (d a b : BitVec 3) (s : State) : Host.Outcome State Fault Refusal := finish (doMand d a b 4) s

/-- MOR (R224). -/
def doMor (d a b : BitVec 3) (len : Nat) : M Unit := straight len (modVec fun v => v.setMask d (v.mask a ||| v.mask b))

/-- The meaning of `mor`. -/
def execMor (d a b : BitVec 3) (s : State) : Host.Outcome State Fault Refusal := finish (doMor d a b 4) s

/-- MNOT (R224). -/
def doMnot (d a : BitVec 3) (len : Nat) : M Unit := straight len (modVec fun v => v.setMask d (~~~(v.mask a)))

/-- The meaning of `mnot`. -/
def execMnot (d a : BitVec 3) (s : State) : Host.Outcome State Fault Refusal := finish (doMnot d a 4) s

/-- MPOP (R224). -/
def doMpop (d : Reg) (a : BitVec 3) (len : Nat) : M Unit := straight len do
  checkDest d
  let v := (← myThread).vec
  writeG d (BitVec.ofNat 64 (v.active a).length)

/-- The meaning of `mpop`. -/
def execMpop (d : Reg) (a : BitVec 3) (s : State) : Host.Outcome State Fault Refusal := finish (doMpop d a 4) s

/-- MSET (R224). -/
def doMset (d : BitVec 3) (a : Reg) (len : Nat) : M Unit := straight len do
  let x ← readP a
  modVec fun v => v.setMask d (maskOf ((List.range v.vlen).filter fun i => decide (i < x.toNat)))

/-- The meaning of `mset`. -/
def execMset (d : BitVec 3) (a : Reg) (s : State) : Host.Outcome State Fault Refusal := finish (doMset d a 4) s

end Sys2Proof.Machine
end

