-- ==== Sys2Proof/Machine/Weave.lean ====
section
/-! DEFINITION. The weave array and the stake store (R41 to R43, R235 to R257). -/

namespace Sys2Proof.Machine

/-! ## Long accumulators (R41 to R43) -/

/-- Exponent of bit 0 of an accumulator. -/
def accUnit : Int := -330

/-- A sum of exact products: the integer in units of 2^-330, and the special values met. -/
structure Sum where
  v : Int := 0
  nan : Bool := false
  pinf : Bool := false
  ninf : Bool := false
  deriving DecidableEq, Repr

/-- Adds a product to a sum (R41). -/
def Sum.add (s : Sum) (p : Val) : Sum :=
  match p with
  | .nan _ => { s with nan := true }
  | .inf neg => if neg then { s with ninf := true } else { s with pinf := true }
  | .fin neg m e =>
    let x : Int := (m * 2 ^ (e - accUnit).toNat : Nat)
    { s with v := if neg then s.v - x else s.v + x }

/-- Adds a sum to an accumulator; answers whether it saturated (R41). -/
def Acc.add (a : Acc) (s : Sum) : Acc × Bool :=
  if a.side = 3 then (a, false)
  else if s.nan || (s.pinf && s.ninf) then ({ a with side := 3 }, false)
  else if s.pinf then ({ a with side := if a.side = 2 then 3 else 1 }, false)
  else if s.ninf then ({ a with side := if a.side = 1 then 3 else 2 }, false)
  else if a.side ≠ 0 then (a, false)
  else
    let x := a.v.toInt + s.v
    let hi : Int := (2 ^ 639 : Nat) - 1
    let lo : Int := -(2 ^ 639 : Nat)
    if hi < x then ({ a with v := BitVec.ofInt 640 hi }, true)
    else if x < lo then ({ a with v := BitVec.ofInt 640 lo }, true)
    else ({ a with v := BitVec.ofInt 640 x }, false)

/-- The value of an accumulator; an exact zero is +0 (R43). -/
def Acc.val (a : Acc) : Val :=
  match a.side.toNat with
  | 0 => .fin (a.v.toInt < 0) a.v.toInt.natAbs accUnit
  | 1 => .inf false
  | 2 => .inf true
  | _ => .nan false

/-- Readout of an accumulator into a lane (R43, R254): bits and flags. -/
def Acc.readout (a : Acc) (c : Ctrl) : Readout → Nat × Nat
  | .f32 => Fmt.fp32.ofVal c a.val
  | .bf => let r := Fmt.bf16.ofVal c a.val; ((widen .bf16 r.1).1, r.2)
  | .e4 => let r := Fmt.e4m3.ofVal c a.val; ((widen .e4m3 r.1).1, r.2)
  | .i32 => toInt 32 c.rm a.val

/-- The 96 bytes of an accumulator in memory (R42). -/
def Acc.image (a : Acc) : List Byte := leBytes 80 a.v.toNat ++ leBytes 16 a.side.toNat

/-- An accumulator from its 96 bytes; `none` where a bit that R42 requires to be zero is set. -/
def accOf (bs : List Byte) : Option Acc :=
  let hi := bytesAt bs 80 16
  if hi < 4 then some { v := BitVec.ofNat 640 (bytesAt bs 0 80), side := BitVec.ofNat 2 hi } else none

/-! ## The array's tables -/

/-- Key of an accumulator. -/
def accKey (tile : Bool) (row col : Nat) : Nat := (if tile then 4096 else 0) + row * 128 + col

/-- Key of a slab: core, column of its slice, slab. -/
def slabKey (core col slab : Nat) : Nat := core * 2048 + col * 128 + slab

/-- A slab. -/
def Weave.slab (w : Weave) (core col slab : Nat) : Slab := w.slabs.get (slabKey core col slab) {}

/-- Changes a cluster's array. -/
def modWeave (cl : Nat) (f : Weave → Weave) : M Unit := modCluster cl fun c => { c with weave := f c.weave }

/-- A cluster's array. -/
def getWeave (cl : Nat) : M Weave := do return (← getCluster cl).weave

/-- Changes a slab. -/
def Weave.modSlab (w : Weave) (key : Nat) (f : Slab → Slab) : Weave := { w with slabs := w.slabs.put key (f (w.slabs.get key {})) }

/-- State code of a slab (R239). -/
def Slab.code (x : Slab) : Nat :=
  if x.loads ≠ 0 then 1 else match x.st with | .empty => 0 | .valid => 2 | .lost => 3

/-- The report that a drop record raises (R252): cause and subcode. -/
def reportCause (code : Nat) : Cause := if code = Cause.memabort.code then .memabort else if code = Cause.pipe.code then .pipe else .blost

/-- Wakes the threads of a cluster that are parked GANG. -/
def wakeGang (cl : Nat) : M Unit :=
  modify fun s =>
    let f := fun (kt : Nat × Thread) => if kt.1 / 64 == cl then (kt.1, kt.2.wakeIf fun r => r == .gang) else kt
    { s with threads := s.threads.map f }

/-! ## Loading slabs (R244, R245) -/

/-- First slab, first column, and the numbers of slabs and columns of a BLOAD. -/
def bloadRange (word : Word) (r : Shape) : Nat × Nat × Nat × Nat :=
  (bits word 6 0, bits word 11 8, r.t 0 / kdOf r.fmt, r.t 1)

/-- Keys of the slabs of a BLOAD, in column-then-slab order. -/
def bloadKeys (core : Nat) (word : Word) (r : Shape) : List Nat :=
  let (s0, c0, ns, nc) := bloadRange word r
  (List.range nc).flatMap fun i => (List.range ns).map fun t => slabKey core (c0 + i) (s0 + t)

/-- The SHAPE checks of BLOAD (R241). -/
def bloadChecks (word : Word) (korg rorg : Nat) (r : Shape) : List (Nat × Nat × Bool) :=
  let kd := kdOf r.fmt
  let (s0, c0, ns, nc) := bloadRange word r
  [(0, r.addr, r.reserved || bits word 7 7 != 0 || bits word 63 12 != 0),
   (1, r.addr, kd == 0),
   (2, r.addr, r.zero),
   (3, r.addr, r.t 0 % kd != 0 || decide (128 < s0 + ns) || decide (16 < c0 + nc)),
   (4, r.addr, r.unaligned kd korg),
   (5, r.addr, match regionOf r.va with | some x => x == 2 || decide (3 < x) | none => false),
   (6, r.addr, r.tight),
   (7, r.addr, r.beyond korg rorg)]

/-- BLOAD at issue (R244). -/
def doBload (d a b : Reg) (len : Nat) : M Unit := straight len do
  let o ← readP d
  let x ← readP a
  let word ← readP b
  let org ← readP (b + 1)
  forbidCollecting
  remoteScope (← me) do
    let k ← me
    let cl := k / 64
    let core := k / 8 % 8
    let obj ← checkObject o
    let r ← readShape x
    checkFat (fun _ => true) r.base (BitVec.ofNat 64 r.addr)
    shapeChecks (bloadChecks word (bits org 31 0) (bits org 63 32) r)
    release k (← scopeOf obj)
    let w ← getWeave cl
    let gathering := w.arrivals.any fun a => a.thread / 8 == k / 8
    modWeave cl fun w => (bloadKeys core word r).foldl
      (fun w key => w.modSlab key fun x => { x with loads := x.loads + 1, loadFmt := r.fmt }) w
    fork (.bload word org r.raw (if gathering then w.nextId + 1 else w.nextId)) obj 4

/-- The meaning of `bload`. -/
def execBload (d a b : Reg) (s : State) : Host.Outcome State Fault Refusal := finish (doBload d a b 4) s

/-- What a slab's side record and contents come from: for each part its address and length, in address order, and whether
its bytes must be zero (R39, R40, R242). `pos`: the first dense position of the slab in the row. -/
def slabParts (fmt row pos : Nat) : List (Nat × Nat × Bool) :=
  match fmt with
  | 0x02 => [(row + 2 * pos, 256, false)]
  | 0x08 =>
    let sb := row + pos / 16384 * 8704
    let e := pos % 16384
    [(sb, 4, false), (sb + 4 + e / 64, 8, false), (sb + 260, 252, true), (sb + 512 + e / 2, 256, false)]
  | 0x09 | 0x0A | 0x0B => [(row + pos / 224 * 128, 256, false)]
  | _ => [(row + pos, 256, false)]

/-- Reads one slab; a byte that must be zero and is not raises FORMAT PAD (R242). -/
def readSlab (g : Agent) (fmt row pos : Nat) : M Slab := do
  let parts ← (slabParts fmt row pos).mapM fun p => do
    let bs ← readVa g (p.1 % 2 ^ 52) p.2.1
    if p.2.2 then
      match bs.zipIdx.find? fun b => b.1 != 0 with
      | some (_, i) => trap .format 6 (BitVec.ofNat 64 ((p.1 + i) % 2 ^ 52))
      | none => pure ()
    return bs
  match fmt, parts with
  | 0x08, [sup, blocks, _, codes] => return { st := .valid, fmt := fmt, data := codes, sup := leNat sup, blocks := blocks }
  | _, bs :: _ =>
    if fmt = 0x09 || fmt = 0x0A || fmt = 0x0B then
      match [14, 15, 142, 143].find? fun i => bs.getD i 0 != 0 with
      | some i => trap .format 6 (BitVec.ofNat 64 ((row + pos / 224 * 128 + i) % 2 ^ 52))
      | none => pure ()
    return { st := .valid, fmt := fmt, data := bs }
  | _, _ => return {}

/-- The slab reads of a BLOAD in column-then-slab order: key, row and first dense position. -/
def bloadReads (core : Nat) (word org : Word) (r : Shape) : List (Nat × Nat × Nat) :=
  let (s0, c0, ns, nc) := bloadRange word r
  (List.range nc).flatMap fun i => (List.range ns).map fun t =>
    (slabKey core (c0 + i) (s0 + t), r.va + (bits org 63 32 + i) * r.s 0, bits org 31 0 + t * kdOf r.fmt)

/-- Whether a BLOAD may write its slabs: no earlier BLOAD of the core to one of them is outstanding, no gang operation that
joined before it issued has still to finish with one of them, and none that its core had arrived at before and that may name
one of them still gathers, since that operation never uses this BLOAD's contents (R239, R245; log entry 86). -/
def bloadReady (s : State) (e : Engine) (word : Word) (r : Shape) (before : Nat) : Bool :=
  let core := e.thread / 8 % 8
  let w := (s.cluster (e.thread / 64)).weave
  let keys := bloadKeys core word r
  let earlier := s.engines.any fun x => decide (x.id < e.id) && x.thread / 8 == e.thread / 8 &&
    (match x.op with
     | .bload wd _ rec' _ => (bloadKeys core wd (shapeOf 0 rec')).any keys.contains
     | _ => false)
  let uses := fun (g : GangOp) => decide (g.id < before) && keys.any fun k =>
    decide (g.slab + g.t ≤ k % 128) && decide (k % 128 < g.slab + g.nstep)
  let gathers := fun (a : Arrival) => a.thread / 8 == e.thread / 8 && keys.any fun k =>
    decide (bits a.gb 6 0 ≤ k % 128) && (a.shaped || decide (k % 128 < bits a.gb 6 0 + bits a.gb 15 8))
  !earlier && !(w.queue.any uses) && !((w.checked.map fun c => uses c.1).getD false)
    && !(decide (w.nextId < before) && w.arrivals.any gathers)

/-- BLOAD_COMPLETE (R239, R244): every slab is written, or none. -/
def bloadDone (e : Engine) : M (Option Trap) := do
  match e.op with
  | .bload word org record before =>
    let r := shapeOf 0 record
    let cl := e.thread / 64
    let core := e.thread / 8 % 8
    if !bloadReady (← get) e word r before || !(← get).boot.rdymem.getLsbD (8 + dieOf (e.thread / 8)) then throw .stall
    let reads := bloadReads core word org r
    let read ← attempt (reads.mapM fun p => do return (p.1, ← readSlab e.agent r.fmt p.2.1 p.2.2))
    match read with
    | .ok slabs =>
      modWeave cl fun w => slabs.foldl
        (fun w p => w.modSlab p.1 fun x => { p.2 with loads := x.loads - 1, loadFmt := x.loadFmt }) w
      return none
    | .error t =>
      modWeave cl fun w => reads.foldl
        (fun w p => w.modSlab p.1 fun x => { x with st := .empty, loads := x.loads - 1 }) w
      let record := (t.cause.code + t.sub % 128 * 2 ^ 8 + 2 ^ 15, t.faddr.toNat % 2 ^ 52)
      modWeave cl fun w => { w with bfault := w.bfault.put core record }
      return some t
  | _ => return none

/-- The meaning of `bloadComplete`. -/
def execBloadComplete (k : Nat) (s : State) : Host.Outcome State Fault Refusal :=
  engineEvent k (fun op => match op with | .bload _ _ _ _ => true | _ => false)
    (engineRun k true bloadDone fun _ => pure ()) s

/-! ## Gang issue (R246, R249) -/

/-- Whether a weave word sets a reserved bit. -/
def weaveReserved (b : Word) : Bool := bits b 7 7 != 0 || bits b 31 27 != 0 || bits b 47 38 != 0

/-- The operation that MWEAVE's operands describe, with its SHAPE checks, whose FADDR is g[a] (R241). -/
def weaveOp (a : Arrival) (size id : Nat) : GangOp × List (Nat × Nat × Bool) :=
  let b := a.gb
  let afmt := fmtOf a.ga
  let bfmt := bits b 37 32
  let va := vaOf a.ga
  let fa := a.ga.toNat
  let nstep := bits b 15 8
  let nrow := bits b 26 21
  let stride := bits b 63 48
  let row := nstep * aStep afmt bfmt
  let off := va % 2 ^ 44
  let op : GangOp :=
    { id := id, tile := a.tile, setMode := a.setMode, ctx := a.ctx, slab := bits b 6 0, nstep := nstep, row0 := bits b 20 16,
      nrow := nrow, afmt := afmt, bfmt := bfmt, abase := off, astride := stride, threads := [] }
  (op,
   [(0, fa, weaveReserved b), (1, fa, !pairOk afmt bfmt), (2, fa, nstep == 0 || nrow == 0),
    (3, fa, decide (128 < op.slab + nstep) || decide (32 < op.row0 + nrow)), (4, fa, va % 64 != 0 || stride % 64 != 0),
    (5, fa, regionOf va != some 1), (6, fa, decide (stride < row) && decide (1 < nrow)),
    (7, fa, decide (size < off + (nrow - 1) * stride + row))])

/-- The operation that MWEAVES's operands and record describe, with its SHAPE checks (R241, R249). -/
def weavesOp (a : Arrival) (r : Shape) (size id : Nat) : GangOp × List (Nat × Nat × Bool) :=
  let b := a.gb
  let bfmt := bits b 37 32
  let kd := kdOf bfmt
  let korg := bits a.gd 31 0
  let rorg := bits a.gd 63 32
  let es := elemBytes r.fmt
  let nstep := r.t 0 / kd
  let off := r.va % 2 ^ 44 + rorg * r.s 0 + korg * es
  let op : GangOp :=
    { id := id, tile := a.tile, setMode := a.setMode, ctx := a.ctx, slab := bits b 6 0, nstep := nstep, row0 := bits b 20 16,
      nrow := r.t 1, afmt := r.fmt, bfmt := bfmt, abase := off, astride := r.s 0, threads := [] }
  (op,
   [(0, r.addr, weaveReserved b || bits b 15 8 != 0 || bits b 26 21 != 0 || bits b 63 48 != 0 || r.reserved),
    (1, r.addr, !pairOk r.fmt bfmt), (2, r.addr, r.zero),
    (3, r.addr, r.t 0 % kd != 0 || decide (128 < op.slab + nstep) || decide (32 < op.row0 + r.t 1)),
    (4, r.addr, r.unaligned kd korg), (5, r.addr, regionOf r.va != some 1), (6, r.addr, r.tight),
    (7, r.addr, r.beyond korg rorg || decide (size < off + (r.t 1 - 1) * r.s 0 + nstep * kd * es))])

/-- Every slab of an operation's range, in slab-then-column order: slab, column 0 to 127. -/
def GangOp.range (g : GangOp) : List (Nat × Nat) :=
  (List.range g.nstep).flatMap fun t => (List.range 128).map fun j => (g.slab + t, j)

/-- A slab by its column of the array. -/
def Weave.column (w : Weave) (j slab : Nat) : Slab := w.slab (j / 16) (j % 16) slab

/-- SLABFMT, then BLOST (R241, R242, R246). -/
def checkSlabs (w : Weave) (g : GangOp) (va : Nat) : M Unit := do
  if g.range.any fun p =>
      let x := w.column p.2 p.1
      if x.loads ≠ 0 then x.loadFmt != g.bfmt else x.st == .valid && x.fmt != g.bfmt then
    trap .format 5 (BitVec.ofNat 64 va) (BitVec.ofNat 64 g.bfmt)
  match g.range.find? fun p => let x := w.column p.2 p.1; x.loads == 0 && x.st != .valid with
  | some (s, j) => trap .blost (if (w.column j s).st = .empty then 1 else 0) 0 (BitVec.ofNat 64 (s + j * 2 ^ 7))
  | none => pure ()

/-- The checks of R241 on the common operands, made for core 0 of the cluster (R246). -/
def checkGang (cl : Nat) (a : Arrival) : M GangOp := asThread a.thread do
  let size := clsSize (← getCore (cl * 8)).regs
  let id := (← getWeave cl).nextId
  let fa := BitVec.ofNat 64 (vaOf a.ga)
  let (op, checks) ← if a.shaped then (do
      let r ← readShape a.ga
      checkFat (fun _ => true) r.base fa
      pure (weavesOp a r size id))
    else (do
      checkFat (fun c => c == 2 || c == 4 || c == 5 || c == 6) a.ga fa
      pure (weaveOp a size id))
  shapeChecks checks
  checkSlabs (← getWeave cl) op (vaOf a.ga)
  return op

/-- Ends a gathering with a trap in every arrived thread, once their ALLOCs are served (R81); the issuing one takes it as its own
(R246, R247). -/
def gangFails {α : Type} (cl : Nat) (arr : List Arrival) (t : Trap) : M α := do
  arr.forM fun a => settleAllocs a.thread
  modWeave cl fun w => { w with arrivals := [], nextId := w.nextId + 1 }
  let k ← me
  arr.forM fun a => if a.thread = k then pure () else trapOther a.thread t
  wakeGang cl
  throw (.trap t)

/-- A thread whose operation has joined completes its gang instruction. -/
def finishArrival (a : Arrival) : M Unit :=
  modThread a.thread fun t => { t.wakeIf (fun r => r == .gang) with pc := after t.pc a.len }

/-- Whether two arrivals agree (R246). -/
def Arrival.agrees (a b : Arrival) : Bool :=
  a.shaped == b.shaped && a.tile == b.tile && a.setMode == b.setMode && a.ctx == b.ctx && a.ga == b.ga && a.gb == b.gb
    && (!a.shaped || a.gd == b.gd)

/-- Bits of the cores whose operands differ from core 0's. -/
def mismatchBits (arr : List Arrival) (a0 : Arrival) : Nat :=
  arr.foldl (fun x a => if a.agrees a0 then x else x + 2 ^ (a.thread / 8 % 8)) 0

/-- The eight arrivals are compared and checked, and the operation joins the queue (R246). -/
def gather (cl : Nat) : M Unit := do
  let w ← getWeave cl
  let arr := w.arrivals
  let a0 := (arr.find? fun a => a.thread / 8 % 8 == 0).getD (arr.headD default')
  let diff := mismatchBits arr a0
  if diff ≠ 0 then gangFails cl arr { cause := .gang, sub := 0, finfo := BitVec.ofNat 64 diff }
  let k ← me
  match ← remoteScope a0.thread (attempt (checkGang cl a0)) with
  | .error t => gangFails cl arr t
  | .ok op =>
    let op := { op with threads := arr.map Arrival.thread }
    modWeave cl fun w => { w with arrivals := [], nextId := w.nextId + 1 }
    if w.queue.length < 4 && w.checked.isNone then
      modWeave cl fun w => { w with queue := w.queue ++ [op] }
      arr.forM fun a => if a.thread = k then pure () else finishArrival a
      wakeGang cl
    else
      modWeave cl fun w => { w with checked := some (op, arr) }
      park .gang
where
  default' : Arrival :=
    { thread := 0, len := 4, shaped := false, tile := false, setMode := false, ctx := 0, ga := 0, gb := 0, gd := 0 }

/-- An arrival at the wired barrier (R246). -/
def gangIssue (a : Arrival) : M Unit := do
  let k := a.thread
  let cl := k / 64
  let w ← getWeave cl
  let waits := (w.checked.map fun c => c.2.any fun x => x.thread / 8 == k / 8).getD false
  if waits then park .gang
  match w.arrivals.find? fun x => x.thread / 8 == k / 8 with
  | some x => if x.thread ≠ k then park .gang
  | none =>
    release k .cluster
    modWeave cl fun w => { w with arrivals := w.arrivals ++ [a] }
  if (← getWeave cl).arrivals.length < 8 then park .gang
  gather cl

/-- MWEAVE (R246, R249). -/
def doMweave (a b : Reg) (c set : Bool) (len : Nat) : M Unit := straight len do
  let x ← readP a
  let y ← readP b
  forbidCollecting
  gangIssue { thread := ← me, len := len, shaped := false, tile := c, setMode := set,
              ctx := (← myThread).kern.ctxid.toNat, ga := x, gb := y, gd := 0 }

/-- The meaning of `mweave`. -/
def execMweave (a b : Reg) (c set : Bool) (s : State) : Host.Outcome State Fault Refusal := finish (doMweave a b c set 4) s

/-- MWEAVES (R246, R249). -/
def doMweaves (d a b : Reg) (c set : Bool) (len : Nat) : M Unit := straight len do
  let z ← readP d
  let x ← readP a
  let y ← readP b
  forbidCollecting
  gangIssue { thread := ← me, len := len, shaped := true, tile := c, setMode := set,
              ctx := (← myThread).kern.ctxid.toNat, ga := x, gb := y, gd := z }

/-- The meaning of `mweaves`. -/
def execMweaves (d a b : Reg) (c set : Bool) (s : State) : Host.Outcome State Fault Refusal :=
  finish (doMweaves d a b c set 4) s

/-- The arrivals of a cluster are withdrawn; each thread issues its instruction again (R247). -/
def withdrawArrivals (cl : Nat) : M Unit := modWeave cl fun w => { w with arrivals := [], nextId := w.nextId + 1 }

/-- A core of the cluster is killed (R247): every arrived thread of another core raises PEERLOST. -/
def gangPeerLost (cl who : Nat) : M Unit := do
  let w ← getWeave cl
  if !w.arrivals.isEmpty then
    withdrawArrivals cl
    (w.arrivals.filter fun a => a.thread / 8 != who).forM fun a => trapOther a.thread { cause := .gang, sub := 1 }
    wakeGang cl

/-! ## The sequencer (R247, R248, R252) -/

/-- A checked operation joins when a place is free (R246). -/
def takeOp (cl : Nat) : M Unit := do
  let w ← getWeave cl
  match w.checked with
  | some (op, arr) =>
    if w.queue.length < 4 then
      modWeave cl fun w => { w with queue := w.queue ++ [op], checked := none }
      arr.forM finishArrival
  | none => pure ()

/-- Whether a gang-stop holds the sequencer of a cluster: once every BLOAD there has completed (R251; log entry 85). -/
def State.weaveHeld (s : State) (cl : Nat) (op : GangOp) : Bool :=
  s.ctxHalted op.ctx && !s.engines.any fun e =>
    e.thread / 64 == cl && (match e.op with | .bload _ _ _ _ => true | _ => false)

/-- SEQUENCER_TAKE (R247): the head of the queue runs. -/
def execSequencerTake (cl : Nat) (s : State) : Host.Outcome State Fault Refusal :=
  match (s.cluster cl).weave.queue with
  | op :: rest =>
    if op.st = .queued && !s.weaveHeld cl op then
      let c := s.cluster cl
      .next (s.setCluster cl { c with weave := { c.weave with queue := { op with st := .running } :: rest } })
    else .next s
  | [] => .next s

/-- Drops the running operation (R252). -/
def dropOp (cl : Nat) (op : GangOp) (cause : Cause) (sub : Nat) : M Unit := do
  let w ← getWeave cl
  let same := w.queue.filter fun g => g.tile == op.tile && g.id != op.id
  let rec0 := op.t + op.r * 2 ^ 8 + same.length * 2 ^ 13 + cause.code * 2 ^ 16 + sub * 2 ^ 24 + 2 ^ 31
  modWeave cl fun w => { w with
    queue := w.queue.filter fun g => g.tile != op.tile
    drop0 := if op.tile then w.drop0 else rec0
    drop1 := if op.tile then rec0 else w.drop1
    armed := (w.armed ++ (List.range 8).map fun n => (if op.tile then 8 else 0) + n).eraseDups }
  takeOp cl
  wakeGang cl

/-- An 8-bit integer as an exact value. -/
def int8Val (x : Nat) : Val := let v := (BitVec.ofNat 8 x).toInt; .fin (v < 0) v.natAbs 0

/-- An A element at a dense position of a row (R237, R248). -/
def aValue (fmt : Nat) (row : List Byte) (n : Nat) : Val :=
  match fmt with
  | 0x02 => Fmt.bf16.val (bytesAt row (2 * n) 2)
  | 0x04 => Fmt.e4m3.val (bytesAt row n 1)
  | 0x05 => Fmt.e5m2.val (bytesAt row n 1)
  | _ => int8Val (bytesAt row n 1)

/-- Base format of a sparse format. -/
def baseFmt (fmt : Nat) : Nat := match fmt with | 0x09 => 0x04 | 0x0A => 0x05 | 0x0B => 0x06 | f => f

/-- B(j, s, k) of R238; `none` at a dropped sparse position. -/
def Slab.value (x : Slab) (k : Nat) : Option Val :=
  match x.fmt with
  | 0x08 =>
    let byte := bytesAt x.data (k / 2) 1
    some (q4value x.sup (bytesAt x.blocks (k / 64) 1) (if k % 2 = 0 then byte % 16 else byte / 16)).1
  | 0x09 | 0x0A | 0x0B =>
    let line := (x.data.drop (k / 224 * 128)).take 128
    let j := k % 224 / 2
    let bit := bytesAt line (j / 8) 1 / 2 ^ (j % 8) % 2
    if k % 2 = bit then some (aValue (baseFmt x.fmt) line (16 + j)) else none
  | f => some (aValue f x.data k)

/-- The exact sum of one column's products in a row step (R248). -/
def columnSum (op : GangOp) (row : List Byte) (x : Slab) : Sum :=
  (List.range (kdOf op.bfmt)).foldl (fun s k =>
    match x.value k with
    | some b => s.add (mulVal (aValue op.afmt row k) b).1
    | none => s) {}

/-- The place of the A bytes of the current row step. -/
def aPlace (s : State) (cl : Nat) (op : GangOp) : Nat :=
  placeShared cl ((s.core (cl * 8)).regs.clsbase.toNat + op.abase + op.r * op.astride + op.t * aStep op.afmt op.bfmt)

/-- The accumulators of a row after a step, and whether one saturated. -/
def stepRow (w : Weave) (op : GangOp) (row : List Byte) : Store Acc × Bool :=
  (List.range 128).foldl (fun (acc : Store Acc × Bool) j =>
    let key := accKey op.tile (op.row0 + op.r) j
    let old := if op.t = 0 && op.setMode then {} else acc.1.get key {}
    let (a, ovf) := old.add (columnSum op row (w.column j (op.slab + op.t)))
    (acc.1.put key a, acc.2 || ovf)) (w.acc, false)

/-- Whether a BLOAD that an operation must use is outstanding on the slab of its step (R245). -/
def State.slabLoading (s : State) (cl : Nat) (op : GangOp) : Bool :=
  s.engines.any fun e =>
    match e.op with
    | .bload word _ record before =>
      e.thread / 64 == cl && decide (before ≤ op.id) &&
        (bloadKeys (e.thread / 8 % 8) word (shapeOf 0 record)).any fun key => key % 128 == op.slab + op.t
    | _ => false

/-- How many row steps of an operation are performed (R248). -/
def GangOp.performed (op : GangOp) : Nat := op.t * op.nrow + op.r

/-- How many A elements an operation has still to use (R248). -/
def GangOp.unused (op : GangOp) : Nat := (op.nstep * op.nrow - op.performed) * kdOf op.bfmt

/-- The A bytes that the current row step uses: those that were read early, and for the others what its row holds (R250). -/
def GangOp.rowOf (op : GangOp) (now : List Byte) : List Byte :=
  now.mapIdx fun i b => op.early.get (op.performed * aStep op.afmt op.bfmt + i) b

/-- The operation of a queue, with the element, that a number names among all elements still to be used. -/
def pickElement : List GangOp → Nat → Option (GangOp × Nat)
  | [], _ => none
  | op :: rest, i => if i < op.unused then some (op, i) else pickElement rest (i - op.unused)

/-- Element `i` of those that an operation has still to use is read now, before its row step (R250). -/
def readEarly (cl : Nat) (op : GangOp) (i : Nat) : M Unit := do
  let n := op.performed + i / kdOf op.bfmt
  let size := elemBytes op.afmt
  let at' := i % kdOf op.bfmt * size
  let place := aPlace (← get) cl { op with t := n / op.nrow, r := n % op.nrow } + at'
  if (← get).weaveHeld cl op || (← localWithheld place size (cl * 8) op.ctx) then pure ()
  else
    let bytes ← takeBytes place size
    let keep := fun (o : GangOp) => (List.range size).foldl (fun (e : Store Byte) b =>
      e.put (n * aStep op.afmt op.bfmt + at' + b) (bytes.getD b 0)) o.early
    modWeave cl fun w => { w with queue := w.queue.map fun o => if o.id = op.id then { o with early := keep o } else o }

/-- The sequencer may read one A element early, of any operation of its queue (R250; log entries 4 and 89); `false` where it
does not. -/
def mayReadEarly (cl : Nat) : M Bool := do
  let q := (← getWeave cl).queue
  let n ← choose ((q.map GangOp.unused).sum + 1)
  match (if n = 0 then none else pickElement q (n - 1)) with
  | some (op, i) =>
    readEarly cl op i
    return true
  | none => return false

/-- Performs the row step of the running operation (R248, R250). -/
def stepNow (cl : Nat) (op : GangOp) (rest : List GangOp) : M Unit := do
  let place := aPlace (← get) cl op
  if ← localWithheld place (aStep op.afmt op.bfmt) (cl * 8) op.ctx then dropOp cl op .memabort 0
  else
    let row ← takeBytes place (aStep op.afmt op.bfmt)
    let (acc, ovf) := stepRow (← getWeave cl) op (op.rowOf row)
    let lastRow := op.r + 1 = op.nrow
    let op' := if lastRow then { op with t := op.t + 1, r := 0, unchecked := true }
               else { op with r := op.r + 1, unchecked := false }
    let done := lastRow && op.t + 1 = op.nstep
    modWeave cl fun w => { w with acc := acc, queue := if done then rest else op' :: rest }
    if ovf then op.threads.forM raiseAccov
    if done then
      takeOp cl
      wakeGang cl

/-- ROW_STEP (R248, R250): the sequencer may read an A element early; else, at the start of a step, it waits for a slab that is
being loaded, and drops the operation on a slab that is not VALID; it performs one row step, or halts for a gang-stop
(R251). -/
def rowStep (cl : Nat) : M Unit := do
  let w ← getWeave cl
  match w.queue with
  | [] => pure ()
  | op :: rest =>
    if op.st = .queued then discard (mayReadEarly cl)
    else if op.st ≠ .running then pure ()
    else if (← get).weaveHeld cl op then modWeave cl fun w => { w with queue := { op with st := .stopped } :: rest }
    else if op.unchecked && (← get).slabLoading cl op then pure ()
    else
      let slab := op.slab + op.t
      match (if op.unchecked then (List.range 128).find? fun j => (w.column j slab).st != .valid else none) with
      | some j => dropOp cl op .blost (if (w.column j slab).st = .empty then 1 else 0)
      | none => if !(← mayReadEarly cl) then stepNow cl op rest

/-- The meaning of `rowStep`. -/
def execRowStep (cl : Nat) (s : State) : Host.Outcome State Fault Refusal :=
  match rowStep cl s with
  | .ok _ s' => .next s'
  | .error _ s' => .next s'

/-- A second checker mismatch of a row step drops the running operation (R397). -/
def weaveMismatch (cl : Nat) : M Unit := do
  match (← getWeave cl).queue with
  | op :: _ => if op.st = .running then dropOp cl op .pipe 5
  | [] => pure ()

/-! ## Tile instructions (R248, R252 to R255) -/

/-- What every tile instruction does first: the armed report, which waits for the thread's ALLOC as its trap does (R81), then
the wait for gang operations on its tile. -/
def tileReady (c : Bool) : M Unit := do
  forbidCollecting
  let k ← me
  let cl := k / 64
  let w ← getWeave cl
  let key := (if c then 8 else 0) + k / 8 % 8
  if w.armed.contains key then
    if (← get).allocating k then throw .stall
    modWeave cl fun w => { w with armed := w.armed.filter (· != key) }
    let r := if c then w.drop1 else w.drop0
    trap (reportCause (r / 2 ^ 16 % 2 ^ 8)) (r / 2 ^ 24 % 2 ^ 7) 0 (BitVec.ofNat 64 r)
  if w.queue.any fun g => g.tile == c then park .gang

/-- Key of accumulator `f` of the issuing core's slice of a tile. -/
def sliceKey (c : Bool) (core f : Nat) : Nat := accKey c (f / 16) (16 * core + f % 16)

/-- MZERO (R253). -/
def doMzero (c : Bool) (len : Nat) : M Unit := straight len do
  tileReady c
  let k ← me
  modWeave (k / 64) fun w => { w with acc := (List.range 512).foldl (fun st f => st.del (sliceKey c (k / 8 % 8) f)) w.acc }

/-- The meaning of `mzero`. -/
def execMzero (c : Bool) (s : State) : Host.Outcome State Fault Refusal := finish (doMzero c 4) s

/-- MREAD (R254). -/
def doMread (d a : Reg) (c : Bool) (m : Readout) (len : Nat) : M Unit := straight len do
  let x ← readP a
  tileReady c
  let k ← me
  let v := (← myThread).vec
  let w ← getWeave (k / 64)
  let ctl ← sampleFpc
  let rs := (List.range v.vlen).map fun i =>
    let f := bits x 8 0 + i
    if f ≥ 512 then (i, 0, 0)
    else (i, (w.acc.get (sliceKey c (k / 8 % 8) f) {}).readout ctl m)
  modVec fun v => v.setLanes d (rs.map fun r => (r.1, BitVec.ofNat 32 r.2.1))
  raiseLanes (rs.map fun r => (r.1, r.2.2))

/-- The meaning of `mread`. -/
def execMread (d a : Reg) (c : Bool) (m : Readout) (s : State) : Host.Outcome State Fault Refusal := finish (doMread d a c m 4) s

/-- Checks the pages of an image (R255). -/
def checkImage (va : Nat) (store : Bool) : M (List (Nat × Nat × Where)) := do
  let fi := accessInfo 0 store false 3 false false
  if va % 64 ≠ 0 then trap .misalign 0 (BitVec.ofNat 64 va) fi
  let v ← myView
  let vec := (← myThread).vec
  let ps ← (pieces va 49152).mapM fun p => do
    let fa := BitVec.ofNat 64 p.1
    match regionOf p.1 with
    | some r => if r = 2 || (r = 4 && !store) then trap .page 0x10 fa fi
    | none => pure ()
    return (p.1, p.2, ← resolve v vec p.1 p.2 { w := store } store .thru false fa fi)
  if store then
    ps.forM fun p => match p.2.2 with
      | .mem pa _ => do if !(← get).hasMemory pa then trap .memabort 2 (BitVec.ofNat 64 p.1) fi
      | _ => pure ()
  return ps

/-- MSAVE (R255). -/
def doMsave (a : Reg) (c : Bool) (len : Nat) : M Unit := straight len do
  let x ← readP a
  tileReady c
  let k ← me
  let v ← myView
  remoteScope k do
    let ps ← checkImage (vaOf x) true
    let w ← getWeave (k / 64)
    let bs := (List.range 512).flatMap fun f => (w.acc.get (sliceKey c (k / 8 % 8) f) {}).image
    let _ ← ps.foldlM (fun (rest : List Byte) p => do
      storeAt k v p.2.2 p.1 p.2.1 .thru (leNat (rest.take p.2.1)) false (BitVec.ofNat 64 p.1)
        (accessInfo 0 true false 3 false false)
      return rest.drop p.2.1) bs

/-- The meaning of `msave`. -/
def execMsave (a : Reg) (c : Bool) (s : State) : Host.Outcome State Fault Refusal := finish (doMsave a c 4) s

/-- Cuts an image into accumulators; `none` where one breaks R42. -/
def imageAccs : Nat → List Byte → Option (List Acc)
  | 0, _ => some []
  | n + 1, bs =>
    match accOf (bs.take 96), imageAccs n (bs.drop 96) with
    | some a, some r => some (a :: r)
    | _, _ => none

/-- MRESTORE (R255). -/
def doMrestore (a : Reg) (c : Bool) (len : Nat) : M Unit := straight len do
  let x ← readP a
  tileReady c
  let k ← me
  remoteScope k do
    let _ ← checkImage (vaOf x) false
    let bs ← readVa (← threadAgent) (vaOf x) 49152 (accessInfo 0 false false 3 false false)
    match imageAccs 512 bs with
    | none => trap .format 7 (BitVec.ofNat 64 (vaOf x))
    | some accs =>
      modWeave (k / 64) fun w => { w with
        acc := accs.zipIdx.foldl (fun st p => st.put (sliceKey c (k / 8 % 8) p.2) p.1) w.acc }

/-- The meaning of `mrestore`. -/
def execMrestore (a : Reg) (c : Bool) (s : State) : Host.Outcome State Fault Refusal := finish (doMrestore a c 4) s

/-! ## MSTAT (R256) -/

/-- MSTAT's report. -/
def weaveReport (w : Weave) (core x : Nat) : Nat :=
  match x with
  | 0 =>
    let run := match w.queue with
      | op :: _ => if op.st = .queued then 0
                   else 2 ^ 3 + (if op.tile then 2 ^ 4 else 0) + op.t * 2 ^ 5 + op.r * 2 ^ 12
      | [] => 0
    w.queue.length + run + (if w.armed.contains core then 2 ^ 17 else 0) + (if w.armed.contains (8 + core) then 2 ^ 18 else 0)
  | 1 => w.drop0
  | 2 => w.drop1
  | 3 => (w.bfault.get core (0, 0)).1
  | 4 => (w.bfault.get core (0, 0)).2
  | _ =>
    if 0x100 ≤ x && x < 0x180 then
      (List.range 16).foldl (fun v i => v + (w.slab core i (x - 0x100)).code * 2 ^ (2 * i)) 0
    else 0

/-- MSTAT (R256). -/
def doMstat (d a : Reg) (len : Nat) : M Unit := straight len do
  let x ← readP a
  checkDest d
  forbidCollecting
  let k ← me
  writeG d (BitVec.ofNat 64 (weaveReport (← getWeave (k / 64)) (k / 8 % 8) x.toNat))

/-- The meaning of `mstat`. -/
def execMstat (d a : Reg) (s : State) : Host.Outcome State Fault Refusal := finish (doMstat d a 4) s

end Sys2Proof.Machine
end

