-- ==== Sys2Proof/Machine/Contain.lean ====
section
/-! DEFINITION. Killing one core (R400 to R402, R281), isolating a die (R157), and the hardware errors that a run supplies
(R396 to R399). -/

namespace Sys2Proof.Machine

/-! ## Error messages (R281) -/

/-- Sends one error message of a killed core on its endpoint, where the channel has a slot; `false` while it must wait. One for
a device that no port reaches is lost (R391). -/
def sendError (who n : Nat) : M Bool := do
  match ((← getCore who).ep n).chan with
  | none => return true
  | some (die, num) =>
    let c := (← get).channel die num
    let bytes := leBytes 2 who ++ leBytes 6 0
    let e := (← getCore who).ep n
    match c.remote with
    | some tag =>
      let s ← get
      if (routeTo s who tag).isSome then return true
      if !s.portWorks (s.domainEntry who tag) then return false
      let dev := bits (← getDie (dieOf who)).regs.devtag 7 0
      let h := headerOf 8 false true false c.ord (some dev) c.cls who num 0 e.seq.toNat
      modEp who n fun x => { x with seq := x.seq + 1 }
      modify fun s =>
        { s with links := { s.links with
            sends := s.links.sends ++ [{ tag := tag, chan := num % 4096, header := h, bytes := bytes }] } }
      return true
    | none =>
      if c.st = .bound then return false
      else if c.st ≠ .open then return true
      else
        match ← takeSlot die num (2 ^ 40) with
        | none => return false
        | some idx =>
          deliverOn who n die num idx 8 e.lastts.toNat bytes c.ord false true 0
          return true

/-- Sends the error messages that wait, where they can go (R281). -/
def settleErrors : M Unit := do
  let waiting := (← get).errmsgs
  if !waiting.isEmpty then
    let left ← waiting.filterM fun p => do return !(← sendError p.1 p.2)
    modify fun s => { s with errmsgs := left }

/-- The first endpoint for each channel that endpoints name. -/
def oncePerChannel : List (Nat × Endpoint) → List (Nat × Endpoint)
  | [] => []
  | p :: ps => p :: (oncePerChannel ps).filter fun q => q.2.chan != p.2.chan

/-- The endpoints of a core that are open and bound, one for each channel (R281). -/
def Core.openEps (c : Core) : List (Nat × Endpoint) :=
  oncePerChannel (c.inbox.eps.filter fun p => p.2.isOpen && p.2.chan.isSome)

/-! ## The kill (R400) -/

/-- Every message in flight to a core lands in its slot (R266), after those that its endpoint sent before it (R268). -/
def landAll (who : Nat) : Nat → M Unit
  | 0 => pure ()
  | fuel + 1 => do
    let flights := (← get).flights
    match flights.find? fun fl => fl.dst == who with
    | none => pure ()
    | some fl =>
      match flights.findIdx? fun x => x == fl || (fl.ep.isSome && x.ep == fl.ep) with
      | none => pure ()
      | some i =>
        messageArrival i
        landAll who fuel

/-- The inbox is sealed: the core's channels become SEALED, their parked senders wake, PENDING messages are KILLED (R269). Those
of a launch that EVICT took from the core are not the core's while another launch holds it (R354). -/
def sealInbox (who : Nat) : M Unit := do
  let die := dieOf who
  let held := (← getCore who).held.map (·.1)
  let mine := (← getDie die).chans.filter fun c =>
    c.2.receiver == who && c.2.remote.isNone && c.2.st != .unbound && (held.isNone || held == some c.2.launch)
  mine.forM fun c => do
    modChannel die c.1 fun x => { x with st := .sealed, promised := [] }
    wakeSenders die c.1

/-- Bits of the retention block: the 64-byte units that `offs` name. -/
def unitBits (offs : List Nat) : List Byte :=
  leBytes 128 (offs.foldl (fun (n : Nat) o => n ||| 2 ^ (o / 64 % 1024)) 0)

/-- Writes bytes to physical memory line by line, as WrH. -/
def writePhys (pa : Nat) (bs : List Byte) : M Unit :=
  (pieces pa bs.length).forM fun p => do
    let o := p.1 % 64
    let part := (bs.drop (p.1 - pa)).take p.2
    let _ ← serve { kind := .wrh, src := { who := 0, ctx := 0, engine := true }, pline := p.1 / 64, mask := byteMask o p.2,
                    data := BitVec.ofNat 512 (leNat part * 2 ^ (8 * o)) }

/-- Reads bytes of physical memory in one line, as RdH; an abort reads as `none`. -/
def readPhys (pa n : Nat) : M (Option Nat) := do
  let src : Source := { who := 0, ctx := 0, engine := true }
  match ← serve { kind := .rdh, src := src, pline := pa / 64, mask := byteMask (pa % 64) n } with
  | .ok rep => return some (lineNat rep.data (pa % 64) n)
  | .error _ => return none

/-- Copies the inbox and its headers to the retention block (R401). Answers the block's address, or 0. -/
def retain (who : Nat) (held pending : List Nat) : M Nat := do
  let s ← get
  let base := bits (s.die (dieOf who)).regs.retbase 41 17 * 2 ^ 17
  if base = 0 then return 0
  else
    let block := base + who % 2048 * 0x20000
    writePhys block (← takeBytes (placeInbox who 0) 0x10000)
    let headers := (s.core who).inbox.headers
    let hdrs := (List.range 1024).flatMap fun u => leBytes 16 (headers.get (64 * u) 0).toNat
    writePhys (block + 0x10000) hdrs
    writePhys (block + 0x14000) (unitBits held ++ unitBits pending ++ List.replicate 0xBF00 0)
    return block

/-- The lists of a core are dropped (R196): a list in application is dropped at its end, and its handle is invalid at once. -/
def dropOwned (who : Nat) (p : EList → Bool) : M Unit := do
  let cl := who / 8
  (← getCluster cl).descrs.forM fun x =>
    match x.2.list with
    | some l =>
      if l.owner = who && p l then modCluster cl fun c => c.endList x.1 else pure ()
    | none => pure ()

/-- The first part of a kill: threads stop and their activations become KILLED; answers the slots they held. -/
def haltThreads (who : Nat) : M (List Nat) := do
  let mut held : List Nat := []
  for h in List.range 8 do
    let k := who * 8 + h
    let t ← getThread k
    let start := match t.act with | some a => if a.freed then [] else [a.slot.off] | none => []
    held := held ++ start ++ t.held.map fun x => x.1.off
    releaseLanes k
    dormant k
  return held

/-- Activations of a core whose lists await commit are KILLED; a commit that has begun goes on (R353, R400). -/
def dropAwaiting (who : Nat) : M (List Nat) := do
  let die := dieOf who
  let gone := (← getDie die).awaiting.filter fun w => w.who == who && w.work.isNone
  modDie die fun d => { d with awaiting := d.awaiting.filter fun w => !(w.who == who && w.work.isNone) }
  return gone.map fun w => w.act.slot.off

/-- A directory entry without a core (R157): as sharer, holder, writer or owner of words. -/
def Dir.without (d : Dir) (who : Nat) : Dir :=
  let st := match d.st with
    | .n => LineState.n
    | .s p => (p.remove who).state
    | .m x => if x = who then .n else .m x
    | .p ws => let w' := ws.filter (fun w => w.1 != who); if w'.isEmpty then .n else .p w'
  let keep := fun (o : Nat × Owner) => match o.2 with | .core c => c != who | .pin c _ => c != who
  { d with st := st, owners := d.owners.filter keep }

/-- The L1 lines of a core that is isolated are lost (R157): homes drop every entry of it. -/
def loseCore (who : Nat) : M Unit := do
  modCore who fun c => { c with l1 := [], maps := [] }
  let clean := fun (e : Nat × Dir) => if (e.2.without who).needed then some (e.1, e.2.without who) else none
  modify fun s => { s with homes := { s.homes with dir := s.homes.dir.filterMap clean } }

/-- The context of a core: that of the launch that holds it, or CTXID of its thread 0. -/
def State.coreCtx (s : State) (who : Nat) : Nat :=
  match (s.core who).held with
  | some (id, _) => ((s.launch? id).map (·.ctx)).getD 0
  | none => (s.thread (who * 8)).kern.ctxid.toNat

/-- The save block of a core of a stopped context is discarded (R353): where the core is the context's, or EVICT freed it and
nobody has bound it since. -/
def discardSave (who : Nat) : M Unit := do
  let s ← get
  let mine := fun (v : Saved) => v.who == who &&
    (match (s.core who).held with
     | some (id, _) => (match s.launch? id with | some l => l.ctx == v.ctx | none => false)
     | none => true)
  let drop := fun (v : Saved) =>
    { v with dropped := true, evicted := v.evicted.map fun e => ({ e.1 with killed := true, undeclared := true }, e.2) }
  modify fun s => { s with saved := s.saved.map fun v => if mine v && !v.dropped then drop v else v }

/-- Kills a core (R400); `cause` is the code of byte 3 of the KILLED message. -/
def killCore (who cause : Nat) (isolated : Bool) : M Unit := do
  if !(← getCore who).killed then
    let die := dieOf who
    let ctx := (← get).coreCtx who
    discardSave who
    let held ← haltThreads who
    let awaiting ← dropAwaiting who
    landAll who (← get).flights.length
    let pending := (← getCore who).inbox.pending.map fun p => p.slot.off
    modCore who fun c => { c with
      killed := true, undeclared := true, irqs := []
      inbox := { c.inbox with pending := [], waiters := [] } }
    sealInbox who
    if isolated then loseCore who
    else
      performPosted who
      flushLines who fun _ => true
      ((← getCore who).maps.map (·.ctx)).eraseDups.forM (evictMaps who)
    let block ← if isHub who then pure 0 else retain who (held ++ awaiting) pending
    let eps := (← getCore who).openEps
    modify fun s => { s with errmsgs := s.errmsgs ++ eps.map fun p => (who, p.1) }
    settleErrors
    ((← getDie die).groups.map (·.1)).forM fun g => do
      let member := ((← get).group die g).members.contains who
      if member then
        ((← get).barriersOf die g).forM fun b => do
          let st := ((← get).barrier die b).st
          if st = .idle || st = .filling then breakBarrier die b 1
      breakGroup die g who
    if !isHub who then gangPeerLost (who / 8) who
    dropOwned who fun _ => true
    modDieRegs die fun r => { r with errkill := satInc64 r.errkill }
    if !isHub who then sendSystem who die 14 (faultMessage who 0x0A cause ctx 0 block)

/-! ## KILLCORE (R356) and KILLRES (R402) -/

/-- KILLCORE. -/
def doKillcore (d a : Reg) (len : Nat) : M Unit := straight len do
  let x ← readP a
  checkDest d
  forbidCollecting
  let k ← me
  let die := dieOf (k / 8)
  let who := bits x 13 0
  release k .die
  if isHub (k / 8) then writeG d 4
  else if bits x 63 14 ≠ 0 then writeG d 3
  else if isHub who || dieOf who ≠ die || isDevKernel who then writeG d 1
  else if (← getCore who).killed then writeG d 2
  else
    killCore who 0 false
    writeG d 0

/-- The meaning of `killcore`. -/
def execKillcore (d a : Reg) (s : State) : Host.Outcome State Fault Refusal := finish (doKillcore d a 4) s

/-- Whether a core holds an undeclared kill, as it is or as EVICT saved it (R402). -/
def State.undeclared (s : State) (who : Nat) : Bool :=
  (s.core who).undeclared || s.saved.any fun v => v.who == who && v.undeclared

/-- Declares the kill of a core: its own, or the one that EVICT saved; answers the launch that held it. -/
def declareKill (who : Nat) : M (Option Nat) := do
  let s ← get
  let c := s.core who
  if c.undeclared && c.held.isSome then
    modCore who fun c => { c with undeclared := false }
    return c.held.map (·.1)
  else
    let old := (s.saved.find? fun v => v.who == who && v.undeclared).bind (·.evicted)
    modCore who fun c => { c with undeclared := false }
    modify fun s => { s with saved := s.saved.map fun v => if v.who == who && v.undeclared then
      { v with evicted := v.evicted.map fun e => ({ e.1 with undeclared := false }, e.2) } else v }
    return old.bind fun e => e.1.held.map (·.1)

/-- A CRW to KILLRES: the declaration, or nothing (R402). -/
def writeKillres (die : Nat) (v : Word) : M Unit := do
  let who := bits v 13 0
  if bits v 15 14 ≠ 0 || bits v 63 17 ≠ 0 || isHub who || dieOf who ≠ die || !(← get).undeclared who then
    modDieRegs die fun r => { r with killres := 0 }
  else
    modDieRegs die fun r => { r with killres := v }
    match ← declareKill who with
    | some id => if !v.getLsbD 16 then failLaunch id false
    | none => pure ()

/-- The meaning of `killresWrite`. -/
def execKillresWrite (t : Nat) (v : Word) (s : State) : Host.Outcome State Fault Refusal :=
  finish (writeKillres (dieOf (t / 8)) v) s

/-! ## Isolation (R157) -/

/-- The device-kernel cores of the dies that are reachable. -/
def State.reachable (s : State) : List Nat := (List.range 4).filter fun d => !(s.die d).isolated

/-- A sharer set without the marks of the cores that satisfy a test; beyond 4 sharers the test is asked of core 0 of each
cluster (R143, R157). -/
def Sharers.without (p : Sharers) (gone : Nat → Bool) : LineState :=
  match p with
  | .exact l => Sharers.state (.exact (l.filter fun w => !gone w))
  | .coarse cs hubs =>
    let cs' := (List.range 1024).foldl (fun m c => if gone (c * 8) then m &&& ~~~((1 : BitVec 1024) <<< c) else m) cs
    let hubs' := hubs && !gone 0x2000
    if cs' = 0 && !hubs' then .n else .s (.coarse cs' hubs')

/-- Homes that satisfy `at'` drop the sharer marks of cores that are gone, take their outstanding acknowledgements as
received without their bytes, and complete the requests that waited (R157). -/
def forgetCores (at' : Nat → Bool) (gone : Nat → Bool) : M Unit := do
  let mark := fun (e : Nat × Dir) =>
    match e.2.st with
    | .s p => if at' e.1 then (e.1, { e.2 with st := p.without gone }) else e
    | _ => e
  modify fun s => { s with homes := { s.homes with dir := (s.homes.dir.map mark).filter fun e => e.2.needed } }
  let h := (← get).homes
  let lines := ((h.invals.filter fun i => at' i.pline && gone i.core).map (·.pline) ++
    (h.acks.filter fun a => at' a.pline && gone a.core).map (·.pline)).eraseDups
  modify fun s => { s with homes := { s.homes with
    invals := s.homes.invals.filter fun i => !(at' i.pline && gone i.core)
    acks := s.homes.acks.filter fun a => !(at' a.pline && gone a.core) } }
  lines.forM fun p => do
    let h := (← get).homes
    if !(h.invals.any (·.pline == p) || h.acks.any (·.pline == p)) then
      match ((← get).dirOf p).busy with
      | some r => completeBusy afadd p r.dx
      | none => pure ()

/-- A compute die is isolated: its cores are killed, homes elsewhere forget them, and ISOLATE goes to every reachable device
kernel and hub core 0. -/
def isolateDie (d : Nat) : M Unit := do
  if !(← getDie d).isolated then
    modDie d fun x => { x with isolated := true }
    (List.range 2048).forM fun i => killCore (d * 2048 + i) 0x14 true
    forgetCores (fun p => homeDie p != d) fun w => dieOf w == d
    ((← get).reachable).forM fun r => postIrq (r * 2048) (kirqWord 2 0 d)
    postIrq 0x2000 (kirqWord 2 0 d)

/-- Whether a line's home lies on a die. -/
def L1Line.homedOn (l : L1Line) (d : Nat) : Bool := match l.home with | .here p => homeDie p == d | .away _ _ => false

/-- What a core reports of a line whose bytes it lost (R157): the first of the stores that made them, or the line. -/
def L1Line.lossOf (l : L1Line) : Option Lost :=
  if l.dirty = 0 && l.carried = 0 then none
  else match l.marks with
    | [] => some { order := 0, faddr := BitVec.ofNat 64 (l.vline * 64) }
    | m :: ms =>
      let first := ms.foldl (fun (b x : Mark) => if x.order < b.order then x else b) m
      some { order := first.order, faddr := first.faddr, finfo := first.finfo }

/-- The hub die is cut off from a die (R157): the homes of that die drop the hub cores' entries; a core that held dirty
bytes of an affected line reports STORELOST at its next release. -/
def isolateHub (d : Nat) : M Unit := do
  ((← get).cores.filter fun c => isHub c.1).forM fun c => do
    let gone := c.2.l1.filterMap fun l => if l.homedOn d then l.lossOf else none
    modCore c.1 fun c => { c with l1 := c.l1.filter fun l => !l.homedOn d, lost := c.lost ++ gone.take 1 }
    let clean := fun (e : Nat × Dir) =>
      if homeDie e.1 != d then some e else if (e.2.without c.1).needed then some (e.1, e.2.without c.1) else none
    modify fun s => { s with homes := { s.homes with dir := s.homes.dir.filterMap clean } }
  forgetCores (fun p => homeDie p == d) isHub

/-! ## Errors of hardware (R395 to R399) -/

/-- A line of a core's L1 fails its parity (R398, R399): a clean one is discarded and counted as corrected; with dirty bytes
the line is withheld at its home, and of a line of another device the stores abort. -/
def loseLine (who i : Nat) : M Unit := do
  match (← getCore who).l1[i]? with
  | none => pure ()
  | some l =>
    if l.dirty = 0 && l.carried = 0 then
      modDieRegs (dieOf who) fun r => { r with errce := satInc64 r.errce }
      dropLine who false l
    else match l.home with
      | .away _ _ =>
        loseMarks l l.dirty none
        modCore who fun c => { c with l1 := c.l1.eraseIdx i }
      | .here p =>
        modCore who fun c => { c with l1 := c.l1.eraseIdx i }
        let d := ((← get).dirOf p).without who
        setDir p d
        modify fun s => if s.bad.contains p then s else { s with latent := p :: s.latent }
        let _ ← withheld p l.space.ctxid

/-- An entry of another cache fails its parity (R398): it is discarded, and counted as corrected. -/
def discardEntry (c : CacheOf) (i : Nat) : M Unit := do
  let die := match c with
    | .tlb who => dieOf who
    | .tlb2 cl | .code cl => cl / 256
    | .tlb3 d _ | .walk d _ | .grants d _ => d
  modDieRegs die fun r => { r with errce := satInc64 r.errce }
  match c with
  | .tlb who => modCore who fun c => { c with tlb := c.tlb.eraseIdx i }
  | .tlb2 cl => modCluster cl fun c => { c with tlb := c.tlb.eraseIdx i }
  | .code cl => modCluster cl fun c => { c with code := c.code.eraseIdx i }
  | .tlb3 d n => modDie d fun d => { d with l3 := d.l3.put n ((d.l3.get n []).eraseIdx i) }
  | .walk d n => modDie d fun d => { d with walks := d.walks.put n ((d.walks.get n []).eraseIdx i) }
  | .grants d n => modDie d fun d => { d with grants := d.grants.put n ((d.grants.get n []).eraseIdx i) }

end Sys2Proof.Machine
end

