-- ==== Sys2Proof/Machine/FrontEnd.lean ====
section
/-! DEFINITION. What the front ends share: context records, reading and writing in a queue's context, a queue that stops, and
the end of a launch (R317 to R320, R330, R340). -/

namespace Sys2Proof.Machine

/-! ## Context records (R340) -/

/-- Reads `n` bytes at offset `o` of a context's record on the table of a die. -/
def contextField (die ctx o n : Nat) : M Nat := do
  let s ← get
  if ctx = 0 || bits (s.die die).regs.ctxroot 41 0 = 0 then return 0
  else return (← readPhys (recordAddr s (die * 2048) ctx + o) n).getD 0

/-- STATE and EVICTED of a context (R340). -/
def contextState (die ctx : Nat) : M Nat := do return (← contextField die ctx 32 1) % 16

/-- Writes STATE and EVICTED (R340). -/
def setContextState (die ctx st : Nat) : M Unit := do
  writePhys (recordAddr (← get) (die * 2048) ctx + 32) (leBytes 1 st)

/-- A front end as an agent: it translates in the queue's context, from the die's device-kernel core. -/
def frontAgent (die ctx key : Nat) : Agent :=
  { k := 2 ^ 35 + key, v := { who := die * 2048, user := true, ctx := ctx }, vec := {}, engine := true }

/-- Performs a write that no thread waits for; a failure is not reported. One that must wait is still to be performed. -/
def unreported (m : M Unit) : M Unit := do
  let _ ← attempt m

/-- What an event of a front end leaves of the requests to other devices that agent `k` waited for, once it has ended. -/
def State.dropAsked (s : State) (k : Nat) : State :=
  { s with links := { s.links with
      waits := s.links.waits.filter fun w => w.posted || (w.thread != k && !s.links.asked.contains w.id) } }

/-- Runs an event of a front end, agent `k`, whose accesses may wait for other devices or a memory that is not up: until it
can end, only its requests stand (log entry 17). -/
def frontScope {α : Type} (k : Nat) (m : M α) : M α := fun s =>
  match m s.askAgain with
  | .ok a s' => .ok a (s'.dropAsked k)
  | .error .stall s' => .error .stall { s with links := s'.links }
  | .error e s' => .error e (s'.dropAsked k)

/-- The read of a record, a table or a ring by a front end: they lie in translated memory (R309, R324). -/
def readPlain (g : Agent) (va n : Nat) : M (List Byte) := do
  if (pieces va n).any fun p => isLocal p.1 then trap .page 0x10 (BitVec.ofNat 64 va)
  readVa g va n

/-! ## Ends of launches and stops of queues (R317, R320, R330) -/

/-- A queue record, keyed by its number, CTXID × 512 + queue. -/
def State.queue (s : State) (die q : Nat) : Queue := (s.die die).queues.get q {}

/-- Changes a queue. -/
def modQueue (die q : Nat) (f : Queue → Queue) : M Unit :=
  modDie die fun d => { d with queues := d.queues.put q (f (d.queues.get q {})) }

/-- Whether an address may hold a completion object (R136). -/
def objectAt (va : Nat) : Bool := va % 8 == 0 && (!isLocal va || regionOf va == some 3)

/-- Ends a launch (R317): STATUS with THRU, then the add to DONEOBJ, with FAULT for a STATUS other than 0. A DONEOBJ that was
never read, or is none (R136), takes no add. -/
def endLaunch (id : Nat) (st : LaunchState) (status : Nat) : M Unit := do
  match (← get).launch? id with
  | none => pure ()
  | some l =>
    let g := frontAgent l.die l.ctx id
    modLaunch id fun l => { l with st := st, status := status, msgs := [] }
    modQueue l.die l.queue fun q => { q with live := q.live.filter (· != id) }
    let at' := (l.record + 60) % 2 ^ 52
    if !isLocal at' then unreported (writeVa g at' (leBytes 4 status))
    match l.doneobj with
    | some o => if objectAt o then unreported (engineAtomic g o
        { op := if status = 0 then 16 else 17, wide := true, b := 0, b1 := 0 })
    | none => pure ()

/-- A launch that faults or is cancelled takes its early dependents with it (R320). -/
def cancelDependents : Nat → Nat → M Unit
  | 0, _ => pure ()
  | fuel + 1, id => do
    (← get).launches.forM fun p => do
      let l := p.2
      if l.early && l.dep && l.pred = some id then
        match l.st with
        | .binding =>
          endLaunch p.1 .cancelled 1
          cancelDependents fuel p.1
        | .releasing | .running | .draining => failLaunch p.1 true
        | _ => pure ()

/-- Ends a launch as CANCELLED (R320). -/
def cancelLaunch (id : Nat) : M Unit := do
  endLaunch id .cancelled 1
  cancelDependents (← get).launches.length id

/-- A queue leaves the resident set: no examination of it goes on. -/
def leaveSet (die q : Nat) (st : QState) : M Unit := do
  modQueue die q fun x => { x with st := st, looking := false }
  modify fun s => s.dropWaits (frontAgent die 0 (2 ^ 30 + q)).k

/-- A queue enters ERROR or FROZEN (R330): its header block, its QUEUED launches, the message. `idx`: the entry that stopped
it. It keeps the command it has taken and what that waits for (R331, R335). -/
def stopQueue (die q idx code : Nat) (frozen : Bool) : M Unit := do
  let r := (← get).queue die q
  let ctx := q / 512
  let g := frontAgent die ctx (2 ^ 30 + q)
  leaveSet die q (if frozen then .frozen else .error)
  match r.hdr with
  | some h =>
    unreported (writeVa g ((h + 32) % 2 ^ 52) (leBytes 4 idx ++ leBytes 1 (if frozen then 6 else 5) ++ leBytes 1 code))
  | none => pure ()
  (← get).launches.forM fun p => do
    if p.2.die = die && p.2.queue = q && p.2.st = .queued then cancelLaunch p.1
  let addr := (r.base + 64 * (idx % max r.size 1)) % 2 ^ 52
  sendSystemFrom (.front die) (die * 2048) die 14 (faultMessage (die * 2048) (if frozen then 7 else 6) 0 ctx (q % 512) addr)

/-- A launch or COPY of a queue has faulted (R326, R331): the queue freezes, unless it is in ERROR or FROZEN. -/
def freezeQueue (die q idx code : Nat) : M Unit := do
  match ((← get).queue die q).st with
  | .error | .frozen => pure ()
  | _ => stopQueue die q idx code true

/-- Ends a launch as FAULTED, which freezes its queue (R320, R326). -/
def faultLaunch (id status : Nat) : M Unit := do
  match (← get).launch? id with
  | none => pure ()
  | some l =>
    endLaunch id .faulted status
    cancelDependents (← get).launches.length id
    freezeQueue l.die l.queue l.entry 0x10

end Sys2Proof.Machine
end

