-- ==== Sys2Proof/Machine/Launch.lean ====
section
/-! DEFINITION. Launch records: their reading, checks and binding; the ends of stages and launches; DICT and KLOAD (R257,
R309 to R323, R424). -/

namespace Sys2Proof.Machine

/-! ## What a record holds (R309 to R313) -/

/-- A stage descriptor with its images (R310). -/
structure StageDesc where
  raw : List Byte
  dict : List Byte
  bank : List Byte
  classes : List Byte
  eps : List Byte
  deriving DecidableEq, Repr

/-- A launch record as read (R309 to R313): group lists and message payloads stand beside their descriptors. -/
structure Plan where
  header : List Byte
  stages : List StageDesc
  chans : List (List Byte)
  groups : List (List Byte × List Byte)
  bars : List (List Byte)
  msgs : List (List Byte × List Byte)
  deriving DecidableEq, Repr

/-- A field of a descriptor, lowest byte first. -/
def fieldOf (bs : List Byte) (o n : Nat) : Nat := bytesAt bs o n

/-- Cores of a stage in WHO order (R310). -/
def StageDesc.cores (d : StageDesc) : List Nat :=
  let f := fieldOf d.raw
  (List.range 4).flatMap fun die =>
    if (f 0 1).testBit die then
      (List.range (min (f 2 2) 256)).flatMap fun i =>
        (List.range 8).filterMap fun n => if (f 4 1).testBit n then some (die * 2048 + (f 1 1 + i) * 8 + n) else none
    else []

/-- WEAVE of a stage. -/
def StageDesc.weave (d : StageDesc) : Bool := (fieldOf d.raw 5 1).testBit 0

/-- ORD, REMOTE and KERNEL of a channel descriptor (R311). -/
def chanFlag (c : List Byte) (i : Nat) : Bool := (fieldOf c 7 1).testBit i

/-- Slot size of a channel descriptor (R311). -/
def chanSize (c : List Byte) : Nat := match fieldOf c 6 1 with | 0 => 64 | 1 => 256 | _ => 1024

/-- The receiving core of a local channel (R311, R424). -/
def Plan.receiver (p : Plan) (c : List Byte) : Option Nat :=
  if chanFlag c 1 then none
  else if chanFlag c 2 then some (fieldOf c 0 1 % 4 * 2048)
  else match p.stages[fieldOf c 0 1]? with
    | some d => d.cores[fieldOf c 2 2]?
    | none => none

/-- The members that a group descriptor gives (R312). -/
def Plan.members (p : Plan) (g : List Byte × List Byte) : List Nat :=
  if fieldOf g.1 4 2 = 0 then
    p.stages.zipIdx.flatMap fun d =>
      if (fieldOf g.1 2 2).testBit d.2 then d.1.cores.filter fun w => decide (w / 2048 = fieldOf g.1 1 1) else []
  else (List.range (fieldOf g.1 4 2)).map fun i => fieldOf g.2 (2 * i) 2

/-- The group descriptors that a barrier's GNUM matches (R312). -/
def Plan.groupsFor (p : Plan) (b : List Byte) : List (List Byte) :=
  (p.groups.map (·.1)).filter fun g => fieldOf g 0 1 == fieldOf b 2 1

/-- The die of a barrier. -/
def Plan.barDie (p : Plan) (b : List Byte) : Nat := match p.groupsFor b with | g :: _ => fieldOf g 1 1 | [] => 0

/-! ## Reading (R314) -/

/-- A header field outside its limits (R309). -/
def headerBad (h : List Byte) : Bool :=
  let f := fieldOf h
  let flags := f 1 1
  f 0 1 == 0 || decide (16 < f 0 1) || flags / 4 != 0 || flags == 2 || decide (1024 < f 2 2) || decide (256 < f 4 2) ||
    decide (512 < f 6 2) || f 8 8 % 64 != 0 || f 16 8 % 16 != 0 || f 24 8 % 16 != 0 || f 32 8 % 16 != 0 ||
    f 40 8 % 16 != 0 || f 56 2 == 0 || decide (4096 < f 56 2) || f 48 8 % 8 != 0

/-- Reads the entries of a table. -/
def readTableAt (g : Agent) (va size n : Nat) : M (List (List Byte)) :=
  (List.range n).mapM fun i => readPlain g ((va + size * i) % 2 ^ 52) size

/-- Reads a record whose header is within its limits. -/
def readPlan (g : Agent) (h : List Byte) : M Plan := do
  let f := fieldOf h
  let at52 := fun (a : Nat) => a % 2 ^ 52
  let stages ← (← readTableAt g (f 8 8) 128 (f 0 1)).mapM fun raw => do
    let x := fieldOf raw
    return ({ raw := raw
              dict := ← readPlain g (at52 (x 8 8)) (4 * min (x 16 2) 1024)
              bank := ← readPlain g (at52 (x 24 8)) (4 * min (x 18 2) 256)
              classes := ← readPlain g (at52 (x 32 8)) 128
              eps := ← readPlain g (at52 (x 40 8)) 128 } : StageDesc)
  let chans ← readTableAt g (f 16 8) 16 (f 2 2)
  let groups ← (← readTableAt g (f 24 8) 16 (f 4 2)).mapM fun raw => do
    return (raw, ← readPlain g (at52 (fieldOf raw 8 8)) (2 * fieldOf raw 4 2))
  let bars ← readTableAt g (f 32 8) 16 (f 6 2)
  let msgs ← (← readTableAt g (f 40 8) 16 (f 56 2)).mapM fun raw => do
    return (raw, ← readPlain g (at52 (fieldOf raw 8 8)) (min (fieldOf raw 2 2) 1024))
  return { header := h, stages := stages, chans := chans, groups := groups, bars := bars, msgs := msgs }

/-! ## Checks (R314) -/

/-- A stage descriptor outside its limits (R310). -/
def stageBad (p : Plan) (d : StageDesc) : Bool :=
  let f := fieldOf d.raw
  f 0 1 == 0 || f 0 1 / 16 != 0 || f 2 2 == 0 || decide (256 < f 2 2) || decide (256 < f 1 1 + f 2 2) || f 4 1 == 0 ||
    f 5 1 / 2 != 0 || f 6 2 != 0 || decide (1024 < f 16 2) || decide (256 < f 18 2) || f 20 4 != 0 || f 48 8 % 64 != 0 ||
    f 56 4 % 64 != 0 || decide (f 56 4 < 1024) || f 60 4 != 0 || f 96 32 != 0 ||
    (List.range 64).any fun i =>
      let c := fieldOf d.eps (2 * i) 2
      c != 0xFFFF && decide (p.chans.length ≤ c)

/-- HANDLER of the class of an ordered channel at its receiving stage (R322). -/
def ordHandler (p : Plan) (c : List Byte) : Nat :=
  match p.stages[fieldOf c 0 1]? with
  | some d => fieldOf d.classes (8 * fieldOf c 4 1) 8 % 2 ^ 52
  | none => 0

/-- A channel descriptor outside its limits (R311, R322, R424). -/
def chanBad (p : Plan) (c : List Byte) : Bool :=
  let f := fieldOf c
  f 7 1 / 8 != 0 || decide (0xFFF < f 12 2) || f 14 2 != 0 ||
  (if chanFlag c 1 then chanFlag c 0 || chanFlag c 2 || f 3 4 != 0 || f 8 4 != 0
   else
    f 1 1 != 0 || decide (15 < f 4 1) || f 5 1 == 0 || decide (64 < f 5 1) || decide (2 < f 6 1) ||
    (if chanFlag c 2 then
      decide (3 < f 0 1) || f 2 2 != 0 || decide (13 < f 4 1) || chanFlag c 0 || decide (f 8 4 < 0x4000) ||
        decide (0x10000 < f 8 4 + f 5 1 * chanSize c)
     else
      decide (p.stages.length ≤ f 0 1) || (p.receiver c).isNone || (chanFlag c 0 && ordHandler p c == 0)))

/-- Whether a list has two equal entries. -/
def repeats {α : Type} [BEq α] (l : List α) : Bool := l.zipIdx.any fun x => (l.drop (x.2 + 1)).contains x.1

/-- Local channels with their receiving cores. -/
def Plan.localChans (p : Plan) : List (Nat × List Byte) := p.chans.filterMap fun c => (p.receiver c).map fun w => (w, c)

/-- 0x10 RANGE. -/
def rangeBad (p : Plan) : Bool :=
  p.stages.any (stageBad p) || p.chans.any (chanBad p) ||
  p.groups.any (fun g => decide (3 < fieldOf g.1 1 1) || fieldOf g.1 6 2 != 0) ||
  p.bars.any (fun b =>
    decide (511 < fieldOf b 0 2) || fieldOf b 3 1 != 0 || decide (2048 < fieldOf b 4 2) || fieldOf b 6 2 != 0 ||
      decide (16777215 < fieldOf b 8 4) || fieldOf b 12 4 != 0 || (p.groupsFor b).isEmpty ||
      decide (1 < ((p.groupsFor b).map fun g => fieldOf g 1 1).eraseDups.length)) ||
  p.msgs.any (fun m =>
    decide (1024 < fieldOf m.1 2 2) || fieldOf m.1 4 4 != 0 ||
      (match p.chans[fieldOf m.1 0 2]? with | some c => chanFlag c 1 | none => true)) ||
  repeats (p.groups.map fun g => (fieldOf g.1 0 1, fieldOf g.1 1 1)) ||
  repeats (p.bars.map fun b => (fieldOf b 0 2, p.barDie b)) ||
  repeats (p.localChans.map fun c => (fieldOf c.2 12 2, dieOf c.1))

/-- 0x11 CORES. -/
def coresBad (p : Plan) : Bool :=
  repeats (p.stages.flatMap StageDesc.cores) || (p.stages.flatMap StageDesc.cores).any isDevKernel ||
  p.stages.any fun d => d.weave && (fieldOf d.raw 4 1 != 0xFF || fieldOf d.raw 1 1 == 0)

/-- A pool in an inbox: offset and bytes. -/
def poolOf (c : List Byte) : Nat × Nat := (fieldOf c 8 4, fieldOf c 5 1 * chanSize c)

/-- 0x12 POOL (R266, R424). -/
def poolBad (p : Plan) : Bool :=
  p.localChans.any (fun c => fieldOf c.2 8 4 % chanSize c.2 != 0 || decide (0x10000 < (poolOf c.2).1 + (poolOf c.2).2)) ||
  p.localChans.zipIdx.any fun x => (p.localChans.drop (x.2 + 1)).any fun y =>
    y.1 == x.1.1 && overlap (poolOf y.2).1 (poolOf y.2).2 (poolOf x.1.2).1 (poolOf x.1.2).2

/-- 0x13 CLS. -/
def clsBad (p : Plan) : Bool :=
  let parts := p.stages.flatMap fun d => (d.cores.map (· / 8)).eraseDups.map fun cl => (cl, fieldOf d.raw 72 4, fieldOf d.raw 76 4)
  parts.any fun x => parts.any fun y => x.1 == y.1 && x.2 != y.2

/-- Groups of a core's die that hold it and that it keeps when the launch that now holds it, if one does, is unbound
(R288, R317). -/
def keptGroups (s : State) (who : Nat) : Nat :=
  let going := match (s.core who).held with
    | some (id, _) => (match s.launch? id with | some l => l.groups | none => [])
    | none => []
  ((s.die (dieOf who)).groups.filter fun g =>
    g.2.st != .free && g.2.members.contains who && !going.contains (dieOf who, g.1)).length

/-- 0x15 GROUP. -/
def groupBad (s : State) (p : Plan) : Bool :=
  let cores := p.stages.flatMap StageDesc.cores
  p.groups.any (fun g => (p.members g).any fun w => !cores.contains w || decide (w / 2048 ≠ fieldOf g.1 1 1)) ||
  cores.any fun w =>
    let mine := (p.groups.filter fun g => (p.members g).contains w).length
    decide (4 < mine + keptGroups s w) && decide (0 < mine)

/-- The lowest code of the checks that fail, if one does (R314). -/
def planStatus (s : State) (p : Plan) : Option Nat :=
  if rangeBad p then some 0x10 else if coresBad p then some 0x11 else if poolBad p then some 0x12
  else if clsBad p then some 0x13 else if groupBad s p then some 0x15 else none

/-! ## Resources (R314, R322, R343, R424) -/

/-- Whether every core, channel, group, barrier and pool that a plan names is free, the cores on dies whose clusters have come
up (R410). -/
def resourcesFree (s : State) (p : Plan) : Bool :=
  let cores := p.stages.flatMap StageDesc.cores
  cores.all (fun w => (s.core w).held.isNone && !(s.die (dieOf w)).isolated && (isHub w || s.boot.rdycore.getLsbD (dieOf w))) &&
  p.localChans.all (fun c => (s.channel (dieOf c.1) (fieldOf c.2 12 2)).st == .unbound) &&
  p.groups.all (fun g => (s.group (fieldOf g.1 1 1) (fieldOf g.1 0 1)).st == .free) &&
  p.bars.all (fun b => (s.barrier (p.barDie b) (fieldOf b 0 2)).st == .free) &&
  p.localChans.all (fun c => !chanFlag c.2 2 || (s.die (dieOf c.1)).chans.all fun x =>
    x.2.st == .unbound || x.2.receiver != c.1 || x.2.remote.isSome ||
      !overlap x.2.pool (x.2.allow * x.2.size) (poolOf c.2).1 (poolOf c.2).2) &&
  (List.range 4).all fun d =>
    decide (((s.die d).chans.filter fun x => x.2.ord && x.2.st != .unbound && x.2.remote.isNone).length
      + (p.localChans.filter fun c => chanFlag c.2 0 && dieOf c.1 == d).length ≤ 64)

/-- Whether the context lets a launch bind: it is RUNNING, and a context that requires PARTITIONED binds on no SHARED die. -/
def contextBinds (l : Launch) (p : Plan) : M Bool := do
  let st ← contextState l.die l.ctx
  let req ← contextField l.die l.ctx 33 1
  let s ← get
  let dies := ((p.stages.flatMap StageDesc.cores).map dieOf).eraseDups
  return st % 8 = 3 && (req % 2 = 0 || dies.all fun d => (s.die d).regs.l2mode.getLsbD 0)

/-! ## Binding (R257, R314, R315) -/

/-- Number of a launch's channel in its die's table: a channel of another device has one of its own. -/
def chanNumber (id i : Nat) (c : List Byte) : Nat :=
  if chanFlag c 1 then 4096 * (1 + id * 1024 + i) + fieldOf c 12 2 else fieldOf c 12 2

/-- The channels of a plan: die and number, in table order. -/
def Plan.places (p : Plan) (id die : Nat) : List (Nat × Nat) :=
  p.chans.zipIdx.map fun c => (match p.receiver c.1 with | some w => dieOf w | none => die, chanNumber id c.2 c.1)

/-- The words of a dictionary image (R47, R323). -/
def dictWords (bs : List Byte) : Store (BitVec 32) :=
  (List.range (bs.length / 4)).map fun i => (i, BitVec.ofNat 32 (bytesAt bs (4 * i) 2 * 2 ^ 16 + bytesAt bs (4 * i + 2) 2))

/-- The words of a constant image (R323). -/
def bankWords (bs : List Byte) : Store (BitVec 32) :=
  (List.range (bs.length / 4)).map fun i => (i, BitVec.ofNat 32 (bytesAt bs (4 * i) 4))

/-- What a binding clears in the weave array of a core (R257); `all` where it binds the whole cluster. -/
def Weave.bindCore (w : Weave) (core : Nat) (all : Bool) : Weave :=
  { w with
    slabs := w.slabs.filter fun x => x.1 / 2048 != core
    acc := w.acc.filter fun x => x.1 % 128 / 16 != core
    armed := w.armed.filter fun x => x % 8 != core
    bfault := w.bfault.del core
    drop0 := if all then 0 else w.drop0
    drop1 := if all then 0 else w.drop1 }

/-- FPSUP as a CRW leaves it (R232). -/
def fpsupOf (v : Word) : Word := v &&& (BitVec.ofNat 64 (2 ^ 63 + 2 ^ 18 - 1))

/-- Binds a core of rank `q` of stage `i` (R315); its cluster's instruction cache is invalidated (R52, R314). -/
def bindCore (id ctx i q who : Nat) (d : StageDesc) (places : List (Nat × Nat)) (all : Bool) : M Unit := do
  let f := fieldOf d.raw
  let word := fun (o n : Nat) => BitVec.ofNat 64 (f o n)
  let eps : Store Endpoint := (List.range 64).filterMap fun e =>
    let c := fieldOf d.eps (2 * e) 2
    if c = 0xFFFF then none else (places[c]?).map fun pl => (e, { chan := some pl, isOpen := true })
  modCore who fun c => { c with
    held := some (id, i), killed := false, undeclared := false
    dict := dictWords d.dict, bank := bankWords d.bank
    regs := { c.regs with
      classes := Vector.ofFn fun j => BitVec.ofNat 64 (fieldOf d.classes (8 * j.val) 8)
      ecaplim := 1024, cspbase := word 64 4, cspsize := word 68 4, clsbase := word 72 4, clssize := word 76 4
      allocbase := word 80 8 &&& allocMask }
    inbox := { c.inbox with eps := eps, pending := [], waiters := [] } }
  for h in List.range 8 do
    let base := f 48 8 + (8 * q + h) * f 56 4
    modThread (who * 8 + h) fun t => { Thread.fresh (who * 8 + h) with
      kern := { t.kern with ctxid := BitVec.ofNat 16 ctx, stktop := BitVec.ofNat 64 (base + f 56 4)
                            rstop := BitVec.ofNat 64 (base + 512) }
      ctl := { fpsup := fpsupOf (word 88 8) } }
  modCluster (who / 8) fun c => { c with code := [], weave := c.weave.bindCore (who % 8) all }
  modify fun s => { s with saved := s.saved.map fun v => if v.who = who then { v with rebound := true } else v }

/-- What the commit arbiter of a die knows of a channel: its keys (R208, R209). -/
def forgetKeys (die num : Nat) : M Unit :=
  modDie die fun d => { d with commits := { d.commits with
    high := d.commits.high.del num
    latest := d.commits.latest.filter fun p => p.1 / 2 ^ 30 != num } }

/-- Binds a launch (R314 steps 1 to 3). -/
def bindLaunch (id : Nat) (l : Launch) (p : Plan) : M Unit := do
  let places := p.places id l.die
  p.stages.zipIdx.forM fun d => do
    let cores := d.1.cores
    let all := p.stages.flatMap StageDesc.cores
    cores.zipIdx.forM fun w =>
      bindCore id l.ctx d.2 w.2 w.1 d.1 places ((List.range 8).all fun n => all.contains (w.1 / 8 * 8 + n))
  (p.chans.zip places).forM fun c => do
    let ch := c.1
    forgetKeys c.2.1 c.2.2
    modChannel c.2.1 c.2.2 fun _ =>
      { st := .bound, receiver := (p.receiver ch).getD (fieldOf ch 0 2)
        remote := if chanFlag ch 1 then some (fieldOf ch 2 1) else none
        cls := fieldOf ch 4 1, allow := if chanFlag ch 1 then 0 else fieldOf ch 5 1
        size := if chanFlag ch 1 then 1024 else chanSize ch, pool := fieldOf ch 8 4, ord := chanFlag ch 0, launch := id }
  p.groups.forM fun g =>
    modGroup (fieldOf g.1 1 1) (fieldOf g.1 0 1) fun _ =>
      { st := .bound, ctx := l.ctx, launch := id
        members := ((p.members g).eraseDups.foldl (fun (x : Group) w => if x.members.contains w then x else x.add w) {}).members }
  p.bars.forM fun b =>
    modBarrier (p.barDie b) (fieldOf b 0 2) fun _ =>
      { st := .idle, ctx := l.ctx, group := fieldOf b 2 1, count := fieldOf b 4 2, launch := id
        wd := if fieldOf b 8 4 = 0 then 1000000 else fieldOf b 8 4 }
  let starts := fun (cores : List Nat) => p.msgs.any fun m =>
    match p.chans[fieldOf m.1 0 2]? with
    | some c => (match p.receiver c with | some w => cores.contains w | none => false)
    | none => false
  modLaunch id fun l => { l with
    st := .releasing
    trign := max 1 (fieldOf p.header 58 2)
    chans := places
    groups := p.groups.map fun g => (fieldOf g.1 1 1, fieldOf g.1 0 1)
    bars := p.bars.map fun b => (p.barDie b, fieldOf b 0 2)
    stages := p.stages.map fun d => { cores := d.cores, weave := d.weave, starts := starts d.cores }
    starts := (p.msgs.map fun m => fieldOf m.1 0 2).eraseDups
    msgs := p.msgs.map fun m => (fieldOf m.1 0 2, m.2) }
  places.forM fun pl => modChannel pl.1 pl.2 fun c => { c with st := .open }

/-! ## Start messages (R313) and the closing of channels (R269, R316) -/

/-- A launch whose start messages are sent is RUNNING, or DRAINING once every stage that receives one has ended (R320). -/
def Launch.afterStarts (l : Launch) : LaunchState :=
  if l.stages.all fun st => !st.starts || st.ended then .draining else .running

/-- Sends the start messages in table order, as SEND does (R272, R313): one that finds no free slot waits, and one that its
channel refuses is not delivered. -/
def sendStarts : Nat → Nat → M Unit
  | 0, _ => pure ()
  | fuel + 1, id => do
    match (← get).launch? id with
    | none => pure ()
    | some l =>
      match l.msgs with
      | [] =>
        if l.st = .releasing then modLaunch id fun l => { l with st := l.afterStarts }
        settleStarts id
      | (i, bytes) :: rest =>
        match l.chans[i]? with
        | none => pure ()
        | some (die, num) =>
          let c := (← get).channel die num
          if (refusal c.st).isSome then
            modLaunch id fun l => { l with msgs := rest }
            sendStarts fuel id
          else match ← takeSlot die num (2 ^ 41) with
          | none => pure ()
          | some idx =>
            let n := min bytes.length c.size
            let h := headerOf n (decide (n < bytes.length)) false false c.ord none c.cls (die * 2048) num 0 l.sent
            launchMessage die num idx (die * 2048) (some (0, 64 + id)) h (bytes.take n) l.ctx
            modLaunch id fun l => { l with msgs := rest, sent := l.sent + 1 }
            sendStarts fuel id

/-- Checks and binds a launch whose record's header is read and within its limits, or lets it wait (R314). -/
def checkPlan (id : Nat) (l : Launch) (g : Agent) (h : List Byte) : M Unit := do
  match ← attempt (readPlan g h) with
  | .error _ => faultLaunch id 0x14
  | .ok p =>
    match planStatus (← get) p with
    | some code => faultLaunch id code
    | none =>
      if resourcesFree (← get) p then
        if ← contextBinds l p then
          bindLaunch id l p
          sendStarts (p.msgs.length + 1) id

/-- The predecessor that a launch depends on, if it has one. -/
def Launch.before (l : Launch) (s : State) : Option Launch := if l.dep then l.pred.bind s.launch? else none

/-- LAUNCH_BINDING (R314, R320): a queued launch whose predecessor lets it becomes BINDING; a binding one is checked and
bound, or waits, or goes with its early predecessor; a releasing one sends its start messages. -/
def launchBinding (id : Nat) : M Unit := do
  let s ← get
  match s.launch? id with
  | none => pure ()
  | some l =>
    let going := fun (p : Launch) => p.failing || p.cancelling
    match l.st with
    | .queued =>
      match l.before s with
      | none => modLaunch id fun l => { l with st := .binding }
      | some p =>
        if p.st = .cancelled || p.st = .faulted then cancelLaunch id
        else if p.st = .done || (l.early && !going p && decide (p.trign ≤ p.triggers)) then
          modLaunch id fun l => { l with st := .binding }
    | .binding =>
      if l.early && (l.before s).any going then cancelLaunch id
      else
        let g := frontAgent l.die l.ctx id
        match ← attempt (readPlain g (l.record % 2 ^ 52) 64) with
        | .error _ => faultLaunch id 0x14
        | .ok h =>
          modLaunch id fun l => { l with doneobj := some (fieldOf h 48 8 % 2 ^ 52) }
          if headerBad h then faultLaunch id 0x10 else checkPlan id l g h
    | .releasing => sendStarts (l.msgs.length + 1) id
    | _ => pure ()

/-- The meaning of `launchBinding`. -/
def execLaunchBinding (id : Nat) (s : State) : Host.Outcome State Fault Refusal :=
  match frontScope (2 ^ 35 + id) (launchBinding id) s with
  | .ok _ s' => .next s'
  | .error _ s' => .next s'

/-! ## The end of a stage (R316) -/

/-- Whether a stage still has work: a start message to come or in flight, a PENDING or live activation, a commit to come. -/
def stageBusy (s : State) (l : Launch) (st : Stage) : Bool :=
  st.cores.any (fun w =>
    (s.core w).inbox.pending.any (fun p => p.slot.chan.isSome) ||
    (List.range 8).any (fun h => (s.thread (w * 8 + h)).act.isSome) ||
    s.flights.any (fun fl => fl.dst == w && fl.place.isSome) ||
    (s.die (dieOf w)).awaiting.any fun a => a.who == w) ||
  l.msgs.any fun m => match l.chans[m.1]? with
    | some pl => st.cores.contains (s.channel pl.1 pl.2).receiver
    | none => false

/-- The stages that hold an endpoint on a channel that a stage receives. -/
def stageSenders (s : State) (l : Launch) (st : Stage) : List Nat :=
  let mine := l.chans.filter fun pl => st.cores.contains (s.channel pl.1 pl.2).receiver && (s.channel pl.1 pl.2).remote.isNone
  l.stages.zipIdx.filterMap fun x =>
    if x.1.cores.any fun w => (s.core w).inbox.eps.any fun e => match e.2.chan with | some pl => mine.contains pl | none => false
    then some x.2 else none

/-- Removes from a set of stages, over and over, those that a stage outside it still feeds. -/
def closeSet (s : State) (l : Launch) : Nat → List Nat → List Nat
  | 0, c => c
  | fuel + 1, c =>
    closeSet s l fuel (c.filter fun i => match l.stages[i]? with
      | none => false
      | some st => (stageSenders s l st).all fun j => c.contains j || (l.stages[j]?).any (·.ended))

/-- The stages of a launch that may end now. -/
def endable (s : State) (l : Launch) : List Nat :=
  closeSet s l l.stages.length
    ((l.stages.zipIdx.filter fun x => !x.1.ended && !stageBusy s l x.1).map (·.2))

/-- A stage with the stages that feed it and have not ended, directly or through others. -/
def feeders (s : State) (l : Launch) : Nat → List Nat → List Nat
  | 0, c => c
  | fuel + 1, c =>
    feeders s l fuel (c ++ (c.flatMap fun i => match l.stages[i]? with
      | none => []
      | some st => stageSenders s l st).filter fun j => !(l.stages[j]?).any (·.ended) && !c.contains j).eraseDups

/-- STAGE_END (R316): the stage and every stage that feeds it end together; their endpoints close. None ends while its context
is stopping or stopped (R320). -/
def endStage (id stage : Nat) : M Unit := do
  let s ← get
  match s.launch? id with
  | none => pure ()
  | some l =>
    if (l.st = .releasing || l.st = .running || l.st = .draining) && !s.ctxHalted l.ctx && (endable s l).contains stage then
      let gone := (feeders s l l.stages.length [stage]).eraseDups
      let cores := gone.flatMap fun i => match l.stages[i]? with | some st => st.cores | none => []
      let fed := (cores.flatMap fun w => ((s.core w).inbox.eps.filterMap fun e => e.2.chan)).eraseDups
      cores.forM fun w => modCore w fun c => { c with inbox := { c.inbox with
        eps := c.inbox.eps.map fun e => (e.1, { e.2 with isOpen := false }) } }
      fed.forM settleChannel
      modLaunch id fun l =>
        let stages := l.stages.zipIdx.map fun x => if gone.contains x.2 then { x.1 with ended := true } else x.1
        { l with stages := stages, st := if l.st = .running then { l with stages := stages }.afterStarts else l.st }

/-- The meaning of `stageEnd`. -/
def execStageEnd (id stage : Nat) (s : State) : Host.Outcome State Fault Refusal :=
  match endStage id stage s with
  | .ok _ s' => .next s'
  | .error _ s' => .next s'

/-! ## The end of a launch (R317) -/

/-- Whether a launch has nothing outstanding: engines, undeclared kills, gang operations, group operations of its groups and of
its cores in other groups. -/
def launchIdle (s : State) (id : Nat) (l : Launch) : Bool :=
  let cores := l.stages.flatMap (·.cores)
  l.stages.all (·.ended) && !s.engines.any (fun e => e.launch == some id) &&
  cores.all (fun w => !(s.core w).undeclared) &&
  cores.all (fun w => let v := (s.cluster (w / 8)).weave; v.queue.isEmpty && v.checked.isNone) &&
  l.groups.all (fun g => !s.groupBusy g.1 g.2) &&
  s.dies.all fun d => d.2.groups.all fun g => g.2.reds.all fun r => r.all fun a => !cores.contains a.who

/-- A thread after the slots of a channel have returned to their pool: it holds none of them (R424, R267). -/
def Thread.loseSlots (num : Nat) (t : Thread) : Thread :=
  { t with
    held := t.held.filter fun h => h.1.chan != some num
    act := t.act.map fun a => if a.slot.chan == some num then { a with freed := true } else a }

/-- Unbinds a launch: mappings, lists, channels, groups, barriers, cores. A core that was killed is whole again. -/
def unbind (id : Nat) (l : Launch) : M Unit := do
  let cores := l.stages.flatMap (·.cores)
  cores.forM fun w => do
    removeMaps w l.ctx
    dropOwned w fun x => x.ctx == l.ctx
  l.chans.forM fun pl => do
    let c := (← get).channel pl.1 pl.2
    if c.remote.isNone && isDevKernel c.receiver then
      modCore c.receiver fun x => { x with inbox := { x.inbox with
        pending := x.inbox.pending.filter fun p => p.slot.chan != some pl.2 } }
      modify fun s => { s with flights := s.flights.filter fun fl => !(fl.dst == c.receiver && fl.place.map (·.1) == some pl.2) }
      modify fun s => { s with threads := s.threads.map fun p =>
        if p.1 / 8 = c.receiver then (p.1, p.2.loseSlots pl.2) else p }
    modDie pl.1 fun d => { d with chans := d.chans.del pl.2 }
    forgetKeys pl.1 pl.2
  l.groups.forM fun g => modDie g.1 fun d => { d with groups := d.groups.del g.2 }
  l.bars.forM fun b => modDie b.1 fun d => { d with bars := d.bars.del b.2 }
  cores.forM fun w => modCore w fun c =>
    if c.held.map (·.1) = some id then
      { c with held := none, killed := false, undeclared := false, inbox := { c.inbox with eps := [], pending := [] } }
    else c

/-- What a front end does once a launch has begun to fail or to be cancelled (R318, R320): a failing one freezes its queue, and
its early dependents go with it. -/
def sayFailing (id : Nat) (l : Launch) : M Unit := do
  modLaunch id fun l => { l with unsaid := false }
  if l.failing then freezeQueue l.die l.queue l.entry 0x10
  cancelDependents (← get).launches.length id

/-- LAUNCH_DONE (R317, R320). -/
def launchDone (id : Nat) : M Unit := do
  let s ← get
  match s.launch? id with
  | none => pure ()
  | some l =>
    if l.unsaid then sayFailing id l
    else if l.st = .draining && launchIdle s id l && !s.ctxHalted l.ctx then
      unbind id l
      if l.failing then faultLaunch id 0x20
      else if l.cancelling then cancelLaunch id
      else endLaunch id .done 0

/-- The meaning of `launchDone`. -/
def execLaunchDone (id : Nat) (s : State) : Host.Outcome State Fault Refusal :=
  match frontScope (2 ^ 35 + id) (launchDone id) s with
  | .ok _ s' => .next s'
  | .error _ s' => .next s'

/-! ## DICT and KLOAD (R323) -/

/-- Whether the control word of DICT or KLOAD breaks a limit. -/
def imageBad (bank : Bool) (z : Word) : Bool :=
  let first := if bank then bits z 7 0 else bits z 9 0
  let n := if bank then bits z 17 9 else bits z 20 10
  let cap := if bank then 256 else 1024
  bits z 63 35 != 0 || (bank && (bits z 8 8 != 0 || bits z 20 18 != 0)) || n == 0 || decide (cap < n) ||
    decide (cap < first + n)

/-- Adds words to a table from index `i` on. -/
def putWords (t : Store (BitVec 32)) (i : Nat) : List (BitVec 32) → Store (BitVec 32)
  | [] => t
  | w :: ws => putWords (t.put i w) (i + 1) ws

/-- Reads `n` words one by one, as loads of width W with THRU (R123, R323). -/
def readWords (va n : Nat) : M (List Byte) := do
  let g ← threadAgent
  let parts ← (List.range n).mapM fun i => do
    let a := (va + 4 * i) % 2 ^ 52
    let fi := accessInfo 2 false false 3 false false
    if a % 4 ≠ 0 then trap .misalign 0 (BitVec.ofNat 64 a) fi
    readVa g a 4 fi
  return parts.flatMap id

/-- DICT and KLOAD. -/
def imageForm (bank : Bool) (d a : Reg) (len : Nat) : M Unit := straight len do
  let x ← readP a
  let z ← readP (a + 1)
  checkDest d
  let k ← me
  let who := bits z 34 21
  remoteScope k do
    if isHub (k / 8) || isHub who || dieOf who ≠ dieOf (k / 8) then writeG d 1
    else if imageBad bank z then writeG d 2
    else
      release k .package
      let first := if bank then bits z 7 0 else bits z 9 0
      let bs ← readWords (vaOf x) (if bank then bits z 17 9 else bits z 20 10)
      let ws := ((if bank then bankWords bs else dictWords bs).map (·.2))
      modCore who fun c =>
        if bank then { c with bank := putWords c.bank first ws } else { c with dict := putWords c.dict first ws }
      writeG d 0

/-- DICT. -/
def doDict (d a : Reg) (len : Nat) : M Unit := imageForm false d a len

/-- The meaning of `dict`. -/
def execDict (d a : Reg) (s : State) : Host.Outcome State Fault Refusal := finish (doDict d a 4) s

/-- KLOAD. -/
def doKload (d a : Reg) (len : Nat) : M Unit := imageForm true d a len

/-- The meaning of `kload`. -/
def execKload (d a : Reg) (s : State) : Host.Outcome State Fault Refusal := finish (doKload d a 4) s

end Sys2Proof.Machine
end

