-- ==== Sys2Proof/Machine/Queues.lean ====
section
/-! DEFINITION. Queues: the resident set, taking entries, and their commands (R324 to R335). -/

namespace Sys2Proof.Machine

/-- The agent of a queue's front end. -/
def queueAgent (die q : Nat) : Agent := frontAgent die (q / 512) (2 ^ 30 + q)

/-- Sequence of an index in a ring (R326). -/
def seqOf (i size : Nat) : Nat := (i / max size 1 + 1) % 2 ^ 32

/-- Address of the slot of an index (R325). -/
def slotAddr (r : Queue) (i : Nat) : Nat := (r.base + 64 * (i % max r.size 1)) % 2 ^ 52

/-! ## The resident set (R324, R325, R331, R333, R335) -/

/-- Whether a queue holds a resident slot. -/
def Queue.resides (q : Queue) : Bool := q.st == .resident || q.st == .active || q.st == .waiting

/-- Resident queues of a die. -/
def residents (s : State) (die : Nat) : Nat := ((s.die die).queues.filter fun q => q.2.resides).length

/-- Learns where the notify block of a context lies (R328). -/
def learnNotify (die ctx : Nat) : M Unit := do
  let nbase ← contextField die ctx 16 8
  if !isLocal (vaOf (BitVec.ofNat 64 nbase)) then
    match ← attempt (translate (frontAgent die ctx 0).v (nbase % 2 ^ 52) {} 0 0) with
    | .error _ => pure ()
    | .ok page =>
      match page.home (nbase % 2 ^ 52) with
      | .phys pa => modify fun s => { s with notifyAt := (ctx, pa) :: s.notifyAt.filter fun p => p.1 != ctx }
      | .remote _ _ => pure ()

/-- The queue-table entry of a queue: its header block, if the entry is valid and names this die (R324). -/
def tableHdr (die q : Nat) : M (Option Nat) := do
  let qtab ← contextField die (q / 512) 8 8
  match ← attempt (readPlain (queueAgent die q) ((qtab + 16 * (q % 512)) % 2 ^ 52) 16) with
  | .error _ => return none
  | .ok bs =>
    let f := fieldOf bs
    if f 8 1 < 8 && f 9 1 = die && f 10 1 = 1 && f 11 5 = 0 then return some (f 0 8) else return none

/-- Whether a ring header block is malformed (R325, R330). -/
def ringBad (hdr : Nat) (bs : List Byte) : Bool :=
  let f := fieldOf bs
  let size := f 16 4
  decide (size < 16) || decide (65536 < size) || size != 2 ^ size.log2 || f 24 8 % 64 != 0 || f 4 4 != 0 || f 12 4 != 0 ||
    f 20 4 != 0 || f 38 26 != 0 || hdr % 64 != 0

/-- SWAPIN (R331, R333); answers the status. A command that was taken goes on from where it waits. -/
def swapIn (die q prio : Nat) : M Nat := do
  let s ← get
  let r := s.queue die q
  if r.st ≠ .idle && r.st ≠ .ready then return 1
  else
    match ← tableHdr die q with
    | none => return 1
    | some hdr =>
      if residents (← get) die ≥ 16 then return 2
      else
        learnNotify die (q / 512)
        match ← attempt (readPlain (queueAgent die q) (hdr % 2 ^ 52) 64) with
        | .error _ =>
          modQueue die q fun x => { x with hdr := some hdr, prio := prio }
          stopQueue die q r.rd.toNat 7 false
        | .ok bs =>
          let f := fieldOf bs
          modQueue die q fun x => { x with hdr := some hdr, prio := prio, size := f 16 4, base := f 24 8 }
          if ringBad hdr bs then stopQueue die q (f 0 4) 6 false
          else modQueue die q fun x => { x with
            st := if x.wait.isSome then .waiting else if x.inHand.isSome then .active else .resident
            rd := BitVec.ofNat 32 (f 0 4)
            notify := true }
        return 0

/-- SWAPOUT (R331): the entry in hand is finished first. -/
def swapOut (die q : Nat) : M Nat := do
  match ((← get).queue die q).st with
  | .resident | .waiting =>
    leaveSet die q .ready
    return 0
  | .active => throw .stall
  | _ => return 1

/-- Clears QSTATE and ERRCODE and makes the queue READY (R331, R335). -/
def makeReady (die q : Nat) : M Unit := do
  match ((← get).queue die q).hdr with
  | some h => unreported (writeVa (queueAgent die q) ((h + 36) % 2 ^ 52) [0, 0])
  | none => pure ()
  modQueue die q fun x => { x with st := .ready }

/-- RESTART (R335). -/
def restartQueue (die q : Nat) : M Nat := do
  let r := (← get).queue die q
  if r.st ≠ .error then return 1
  else match ← attempt (readPlain (queueAgent die q) (r.hdr.getD 0 % 2 ^ 52) 64) with
    | .error _ => return 1
    | .ok bs =>
      modQueue die q fun x => { x with rd := BitVec.ofNat 32 (fieldOf bs 0 4) }
      makeReady die q
      return 0

/-- THAW (R331). -/
def thawQueue (die q : Nat) : M Nat := do
  if ((← get).queue die q).st ≠ .frozen then return 1
  else
    makeReady die q
    return 0

/-- Runs a QCMD action of a thread and records its status (R333). A hub core has no die: status 3. -/
def queueCommand (t : Nat) (action : Nat → M Nat) : M Unit := do
  let st ← if isHub (t / 8) then pure 3 else frontScope t (action (dieOf (t / 8)))
  modThread t fun x => { x with kern := { x.kern with qstat := BitVec.ofNat 2 st } }

/-- Number of a queue. -/
def queueKey (ctx : BitVec 16) (q : BitVec 9) : Nat := ctx.toNat * 512 + q.toNat

/-- The meaning of `swapin`. -/
def execSwapin (t : Nat) (ctx : BitVec 16) (q : BitVec 9) (prio : BitVec 3) (s : State) : Host.Outcome State Fault Refusal :=
  finish (queueCommand t fun die => swapIn die (queueKey ctx q) prio.toNat) s

/-- The meaning of `swapout`. -/
def execSwapout (t : Nat) (ctx : BitVec 16) (q : BitVec 9) (s : State) : Host.Outcome State Fault Refusal :=
  finish (queueCommand t fun die => swapOut die (queueKey ctx q)) s

/-- The meaning of `restart`. -/
def execRestart (t : Nat) (ctx : BitVec 16) (q : BitVec 9) (s : State) : Host.Outcome State Fault Refusal :=
  finish (queueCommand t fun die => restartQueue die (queueKey ctx q)) s

/-- The meaning of `thaw`. -/
def execThaw (t : Nat) (ctx : BitVec 16) (q : BitVec 9) (s : State) : Host.Outcome State Fault Refusal :=
  finish (queueCommand t fun die => thawQueue die (queueKey ctx q)) s

/-- A CRW to QCMD (R333). -/
def writeQcmd (k : Nat) (v : Word) : M Unit :=
  queueCommand k fun die => do
    let q := bits v 31 16 * 512 + bits v 8 0
    if bits v 15 9 ≠ 0 || bits v 63 38 ≠ 0 then return 3
    else match bits v 34 32 with
      | 0 => swapIn die q (bits v 37 35)
      | 1 => swapOut die q
      | 2 => restartQueue die q
      | 3 => thawQueue die q
      | _ => return 3

/-! ## Taking an entry (R326, R328 to R332) -/

/-- What an entry is found to be. -/
inductive Head where
  | unpublished
  /-- A LAUNCH that is not taken while 32 launches of the queue are non-final. -/
  | held
  | error (code : Nat)
  | entry (kind : Nat) (bytes : List Byte)
  deriving DecidableEq, Repr

/-- Whether the body of a command breaks R326. -/
def bodyBad (kind : Nat) (bs : List Byte) : Bool :=
  let used := match kind with | 1 => 16 | 2 => 24 | 3 => 16 | 4 => 40 | _ => 8
  (bs.drop used).any (· != 0) || (kind == 4 && fieldOf bs 28 4 != 0)

/-- Launches of a queue that are not final (R326). -/
def liveLaunches (r : Queue) : Nat := (r.live.filter fun x => decide (x < 2 ^ 32)).length

/-- Reads and checks the head entry of a queue (R329). -/
def readHead (die q : Nat) (r : Queue) : M Head := do
  let g := queueAgent die q
  let a := slotAddr r r.rd.toNat
  match ← attempt (readPlain g a 8) with
  | .error _ => return .error 7
  | .ok h =>
    let seq := fieldOf h 4 4
    let old := seqOf ((r.rd.toNat + 2 ^ 32 - r.size) % 2 ^ 32) r.size
    if seq = 0 || seq = old then return .unpublished
    else if seq ≠ seqOf r.rd.toNat r.size then return .error 5
    else if fieldOf h 0 2 = 1 && fieldOf h 2 2 / 2 = 0 && decide (32 ≤ liveLaunches r) then return .held
    else match ← attempt (readPlain g (a + 8) 56) with
      | .error _ => return .error 7
      | .ok body =>
        let kind := fieldOf h 0 2
        if kind ≥ 0xF000 then return .error 1
        else if kind = 0 || kind > 5 then return .error 2
        else if fieldOf h 2 2 / 2 ≠ 0 then return .error 3
        else if bodyBad kind (h ++ body) then return .error 4
        else return .entry kind (h ++ body)

/-- Publishes RD in the header block of a queue with THRU (R329). -/
def publishRd (die q : Nat) (rd : BitVec 32) : M Unit := do
  match ((← get).queue die q).hdr with
  | some h => unreported (writeVa (queueAgent die q) (h % 2 ^ 52) (leBytes 4 rd.toNat))
  | none => pure ()

/-- The front end begins to examine a queue: it clears the queue's notify bit (R328). One that it looks at already, and whose
memory it waits for, keeps a bit that was set since. -/
def beginLook (die q : Nat) : M Unit := do
  if !((← get).queue die q).looking then
    modify fun s => { s with notified := s.notified.filter (· != q) }
    modQueue die q fun x => { x with notify := false, looking := true }

/-- The front end looks at a queue; `true` once it has taken an entry or stopped the queue. -/
def examine (die q : Nat) : M Bool := do
  let r := (← get).queue die q
  let head ← readHead die q r
  modQueue die q fun x => { x with looking := false }
  match head with
  | .unpublished => return false
  | .held =>
    modQueue die q fun x => { x with notify := true }
    return false
  | .error code =>
    stopQueue die q r.rd.toNat code false
    return true
  | .entry kind bs =>
    publishRd die q (r.rd + 1)
    modQueue die q fun x => { x with
      st := .active, rd := r.rd + 1, notify := true, inHand := some { kind := kind, bytes := bs, idx := r.rd.toNat } }
    return true

/-- Whether a launch of a queue has failed and the queue is about to freeze (R318). -/
def State.freezing (s : State) (die q : Nat) : Bool :=
  s.launches.any fun l => l.2.die == die && l.2.queue == q && l.2.failing && l.2.unsaid

/-- The queues that a front end may look at, in the order of R332: by priority, and within a priority round robin after the
one it chose last. -/
def queueOrder (s : State) (die : Nat) : List Nat :=
  let d := s.die die
  let ready := d.queues.filter fun q =>
    q.2.st == .resident && (q.2.notify || q.2.looking || s.notified.contains q.1) && !s.ctxHalted (q.1 / 512) &&
      !s.freezing die q.1
  (List.range 8).reverse.flatMap fun p =>
    let last := d.turn.find? p
    let mine := (ready.filter fun q => q.2.prio == p).map (·.1)
    let after' := fun q => match last with | some t => decide (t < q) | none => true
    mine.filter after' ++ mine.filter fun q => !after' q

/-- An event of a front end whose memory must be waited for gives nothing yet. -/
def orLater (m : M Bool) : M Bool := fun s =>
  match m s with
  | .error .stall s' => .ok false s'
  | r => r

/-- Looks at a queue; one whose memory must be waited for gives nothing yet. -/
def tryExamine (die q : Nat) : M Bool := do
  beginLook die q
  orLater (frontScope (queueAgent die q).k (examine die q))

/-- Looks at queues until one gives an entry. -/
def takeFirst (die : Nat) : List Nat → M Unit
  | [] => pure ()
  | q :: qs => do
    if (← contextState die (q / 512)) % 8 ≠ 3 then takeFirst die qs
    else
      let prio := ((← get).queue die q).prio
      if ← tryExamine die q then modDie die fun d => { d with turn := d.turn.put prio q }
      else takeFirst die qs

/-- QUEUE_ENTRY_TAKE (R329, R332): one entry at a time. -/
def execQueueEntryTake (die : BitVec 2) (s : State) : Host.Outcome State Fault Refusal :=
  if (s.die die.toNat).queues.any fun q => q.2.st == .active then .next s
  else match takeFirst die.toNat (queueOrder s die.toNat) s with
    | .ok _ s' => .next s'
    | .error _ s' => .next s'

/-! ## Commands (R326) -/

/-- SERIAL of a command. -/
def Command.serial (c : Command) : Bool := (fieldOf c.bytes 2 2).testBit 0

/-- A command is done or started: the queue may take its next entry. -/
def proceed (die q : Nat) : M Unit := modQueue die q fun x => { x with st := .resident, inHand := none, wait := none }

/-- A command must wait (R331): the queue is WAITING, and QWAIT goes to the device kernel where it was ACTIVE. -/
def holdQueue (die q : Nat) (w : QWait) : M Unit := do
  let r := (← get).queue die q
  modQueue die q fun x => { x with st := .waiting, wait := some w }
  let idx := match r.inHand with | some c => c.idx | none => r.rd.toNat
  if r.st = .active then
    sendSystemFrom (.front die) (die * 2048) die 14 (faultMessage (die * 2048) 8 0 (q / 512) (q % 512) (slotAddr r idx))

/-- LAUNCH: the launch enters QUEUED. Its header tells whether it depends on the one before (R309). -/
def startLaunch (die q : Nat) (c : Command) : M Unit := do
  let g := queueAgent die q
  let record := fieldOf c.bytes 8 8
  let h ← match ← attempt (readPlain g (record % 2 ^ 52) 64) with
    | .ok h => pure (some h)
    | .error _ => pure none
  let flags := match h with | some h => fieldOf h 1 1 | none => 0
  let r := (← get).queue die q
  let id := (← get).launches.length
  let l : Launch :=
    { ctx := q / 512, die := die, queue := q, record := record, dep := flags.testBit 0, early := flags.testBit 1,
      pred := r.lastLaunch, entry := c.idx
      doneobj := h.map fun h => fieldOf h 48 8 % 2 ^ 52 }
  modify fun s => { s with launches := s.launches.put id l }
  modQueue die q fun x => { x with live := x.live ++ [id], lastLaunch := some id }
  proceed die q

/-- COPY: an engine of the queue's context (R283, R326). -/
def startCopy (die q : Nat) (c : Command) : M Unit := do
  let f := fieldOf c.bytes
  modify fun s =>
    let e : Engine :=
      { id := s.engineSeq, op := .qcopy (f 8 8 % 2 ^ 52) (f 16 8 % 2 ^ 52) (f 24 4) (die * 2 ^ 26 + q) c.idx,
        thread := die * 2048 * 8, obj := BitVec.ofNat 64 (f 32 8 % 2 ^ 52), fn := 0x0A, ctx := q / 512, user := true }
    { s with engines := s.engines ++ [e], engineSeq := s.engineSeq + 1 }
  let id := (← get).engineSeq - 1
  modQueue die q fun x => { x with live := x.live ++ [2 ^ 32 + id] }
  proceed die q

/-- SIGNAL: the add, once every earlier command has completed; an address that is no completion object takes none (R136; log
entry 61). -/
def performSignal (die q : Nat) (c : Command) : M Unit := do
  let obj := fieldOf c.bytes 8 8 % 2 ^ 52
  if objectAt obj then
    unreported (engineAtomic (queueAgent die q) obj { op := 16, wide := true, b := 0, b1 := 0 })
  proceed die q

/-- A WAIT stops its queue (R330): RD goes back to its entry (log entry 84). -/
def failWait (die q idx code : Nat) : M Unit := do
  modQueue die q fun x => { x with rd := BitVec.ofNat 32 idx, inHand := none, wait := none }
  publishRd die q (BitVec.ofNat 32 idx)
  stopQueue die q idx code false

/-- WAIT: reads the object; it is met, faulted, or still to wait for. -/
def checkWait (die q : Nat) (obj target idx : Nat) (first : Bool) : M Unit := do
  match ← attempt (readVa (queueAgent die q) (obj % 2 ^ 52) 8) with
  | .error _ => failWait die q idx 7
  | .ok bs =>
    let w := BitVec.ofNat 64 (leNat bs)
    if w.getLsbD 63 then failWait die q idx 8
    else if target % 2 ^ 63 ≤ bits w 62 0 then proceed die q
    else if first then holdQueue die q (.count obj target)

/-- Starts the command in hand, whose earlier commands have completed if it must wait for them. -/
def startCommand (die q : Nat) (c : Command) : M Unit :=
  match c.kind with
  | 1 => startLaunch die q c
  | 2 => checkWait die q (fieldOf c.bytes 8 8) (fieldOf c.bytes 16 8) c.idx true
  | 3 => performSignal die q c
  | 4 => startCopy die q c
  | _ => proceed die q

/-- The ACTIVE queue of a die and its command, if the command is of a kind. -/
def inHandOf (s : State) (die kind : Nat) : Option (Nat × Command) :=
  (s.die die).queues.findSome? fun q =>
    if q.2.st = .active then q.2.inHand.bind fun c => if c.kind = kind then some (q.1, c) else none else none

/-- A command event of a front end. -/
def commandEvent (kind : Nat) (die : BitVec 2) (s : State) : Host.Outcome State Fault Refusal :=
  match inHandOf s die.toNat kind with
  | none => .next s
  | some (q, c) =>
    let waits := (c.serial || c.kind == 3) && !(s.queue die.toNat q).live.isEmpty
    match frontScope (queueAgent die.toNat q).k
        (if waits then holdQueue die.toNat q .launches else startCommand die.toNat q c) s with
    | .ok _ s' => .next s'
    | .error _ s' => .next s'

/-- The meaning of `launchCommand`. -/
def execLaunchCommand (die : BitVec 2) (s : State) : Host.Outcome State Fault Refusal := commandEvent 1 die s

/-- The meaning of `waitCommand`. -/
def execWaitCommand (die : BitVec 2) (s : State) : Host.Outcome State Fault Refusal := commandEvent 2 die s

/-- The meaning of `signalCommand`. -/
def execSignalCommand (die : BitVec 2) (s : State) : Host.Outcome State Fault Refusal := commandEvent 3 die s

/-- The meaning of `copyCommand`. -/
def execCopyCommand (die : BitVec 2) (s : State) : Host.Outcome State Fault Refusal := commandEvent 4 die s

/-- The meaning of `nopCommand`. -/
def execNopCommand (die : BitVec 2) (s : State) : Host.Outcome State Fault Refusal := commandEvent 5 die s

/-- The condition of a WAITING queue is looked at again (R331). -/
def waitMet (die q : Nat) : M Unit := do
  let r := (← get).queue die q
  if r.st = .waiting && !(← get).ctxHalted (q / 512) then
    match r.wait, r.inHand with
    | some (.count obj target), c =>
      frontScope (queueAgent die q).k (checkWait die q obj target (match c with | some c => c.idx | none => 0) false)
    | some .launches, some c =>
      if r.live.isEmpty then frontScope (queueAgent die q).k (startCommand die q c)
    | _, _ => pure ()

/-- The meaning of `queueWaitMet`. -/
def execQueueWaitMet (die : BitVec 2) (k : Nat) (s : State) : Host.Outcome State Fault Refusal :=
  match waitMet die.toNat k s with
  | .ok _ s' => .next s'
  | .error _ s' => .next s'

/-! ## The end of a COPY (R283, R326) -/

/-- Whether a range meets region 0x2, which no engine reaches (R282). -/
def inSlices (va n : Nat) : Bool := (pieces va n).any fun p => regionOf p.1 == some 2

/-- The body of a COPY of a queue: its fault, if it has one. -/
def queueCopyDone (e : Engine) : M (Option Trap) := do
  match e.op with
  | .qcopy src dst n _ _ =>
    if inSlices src n || inSlices dst n || !objectAt e.obj.toNat then
      return some { cause := .page, sub := 0x10 }
    else faultOf (copyBytes e.agent src dst n)
  | _ => return none

/-- What follows a COPY of a queue: its add, where its object is one (R136), and a frozen queue if it faulted. -/
def queueCopyEnds (e : Engine) : M Unit := do
  match e.op with
  | .qcopy _ _ _ q idx => frontScope e.agent.k do
    if e.obj ≠ 0 && objectAt e.obj.toNat then
      unreported (engineAtomic e.agent e.obj.toNat { op := if e.failed.isSome then 17 else 16, wide := true, b := 0, b1 := 0 })
    modQueue (q / 2 ^ 26) (q % 2 ^ 26) fun x => { x with live := x.live.filter (· != 2 ^ 32 + e.id) }
    if e.failed.isSome then freezeQueue (q / 2 ^ 26) (q % 2 ^ 26) idx 0x11
  | _ => pure ()

/-- The meaning of `copyComplete`: a COPY of a thread, or of a queue. -/
def execCopyComplete (k : Nat) (s : State) : Host.Outcome State Fault Refusal :=
  let byQueue := s.engines.any fun e => e.id == k && (match e.op with | .qcopy _ _ _ _ _ => true | _ => false)
  if byQueue then engineEvent k (fun _ => true) (engineRun k false queueCopyDone queueCopyEnds) s
  else engineEvent k (fun op => match op with | .copy _ _ _ => true | _ => false)
    (engineRun k true copyDone fun _ => pure ()) s

end Sys2Proof.Machine
end

