-- ==== Sys2Proof/Machine/Contexts.lean ====
section
/-! DEFINITION. Contexts: CTXCMD, the stop, the save and the resume (R340 to R343, R351 to R355). -/

namespace Sys2Proof.Machine

/-! ## What a context holds -/

/-- Whether a launch of a context holds a core. -/
def State.holds (s : State) (ctx : Nat) (c : Core) : Bool :=
  match c.held with
  | some (id, _) => (match s.launch? id with | some l => l.ctx == ctx | none => false)
  | none => false

/-- The cores that a context holds. -/
def State.contextCores (s : State) (ctx : Nat) : List Nat := (s.cores.filter fun c => s.holds ctx c.2).map (·.1)

/-- An interrupt that names a context (R346): to the die's device kernel, and to HUBIRQ where HOSTMASK asks. -/
def postContextIrq (die ctx kind info : Nat) : M Unit := do
  postIrq (die * 2048) (kirqWord kind ctx info)
  let irq ← contextField die ctx 40 2
  let mask ← contextField die ctx 42 1
  if mask.testBit (kind - 1) && isHub irq && validWho irq then postIrq irq (kirqWord kind ctx info)

/-- Drops every list of a context (R196). -/
def dropContextLists (ctx : Nat) : M Unit := do
  (← get).clusters.forM fun c => do
    for n in List.range 8 do
      dropOwned (c.1 * 8 + n) fun l => l.ctx == ctx

/-! ## Byte ranges put aside -/

/-- The listed bytes of a range, at offsets from `base`. -/
def memSlice (m : Mem) (a n base : Nat) : Mem :=
  (m.filter fun c => decide (a ≤ c.1) && decide (c.1 < a + n)).map fun c => (c.1 - a + base, c.2)

/-- Puts bytes back into a range that is made zero first. -/
def memRestore (m : Mem) (a n : Nat) (part : Mem) (shift : Nat) : Mem :=
  part.foldl (fun m c => m.setByte (c.1 + shift) c.2) (m.zero a n)

/-- The ranges of a core's local stores that EVICT saves (R354), with its inbox (R352): start and length. -/
def localRanges (who : Nat) (r : CoreRegs) : List (Nat × Nat) :=
  [(placeScratch who 0, 2 ^ 16), (placeShared (who / 8) (r.clsbase.toNat % 2 ^ 20), clsSize r), (placeBase who 0, 2 ^ 13),
   (placeInbox who 0, 2 ^ 16)]

/-! ## The stop (R351, R352) -/

/-- The save block of a core (R352), if it is valid. -/
def saveBlock (die ctx who : Nat) : M (Option Nat) := do
  let tab ← contextField die ctx 24 8
  match ← readPhys (tab + 8 * (who % 8192)) 8 with
  | none => return none
  | some p => return if p = 0 || p % 2 ^ 20 ≠ 0 then none else some p

/-- A thread halts (R70, R81): its outstanding results are written first. -/
def stopThread (k : Nat) : M Unit := do
  settleAllocs k
  modThread k Thread.settle
  modThread k fun t => { t with rep := none, st := match t.st with
    | .runnable => .stopped none false
    | .parked r => .stopped (some r) false
    | .trapped => .stopped none true
    | st => st }

/-- The weave array of a cluster halts (R247, R251): arrivals are withdrawn, the running operation stops at its row, or once
the BLOADs have completed. -/
def stopWeave (cl : Nat) : M Unit := do
  withdrawArrivals cl
  let s ← get
  modWeave cl fun w => { w with queue := w.queue.map fun g =>
    if g.st = .running && s.weaveHeld cl g then { g with st := .stopped } else g }

/-- Changes every barrier of every die. -/
def mapBarriers (f : Nat → Barrier → Barrier) : M Unit :=
  modify fun s =>
    let onDie := fun (d : Nat) (v : Die) => { v with bars := v.bars.map fun b => (b.1, f d b.2) }
    { s with dies := s.dies.map fun d => (d.1, onDie d.1 d.2) }

/-- Pauses the watchdogs of barriers (R300). -/
def pauseBarriers (p : Nat → Barrier → Bool) : M Unit := do
  let now := (← get).time
  mapBarriers fun d b => if p d b && b.paused.isNone then { b with paused := some now } else b

/-- Watchdogs go on: DEADLINE moves on by the time they were paused. -/
def resumeBarriers (p : Nat → Barrier → Bool) : M Unit := do
  let now := (← get).time
  mapBarriers fun d b => match b.paused with
    | some t => if p d b then { b with paused := none, deadline := b.deadline + (now - t) } else b
    | none => b

/-- Records the status of CTXCMD, GSTOP or GRESUME with the context's STATE (R342). -/
def setCtxstat (k status state : Nat) : M Unit :=
  modThread k fun t => { t with kern := { t.kern with ctxstat := BitVec.ofNat 7 (status + state % 16 * 8) } }

/-- A context operation of a thread: its refusals, then the action, which answers the status (R342, R351, R355). -/
def contextCommand (k ctx : Nat) (malformed : Bool) (action : Nat → Nat → M Nat) : M Nat := do
  if isHub (k / 8) then
    setCtxstat k 4 (← contextState (dieOf (k / 8)) ctx)
    return 4
  else if malformed || ctx = 0 then
    setCtxstat k 3 (← contextState (dieOf (k / 8)) ctx)
    return 3
  else
    let die := dieOf (k / 8)
    let st ← frontScope k (do action die (← contextState die ctx))
    setCtxstat k st (← contextState die ctx)
    return st

/-- Whether a core holds an activation: bound, PENDING or awaiting its commit (R75). -/
def State.holdsActivations (s : State) (who : Nat) : Bool :=
  (List.range 8).any (fun h => (s.thread (who * 8 + h)).act.isSome) ||
  (s.core who).inbox.pending.any (fun p => p.slot.chan.isSome) ||
  (s.die (dieOf who)).awaiting.any fun w => w.who == who

/-- The action of GSTOP on a context (R351). -/
def beginStop (k ctx obj die state : Nat) : M Nat := do
  if state % 8 ≠ 3 then return 1
  else
    let s ← get
    let cores := s.contextCores ctx
    let blocks ← (cores.filter s.holdsActivations).mapM fun w => saveBlock die ctx w
    if blocks.any Option.isNone then return 2
    else
      setContextState die ctx 4
      let t ← getThread k
      let note : Stopping := { thread := k, obj := BitVec.ofNat 64 obj, user := !t.kern.kmode, tctx := t.kern.ctxid.toNat }
      modify fun s => { s with stopping := s.stopping.put ctx note }
      let halt := fun w => (List.range 8).forM fun h => stopThread (w * 8 + h)
      cores.forM halt
      (cores.map (· / 8)).eraseDups.forM stopWeave
      pauseBarriers fun _ b => b.ctx == ctx
      return 0

/-- GSTOP (R351). -/
def doGstop (d a : Reg) (len : Nat) : M Unit := straight len do
  let x ← readP a
  let y ← readP (a + 1)
  checkDest d
  forbidCollecting
  let k ← me
  let obj ← checkObject y
  let st ← contextCommand k (bits x 15 0) (bits x 63 16 != 0) fun die state => beginStop k (bits x 15 0) obj die state
  writeG d (BitVec.ofNat 64 st)

/-- The meaning of `gstop`. -/
def execGstop (d a : Reg) (s : State) : Host.Outcome State Fault Refusal := finish (doGstop d a 4) s

/-- Whether everything that a stop waits for has ended (R351): engines of its threads, messages to or from its cores, a
commit that has begun. -/
def stopReady (s : State) (ctx : Nat) : Bool :=
  let cores := s.contextCores ctx
  !s.engines.any (fun e => cores.contains (e.thread / 8) && (match e.op with | .qcopy _ _ _ _ _ => false | _ => true)) &&
  !s.flights.any (fun fl => cores.contains fl.dst || cores.contains fl.src) &&
  !s.dies.any fun d => d.2.awaiting.any fun w => w.ctx == ctx && w.work.isSome

/-- Saves the pool slices of a thread and frees its groups (R216). -/
def saveLanes (k : Nat) : M Mem := do
  let t ← getThread k
  let cl := k / 64
  let m := (← get).mem
  let part := t.vec.groups.zipIdx.flatMap fun g => memSlice m (placePool cl g.1 0) (2 ^ 13) (g.2 * 2 ^ 13)
  modCluster cl fun c => { c with pool := c.pool.filter fun p => !t.vec.groups.contains p.1 }
  modThread k fun t => { t with vec := { t.vec with groups := [] } }
  return part

/-- Writes lines of a core's save block (R352; log entry 87): `false` if a write is aborted. -/
def writeBlock (p : Nat) (image : List (BitVec 14 × BitVec 512)) : M Bool :=
  image.foldlM (fun ok x => do
    match ← serve { kind := .wrh, src := { who := 0, ctx := 0, engine := true }, pline := p / 64 + x.1.toNat,
                    mask := BitVec.allOnes 64, data := x.2 } with
    | .ok _ => return ok
    | .error _ => return false) true

/-- What the implementation writes into a save block (log entry 87). -/
def nextImage : M (List (BitVec 14 × BitVec 512)) := do
  let s ← get
  set { s with run := { s.run with free := s.run.free + 1 } }
  return Config.saveImage s.run.free

/-- Saves a core (R352), with what the implementation writes into its block. A block whose writes are aborted, or that is not
valid though the core holds activations, kills the core (R351). -/
def saveCoreAs (image : List (BitVec 14 × BitVec 512)) (die ctx who : Nat) : M Bool := do
  let ok ← match ← saveBlock die ctx who with
    | none => pure !((← get).holdsActivations who)
    | some p => if (← get).hasMemory p then writeBlock p image else pure false
  if !ok then
    killCore who 0x13 false
    modify fun s => { s with saved := s.saved ++ [{ ctx := ctx, who := who, dropped := true }] }
    return false
  else
    let lanes ← (List.range 8).mapM fun h => do return (who * 8 + h, ← saveLanes (who * 8 + h))
    modify fun s => { s with saved := s.saved ++ [{ ctx := ctx, who := who, lanes := lanes }] }
    return true

/-- Saves a core (R352). -/
def saveCore (die ctx who : Nat) : M Bool := do saveCoreAs (← nextImage) die ctx who

/-- The sequencers of a context's clusters have halted (R251). -/
def haltWeaves (ctx : Nat) : M Unit := do
  (((← get).contextCores ctx).map (· / 8)).eraseDups.forM fun cl => modWeave cl fun w =>
    { w with queue := w.queue.map fun g => if g.st = .running then { g with st := .stopped } else g }

/-- The save of a stopping context completes (R351). -/
def saveDone (ctx : Nat) : M Unit := do
  let s ← get
  match s.stopping.find? ctx with
  | none => pure ()
  | some x =>
    if stopReady s ctx then
      let die := dieOf (x.thread / 8)
      haltWeaves ctx
      let ok ← (s.contextCores ctx).mapM fun w => saveCore die ctx w
      setContextState die ctx 5
      modify fun s => { s with stopping := s.stopping.del ctx }
      let e : Engine := { id := 0, op := .free 0 0, thread := x.thread, obj := x.obj, fn := 6, ctx := x.tctx, user := x.user }
      match ← completionAdd { e.agent with k := 2 ^ 36 + ctx } x.obj.toNat (ok.any (!·)) with
      | .error t => engineFault e t x.obj.toNat
      | .ok () => pure ()

/-- GANG_STOP_SAVE_DONE (R351). -/
def execGangStopSaveDone (ctx : BitVec 16) (s : State) : Host.Outcome State Fault Refusal :=
  match frontScope (2 ^ 36 + ctx.toNat) (saveDone ctx.toNat) s with
  | .ok _ s' => .next s'
  | .error _ s' => .next s'

/-! ## The resume (R216, R355) -/

/-- The groups that a thread needs for its saved VLEN. -/
def groupsWanted (t : Thread) : Nat := t.vec.vlen / 8 - 1

/-- The state in which a thread goes on (R70): what was parked issues again, but for a thread that waits for RESUME, and an
arrival whose operation joins later. -/
def resumedState (s : State) (k : Nat) (st : RunState) : RunState :=
  match st with
  | .stopped _ true => .trapped
  | .stopped (some .fpx) false => .parked .fpx
  | .stopped (some .gang) false =>
    match (s.cluster (k / 64)).weave.checked with
    | some (_, arr) => if arr.any (fun a => a.thread == k) then .parked .gang else .runnable
    | none => .runnable
  | .stopped _ false => .runnable
  | st => st

/-- Gives a thread its groups and slices back (R216). -/
def restoreLanes (k : Nat) (part : Mem) : M Unit := do
  let t ← getThread k
  let cl := k / 64
  let gs := (← getCluster cl).freeGroups.take (groupsWanted t)
  modCluster cl fun c => { c with pool := gs.foldl (fun p g => p.put g k) c.pool }
  gs.zipIdx.forM fun g => modify fun s =>
    let mine := part.filter fun c => decide (g.2 * 2 ^ 13 ≤ c.1) && decide (c.1 < (g.2 + 1) * 2 ^ 13)
    let low := mine.map fun c => (c.1 - g.2 * 2 ^ 13, c.2)
    { s with mem := memRestore s.mem (placePool cl g.1 0) (2 ^ 13) low (placePool cl g.1 0) }
  modThread k fun t => { t with vec := { t.vec with groups := gs } }

/-- The tile columns, queue and records of a core's weave array come back (R251, R352). A slab that another launch has loaded
since is LOST (R239, R354). -/
def restoreWeave (who : Nat) (old : Weave) (rebound : Bool) : M Unit :=
  modWeave (who / 8) fun w =>
    let n := who % 8
    let mine := fun (k : Nat) => k % 128 / 16 == n
    let w := { w with
      acc := (old.acc.filter fun x => mine x.1).foldl (fun a x => a.put x.1 x.2) (w.acc.filter fun x => !mine x.1)
      armed := (w.armed.filter fun x => x % 8 != n) ++ old.armed.filter fun x => x % 8 == n
      bfault := match old.bfault.find? n with | some f => w.bfault.put n f | none => w.bfault.del n
      slabs := w.slabs.map fun x =>
        if rebound && x.1 / 2048 == n && x.2.st == .valid then (x.1, { x.2 with st := .lost }) else x }
    if n = 0 then { w with queue := old.queue, checked := old.checked, nextId := max w.nextId old.nextId,
                           drop0 := old.drop0, drop1 := old.drop1 } else w

/-- Restores what EVICT put aside (R354, R355). -/
def restoreCore (v : Saved) : M Unit := do
  match v.evicted with
  | none => pure ()
  | some (c, w) =>
    modCore v.who fun now => { c with l1 := now.l1, tlb := now.tlb }
    v.threads.forM fun t => modThread t.1 fun _ => t.2
    (localRanges v.who c.regs).forM fun r => modify fun s =>
      { s with mem := memRestore s.mem r.1 r.2 (memSlice v.stores r.1 r.2 0) r.1 }
    restoreWeave v.who w v.rebound

/-- Whether every thread that is to be resumed in a cluster finds its groups (R216). -/
def groupsReady (s : State) (vs : List Saved) : Bool :=
  ((vs.map fun v => v.who / 8).eraseDups).all fun cl =>
    let need := vs.foldl (fun n v => if v.who / 8 = cl then
      n + v.lanes.foldl (fun m l => m + groupsWanted ((v.threads.lookup l.1).getD (s.thread l.1))) 0
      else n) 0
    decide (need ≤ (s.cluster cl).freeGroups.length)

/-- The action of GRESUME on a context (R355). -/
def resumeContext (k ctx die state : Nat) : M Nat := do
  let s ← get
  let vs := s.saved.filter fun v => v.ctx == ctx && !v.dropped
  if state % 8 ≠ 5 then return 1
  else if state ≥ 8 && (s.saved.any fun v => v.ctx == ctx && v.evicted.isSome && (s.core v.who).held.isSome) then return 5
  else if !groupsReady s vs then throw .stall
  else
    release k .package
    vs.forM restoreCore
    (s.saved.filter fun v => v.ctx == ctx && v.dropped).forM fun v => match v.evicted with
      | some e => modCore v.who fun c => { c with held := e.1.held, killed := e.1.killed, undeclared := e.1.undeclared }
      | none => pure ()
    vs.forM fun v => v.lanes.forM fun l => restoreLanes l.1 l.2
    vs.forM fun v => (List.range 8).forM fun h =>
      modify fun s => s.setThread (v.who * 8 + h)
        { s.thread (v.who * 8 + h) with st := resumedState s (v.who * 8 + h) (s.thread (v.who * 8 + h)).st }
    (vs.map fun v => v.who / 8).eraseDups.forM fun cl => modWeave cl fun w =>
      { w with queue := w.queue.map fun g => if g.st = .stopped then { g with st := .running, unchecked := true } else g }
    resumeBarriers fun d b => b.ctx == ctx && (s.die d).regs.power != .trip
    modify fun s => { s with saved := s.saved.filter fun v => v.ctx != ctx }
    setContextState die ctx 3
    acquire k .package
    return 0

/-- GRESUME (R355). -/
def doGresume (d a : Reg) (len : Nat) : M Unit := straight len do
  let x ← readP a
  checkDest d
  forbidCollecting
  let k ← me
  let st ← contextCommand k (bits x 15 0) (bits x 63 16 != 0) fun die state => resumeContext k (bits x 15 0) die state
  writeG d (BitVec.ofNat 64 st)

/-- The meaning of `gresume`. -/
def execGresume (d a : Reg) (s : State) : Host.Outcome State Fault Refusal := finish (doGresume d a 4) s

/-! ## CTXCMD (R341, R342, R354) -/

/-- Whether a record is refused by CREATE (R342). -/
def recordBad (s : State) (f : Nat → Nat → Nat) : Bool :=
  let parts := (List.range 4).any fun d => f 34 2 / 2 ^ (3 * d) % 8 ≥ 2 ^ bits (s.die d).regs.l2mode 2 1
  f 32 1 / 16 != 0 || f 33 1 / 2 != 0 || f 34 2 / 2 ^ 12 != 0 || f 43 85 != 0 || (List.range 4).any (fun i => f (36 + i) 1 == 0) ||
    f 24 8 % 64 != 0 || (f 33 1 == 1 && parts)

/-- CREATE. -/
def createContext (ctx die state : Nat) : M Nat := do
  if state % 8 ≠ 0 && state % 8 ≠ 7 then return 1
  else
    let s ← get
    let base := recordAddr s (die * 2048) ctx
    if bits (s.die die).regs.ctxroot 41 0 = 0 then return 2
    else match ← readPhys base 64, ← readPhys (base + 64) 64 with
      | some lo, some hi =>
        if recordBad s (fun o n => (lo + hi * 2 ^ 512) / 2 ^ (8 * o) % 2 ^ (8 * n)) then return 2
        else
          setContextState die ctx 1
          return 0
      | _, _ => return 2

/-- START. -/
def startContext (ctx die state : Nat) : M Nat := do
  if state % 8 = 1 || state % 8 = 2 then
    setContextState die ctx 3
    learnNotify die ctx
    return 0
  else return 1

/-- The array without the gang operations of a context, which end DROPPED (R247, R341; log entry 88). -/
def Weave.without (ctx : Nat) (w : Weave) : Weave :=
  { w with
    queue := w.queue.filter fun g => g.ctx != ctx
    checked := w.checked.filter fun c => c.1.ctx != ctx
    arrivals := w.arrivals.filter fun a => a.ctx != ctx }

/-- RESET: cores are killed, launches end CANCELLED, queues freeze; the context becomes READY (R341). -/
def resetContext (ctx die state : Nat) : M Nat := do
  if state % 8 ≠ 3 && state % 8 ≠ 5 then return 1
  else
    setContextState die ctx 6
    let s ← get
    (s.contextCores ctx).forM fun w => do
      if s.holdsActivations w then killCore w 0 false
    ((s.contextCores ctx).map (· / 8)).eraseDups.forM fun cl => modWeave cl (Weave.without ctx)
    modify fun s => { s with saved := s.saved.filter fun v => v.ctx != ctx }
    s.launches.forM fun l => do
      if l.2.ctx = ctx && l.2.st != .done && l.2.st != .cancelled && l.2.st != .faulted then
        l.2.groups.forM fun g => settleGroup g.1 g.2
        unbind l.1 l.2
        cancelLaunch l.1
    (← get).dies.forM fun d => d.2.queues.forM fun q => do
      if q.1 / 512 = ctx && q.2.st != .frozen then stopQueue d.1 q.1 q.2.rd.toNat 0 true
    dropContextLists ctx
    setContextState die ctx 2
    postContextIrq die ctx 4 0
    return 0

/-- DESTROY. -/
def destroyContext (ctx die state : Nat) : M Nat := do
  if state % 8 = 1 || state % 8 = 2 then
    setContextState die ctx 7
    dropSpace (.ctx ctx) 0 (2 ^ 34)
    dropContextLists ctx
    return 0
  else return 1

/-- Puts a core aside (R354): its mappings are evicted, its stores saved, and it is free. Which of its slabs the device kernel
reclaims is not the machine's to say (log entry 4). -/
def evictCore (ctx who : Nat) : M Unit := do
  evictMaps who ctx
  let s ← get
  let c := s.core who
  let w := (s.cluster (who / 8)).weave
  let stores := (localRanges who c.regs).flatMap fun r => memSlice s.mem r.1 r.2 r.1
  let valid := (w.slabs.filter fun x => x.1 / 2048 == who % 8 && x.2.st == .valid).map (·.1)
  let threads := (List.range 8).map fun h => (who * 8 + h, s.thread (who * 8 + h))
  let sorted : Mem := stores.foldl (fun m x => m.setByte x.1 x.2) []
  modify fun s => { s with saved := s.saved.map fun v =>
    if v.ctx = ctx && v.who = who then
      { v with evicted := some (c, w), threads := threads, stores := sorted } else v }
  modCore who fun c => { l1 := c.l1, tlb := c.tlb, dict := c.dict, bank := c.bank, regs := c.regs
                         inbox := { headers := c.inbox.headers }, order := c.order }
  for h in List.range 8 do
    modThread (who * 8 + h) fun t => { Thread.fresh (who * 8 + h) with kern := t.kern }
  let gone ← valid.filterM fun _ => do return (← choose 2) == 1
  modWeave (who / 8) fun w => { w with
    queue := [], checked := none
    slabs := gone.foldl (fun t k => t.put k { (t.get k {}) with st := .lost }) w.slabs }

/-- EVICT writes a core's local stores into its block (R354; log entry 87). -/
def storeBlock (die ctx who : Nat) : M Unit := do
  match ← saveBlock die ctx who with
  | some p => let _ ← writeBlock p (← nextImage)
  | none => pure ()

/-- EVICT (R354). -/
def evictContext (ctx die state : Nat) : M Nat := do
  if state ≠ 5 then return 1
  else
    let cores := (← get).contextCores ctx
    cores.forM (storeBlock die ctx)
    cores.forM (evictCore ctx)
    setContextState die ctx 13
    return 0

/-- Runs a CTXCMD operation of a thread (R342). -/
def contextOp (k ctx op : Nat) (malformed : Bool) : M Unit := do
  let _ ← contextCommand k ctx malformed fun die state =>
    match op with
    | 0 => createContext ctx die state
    | 1 => startContext ctx die state
    | 2 => resetContext ctx die state
    | 3 => destroyContext ctx die state
    | _ => evictContext ctx die state

/-- A CRW to CTXCMD (R342). -/
def writeCtxcmd (k : Nat) (v : Word) : M Unit :=
  contextOp k (bits v 15 0) (bits v 18 16) (bits v 63 19 != 0 || decide (4 < bits v 18 16))

/-- The meaning of `create`. -/
def execCreate (t : Nat) (ctx : BitVec 16) (s : State) : Host.Outcome State Fault Refusal :=
  finish (contextOp t ctx.toNat 0 false) s

/-- The meaning of `start`. -/
def execStart (t : Nat) (ctx : BitVec 16) (s : State) : Host.Outcome State Fault Refusal :=
  finish (contextOp t ctx.toNat 1 false) s

/-- The meaning of `reset`. -/
def execReset (t : Nat) (ctx : BitVec 16) (s : State) : Host.Outcome State Fault Refusal :=
  finish (contextOp t ctx.toNat 2 false) s

/-- The meaning of `destroy`. -/
def execDestroy (t : Nat) (ctx : BitVec 16) (s : State) : Host.Outcome State Fault Refusal :=
  finish (contextOp t ctx.toNat 3 false) s

/-- The meaning of `evict`. -/
def execEvict (t : Nat) (ctx : BitVec 16) (s : State) : Host.Outcome State Fault Refusal :=
  finish (contextOp t ctx.toNat 4 false) s

end Sys2Proof.Machine
end

