-- ==== Sys2Proof/Machine/Migration.lean ====
section
/-! DEFINITION. Page migration: MIGCMD, the copy of one line at OLD's home, and the end of the redirection (R369, R370). -/

namespace Sys2Proof.Machine

/-- MIGSTAT (R369). -/
def Migration.stat (m : Migration) : Nat :=
  if m.refused then 3 else match m.st with | .idle => 0 | .running => 1 | .done => 2

/-- Whether GO is refused (R369): the frames by number. -/
def migrationRefused (s : State) (die old new : Nat) (both : Bool) : Bool :=
  let r := (s.die die).regs
  let first := bits r.swpool 41 18
  (s.die die).mig.st != .idle || both || old / 2 ^ 22 != die || !s.hasMemory (new * 2 ^ 18) ||
    (decide (first ≤ old) && decide (old < first + bits r.swpool 63 42)) ||
    s.homes.dir.any fun e => decide (e.1 / 4096 = old) && e.2.pinned

/-- Changes the migration engine of a die. -/
def modMig (die : Nat) (f : Migration → Migration) : M Unit := modDie die fun d => { d with mig := f d.mig }

/-- GO (R369): the engine starts, with the completion object and the issuing thread. -/
def migrationStart (k old new : Nat) (both : Bool) : M Unit := do
  let die := dieOf (k / 8)
  let s ← get
  if migrationRefused s die old new both then modMig die fun m => { m with refused := true }
  else modMig die fun _ => { st := .running, old := old, new := new, obj := (s.die die).regs.migobj, thread := k }

/-- END (R369): ignored unless the migration is done. -/
def migrationStop (k : Nat) : M Unit :=
  modMig (dieOf (k / 8)) fun m => if m.st = .done then {} else m

/-- A CRW to MIGCMD (R369). -/
def writeMigcmd (k : Nat) (v : Word) : M Unit :=
  if v.getLsbD 48 then migrationStart k (bits v 23 0) (bits v 47 24) (v.getLsbD 49)
  else if v.getLsbD 49 then migrationStop k
  else pure ()

/-- The meaning of `migrationGo`. -/
def execMigrationGo (t : Nat) (old new : BitVec 24) (s : State) : Host.Outcome State Fault Refusal :=
  finish (migrationStart t old.toNat new.toNat false) s

/-- The meaning of `migrationEnd`. -/
def execMigrationEnd (t : Nat) (s : State) : Host.Outcome State Fault Refusal := finish (migrationStop t) s

/-- Moves a line from OLD's home to NEW's home (R369): copies and registrations are recalled (R154), the bytes are copied,
and requests that wait at OLD's home go to NEW. A line that is BAD stays withheld (R399); pins follow it. -/
def moveLine (old new : Nat) (src : Source) : M Unit := do
  evictDir old
  evictDir new
  let d := (← get).dirOf old
  setDir old {}
  let line ← homeLine old
  let s ← get
  let lost := s.bad.contains old
  let waits := s.latent.contains old
  let there := (← get).dirOf new
  storeBytes Note.quiet new there (BitVec.allOnes 64) line 0 src true
  setDir new { there with owners := d.owners.foldl (fun o p => Store.put o p.1 p.2) there.owners, trace := d.trace || there.trace }
  wakeAll (waitsOn (old * 64) 64)
  modify fun s => { s with
    bad := if lost then new :: s.bad else s.bad
    latent := if waits then new :: s.latent else s.latent
    homes := { s.homes with reqs := s.homes.reqs.map fun r => if r.pline = old then { r with pline := new } else r }
    cores := s.cores.map fun c => (c.1, { c.2 with
      l1 := c.2.l1.map fun l => if l.copies old then { l with home := .here new } else l
      maps := c.2.maps.map fun e => { e with plines := e.plines.map fun p => if p = old then new else p } }) }

/-- The completion add to MIGOBJ, in the issuing thread's address space (R369). Nothing says where a failing add is
reported: it is not (log entry 42). -/
def migrationAdd (m : Migration) (die : Nat) : M Unit := do
  let g : Agent := { k := 2 ^ 36 + 2 ^ 20 + die, v := { who := m.thread / 8, user := false, ctx := 0 }, vec := {}, engine := true }
  let _ ← completionAdd g (vaOf m.obj) false

/-- Copies the next line (R369). It waits while the entry is busy or a memory has not come up; the last line sets DONE. -/
def migrationLine (die : Nat) : M Unit := do
  let s ← get
  let m := (s.die die).mig
  let old := m.old * 4096 + m.copied
  let new := m.new * 4096 + m.copied
  if m.st = .running && (s.dirOf old).busy.isNone && (s.dirOf new).busy.isNone && s.memReady old && s.memReady new then
    if m.copied < 4096 then
      moveLine old new { who := m.thread / 8, ctx := 0, engine := true }
      modMig die fun m => { m with copied := m.copied + 1 }
    if 4096 ≤ m.copied + 1 then
      migrationAdd m die
      modMig die fun m => { m with st := .done, refused := false, copied := 4096 }
      modify fun s =>
        let ctxs := (s.notifyAt.filter fun p => decide (p.2 / 2 ^ 18 = m.old)).map fun p => (p.1, p.2 % 2 ^ 18 + m.new * 2 ^ 18)
        { s with notifyAt := (s.notifyAt ++ ctxs).eraseDups }

/-- The meaning of `migrationLineCopy`. -/
def execMigrationLineCopy (die : BitVec 2) (s : State) : Host.Outcome State Fault Refusal :=
  match migrationLine die.toNat s with
  | .ok _ s' => .next s'
  | .error _ s' => .next s'

end Sys2Proof.Machine
end

