-- ==== Sys2Proof/Machine/Links.lean ====
section
/-! DEFINITION. Links to other devices and between dies: their states and registers (R388 to R390), requests from other
devices (R159, R392), and the answers to this device's own requests (R393, R394). -/

namespace Sys2Proof.Machine

/-! ## Link states (R388, R389) -/

/-- The code of a link state (R389). -/
def LinkState.code : LinkState → Nat
  | .down => 0 | .training => 1 | .up => 2 | .degraded => 3 | .failed => 4

/-- Lanes in use (R388). -/
def LinkState.lanes : LinkState → Nat
  | .up => 8 | .degraded => 4 | _ => 0

/-- A link by number: port 0 to 15, or 16 + rim path. -/
def State.link (s : State) (l : Nat) : LinkState :=
  if l < 16 then s.links.ports.toList.getD l .down else s.links.rims.toList.getD (l - 16) .down

/-- Sets a link's state. -/
def setLink (l : Nat) (st : LinkState) : M Unit :=
  modify fun s => { s with links :=
    if l < 16 then { s.links with ports := s.links.ports.setIfInBounds l st }
    else { s.links with rims := s.links.rims.setIfInBounds (l - 16) st } }

/-- The state of a rim route from its paths (R388): UP where both are, DEGRADED where exactly one is FAILED or DOWN, FAILED
where both are. Where neither is, the rule lists no state: the better path's stands for both (log entry 43). -/
def routeState (a b : LinkState) : LinkState :=
  if a = .up && b = .up then .up
  else if a.dead && b.dead then .failed
  else if a.dead || b.dead || a.works || b.works then .degraded
  else .training

/-- The state of rim route `r`. -/
def State.route (s : State) (r : Nat) : LinkState := routeState (s.link (16 + 2 * r)) (s.link (17 + 2 * r))

/-- LINKSTATp (R389). -/
def linkstat (s : State) (p : Nat) : Word :=
  BitVec.ofNat 64 ((s.link p).code + (s.link p).lanes * 8 + (s.links.resent.get p 0).toNat * 2 ^ 32)

/-- RIMSTATr (R389). -/
def rimstat (s : State) (r : Nat) : Word :=
  BitVec.ofNat 64 ((s.route r).code + (s.link (16 + 2 * r)).code * 8 + (s.link (17 + 2 * r)).code * 64
    + (s.links.resent.get (16 + r) 0).toNat * 2 ^ 32)

/-- The key of a link's count of resent flits. -/
def resentKey (l : Nat) : Nat := if l < 16 then l else 16 + (l - 16) / 2

/-- Flits in flight are resent (R388, R391). How many there were is not stated: a free value (log entry 6). -/
def resendFlits (l : Nat) : M Unit := do
  let n ← freeWord
  modify fun s => { s with links := { s.links with
    resent := s.links.resent.put (resentKey l) (s.links.resent.get (resentKey l) 0 + n.setWidth 32) } }

/-- LINKSTATE to class 14 of every reachable device kernel (R390). -/
def linkMessage (l : Nat) (st : LinkState) : M Unit := do
  let byte3 := if l < 16 then l else 0x10 + (l - 16) / 2
  let src := 0x2000
  ((← get).reachable).forM fun d => sendSystemFrom .link src d 14 (faultMessage src 0x09 byte3 0 st.code)

/-! ## Requests of this device (R391 to R394) -/

/-- Ends a request: an agent that waits gets the answer; an aborted posted store is kept for its thread's release (R124). -/
def endWait (w : LinkWait) (status : Nat) (data : List Byte) : M Unit := do
  if w.posted then
    modify fun s => { s with links := { s.links with waits := s.links.waits.filter fun x => x.id != w.id } }
    if status ≠ 0 then
      loseStore w.thread { order := w.order, faddr := w.faddr, link := some (status - 1), finfo := w.finfo }
  else
    modify fun s => { s with links := { s.links with
      waits := s.links.waits.map fun x => if x.id = w.id then { x with answer := some (status, data) } else x } }

/-- The domain-table mask that a request's core has for its device (R389). -/
def State.maskOf (s : State) (w : LinkWait) : Nat := s.domainEntry w.who w.tag

/-- Requests whose device no port reaches end with PATH (R391). -/
def endUnreachable : M Unit := do
  let s ← get
  (s.links.waits.filter fun w => w.answer.isNone && !s.portWorks (s.maskOf w) && !s.portComing (s.maskOf w)).forM fun w =>
    endWait w 1 []

/-- After a port stopped working: flits are resent on another port of the mask; a request whose device no port reaches ends
with PATH (R391). -/
def portLost (p : Nat) : M Unit := do
  resendFlits p
  endUnreachable

/-- Whether an earlier request of the same core to the same remote line is unanswered and one of the two is a write (R393). -/
def State.heldBack (s : State) (w : LinkWait) : Bool :=
  s.links.waits.any fun x =>
    decide (x.id < w.id) && x.answer.isNone && x.who == w.who && x.tag == w.tag && x.va / 64 == w.va / 64 &&
      (x.op != .load || w.op != .load)

/-- Whether a request has not been sent: an earlier one holds it back, or its ports or the rim route to
them train for the first time (R393, R410). -/
def State.unsent (s : State) (w : LinkWait) : Bool :=
  s.heldBack w || s.routeWaits (dieOf w.who) 4 || (!s.portWorks (s.maskOf w) && s.portComing (s.maskOf w))

/-- Runs `m`; requests that it lets go are sent for the first time now (R394, TIMEOUT). -/
def sending (m : M Unit) : M Unit := do
  let before ← get
  m
  modify fun s =>
    let goes := fun (w : LinkWait) => w.answer.isNone && before.unsent w && !s.unsent w
    { s with links := { s.links with
      waits := s.links.waits.map fun w => if goes w then { w with sent := s.time } else w } }

/-- A response arrives (R392, R393). One that answers nothing, or that the protocol never sends, changes nothing. -/
def response (id status : Nat) (data : List Byte) : M Unit := do
  let s ← get
  match s.links.waits.find? fun w => w.id == id && w.answer.isNone with
  | none => pure ()
  | some w =>
    let want := if status ≠ 0 then 0 else match w.op with
      | .load => w.len | .atomic => (if w.atop.testBit 7 then 8 else 4) | _ => 0
    if s.unsent w || 2 < status || data.length ≠ want then pure ()
    else sending (endWait w (if status = 0 then 0 else status + 2) data)

/-- The meaning of `linkResponse`. -/
def execLinkResponse (id : Nat) (status : BitVec 8) (data : List Byte) (s : State) : Host.Outcome State Fault Refusal :=
  agentStep (response id status.toNat data) s

/-- No response within 100 ms of the first send (R394). -/
def timeout (id : Nat) : M Unit := do
  let s ← get
  match s.links.waits.find? fun w => w.id == id && w.answer.isNone with
  | none => pure ()
  | some w => if s.unsent w || s.time < w.sent + 10 ^ 8 then pure () else sending (endWait w 6 [])

/-- The meaning of `linkTimeout`. -/
def execLinkTimeout (id : Nat) (s : State) : Host.Outcome State Fault Refusal := agentStep (timeout id) s

/-! ## Changes of a link (R388, R390) -/

/-- PORTCMD TRAIN (R388). -/
def trainPort (p : Nat) : M Unit := do
  let st := (← get).link p
  if st = .down || st = .failed then setLink p .training

/-- The meaning of `portTrain`. -/
def execPortTrain (port : BitVec 4) (s : State) : Host.Outcome State Fault Refusal := agentStep (trainPort port.toNat) s

/-- PORTCMD DOWN (R388): as for FAILED, then the port is idle. -/
def downPort (p : Nat) : M Unit := do
  let st := (← get).link p
  setLink p .down
  if st.works then portLost p else if st = .training then endUnreachable
  if st ≠ .down then linkMessage p .down

/-- The meaning of `portDown`. -/
def execPortDown (port : BitVec 4) (s : State) : Host.Outcome State Fault Refusal := agentStep (downPort port.toNat) s

/-- A CRW to PORTCMD (R389). -/
def writePortcmd (v : Word) : M Unit :=
  if v.toNat / 2 ^ 6 ≠ 0 then pure ()
  else if bits v 5 4 = 0 then trainPort (bits v 3 0)
  else if bits v 5 4 = 1 then downPort (bits v 3 0)
  else pure ()

/-- Raises a bit of RDYLINK (R409): the port, or the rim route, of a link. -/
def raiseLink (l : Nat) : M Unit :=
  modify fun s => { s with boot := { s.boot with rdylink := s.boot.rdylink ||| BitVec.ofNat 64 (2 ^ resentKey l) } }

/-- A lane is lost (R388): an UP link goes on degraded, and flits in flight are resent. -/
def loseLane (l : Nat) : M Unit := do
  if (← get).link l = .up then
    setLink l .degraded
    resendFlits l

/-- The meaning of `laneLost`. -/
def execLaneLost (link : Nat) (s : State) : Host.Outcome State Fault Refusal := agentStep (loseLane link) s

/-- The dies that rim route `r` joins (R389): two compute dies, or a compute die and the hub die, 4. -/
def routeEnds (r : Nat) : Nat × Nat :=
  match r with
  | 0 => (0, 1) | 1 => (0, 2) | 2 => (0, 3) | 3 => (1, 2) | 4 => (1, 3) | 5 => (2, 3)
  | _ => (r - 6, 4)

/-- A route became FAILED: it isolates a die (R157, R388). Which of two compute dies is the hardware's to find: the oracle's
choice (log entry 4). -/
def routeFailed (r : Nat) : M Unit := do
  let (a, b) := routeEnds r
  if b = 4 then isolateHub a
  else if (← getDie a).isolated || (← getDie b).isolated then pure ()
  else
    let c ← choose 2
    isolateDie (if c = 1 then a else b)

/-- A link fails (R388): resending or PATH for a port, the other path for a rim path, and the LINKSTATE message. -/
def failLink (l : Nat) : M Unit := do
  let s ← get
  if (s.link l).works then
    setLink l .failed
    modify fun s => { s with links := { s.links with wasFailed := (l :: s.links.wasFailed).eraseDups } }
    if l < 16 then portLost l else resendFlits l
    if 16 ≤ l then
      let r := (l - 16) / 2
      if (← get).route r = .failed then routeFailed r
    linkMessage l .failed

/-- The meaning of `linkFailure`. -/
def execLinkFailure (link : Nat) (s : State) : Host.Outcome State Fault Refusal := agentStep (failLink link) s

/-- Training fails (R388): a request whose device no port reaches ends with PATH, and a route that no path serves any more
isolates a die. -/
def untrained (l : Nat) : M Unit := do
  setLink l .down
  if l < 16 then endUnreachable
  else
    let r := (l - 16) / 2
    if (← get).route r = .failed then routeFailed r

/-- Training ends on `lanes` lanes (R388); a port or rim route that failed its bring-up never comes up (R410). A port that
became FAILED and is UP again is announced (R390). -/
def trained (l lanes : Nat) : M Unit := do
  let s ← get
  if s.link l = .training then
    if lanes < 4 || s.boot.failed.contains (.link (resentKey l)) then untrained l
    else sending do
      setLink l (if 8 ≤ lanes then .up else .degraded)
      raiseLink l
      if 8 ≤ lanes && s.links.wasFailed.contains l then
        linkMessage l .up
        modify fun s => { s with links := { s.links with wasFailed := s.links.wasFailed.filter (· != l) } }

/-- The meaning of `linkTrainingDone`. -/
def execLinkTrainingDone (link lanes : Nat) (s : State) : Host.Outcome State Fault Refusal := agentStep (trained link lanes) s

/-- A link fails its bring-up (R410): it is FAILED. -/
def failUp (l : Nat) : M Unit := do
  setLink l .failed
  modify fun s => { s with links := { s.links with wasFailed := (l :: s.links.wasFailed).eraseDups } }
  linkMessage l .failed

/-- A port, or both paths of a rim route, fail their bring-up (R157, R388, R410). -/
def failLinks (b : Nat) : M Unit := do
  if b < 16 then
    failUp b
    endUnreachable
  else if b < 26 then
    failUp (2 * b - 16)
    failUp (2 * b - 15)
    routeFailed (b - 16)

/-! ## Requests from other devices (R159, R392) -/

/-- The link agent translates as a DEVICE access of the context, with die 0's context table and L3 TLB (log entry 44). -/
def linkTranslate (ctx va : Nat) (w : Bool) : M TlbEntry := do
  let v : View := { who := 0, user := true, ctx := ctx }
  let s ← get
  if noTables s v then trap .page
  let t ← match s.l3Find 0 v.space va with
    | some t => do
      checkHit v t va 0 0
      pure t
    | none => do
      let t ← walk v va 0 0
      installL3 0 va t
      pure t
  checkPerms v t { w := w } 0 0
  return t

/-- Width in bytes of an incoming atomic. -/
def linkWidth (r : LinkReq) : Nat := if r.atop.getLsbD 7 then 8 else 4

/-- Bytes at the target that a request names. -/
def linkSpan (r : LinkReq) : Nat := if r.op = .atomic then linkWidth r else r.len

/-- Whether a request keeps the form of R392: LEN counts the bytes of data, an atomic's operands. -/
def linkFormed (r : LinkReq) : Bool :=
  decide (1 ≤ r.len) && decide (r.len ≤ 256) &&
    (match r.op with
     | .load => r.data.isEmpty
     | .store | .put => decide (r.data.length = r.len)
     | .atomic =>
       decide (r.data.length = r.len) && decide (r.len = (if r.atop.toNat % 128 = 9 then 2 else 1) * linkWidth r) &&
         decide (r.va.toNat % linkWidth r = 0) && decide (r.atop.toNat % 128 < if linkWidth r = 8 then 10 else 11))

/-- The request at home for one piece of a request. `back`: a store is a SELF write-back of its sender (R159). -/
def linkPiece (r : LinkReq) (t : TlbEntry) (pa va n : Nat) (back : Bool) : Req :=
  let o := pa % 64
  let src : Source := { who := r.who.toNat, ctx := r.ctxid.toNat, dev := some r.src.toNat }
  let q : Req := { kind := .rdh, src := src, pline := pa / 64, mask := byteMask o n, trace := t.trace }
  match r.op with
  | .load => q
  | .store | .put =>
    let part := (r.data.drop (va - r.va.toNat)).take n
    { q with kind := if back && r.op = .store then .wbs else .wrh, data := BitVec.ofNat 512 (leNat part * 2 ^ (8 * o)) }
  | .atomic =>
    let b := BitVec.ofNat 64 (leNat (r.data.take n))
    let b1 := BitVec.ofNat 64 (leNat (r.data.drop n))
    { q with kind := .atom, atom := some { op := r.atop.toNat % 128, wide := linkWidth r == 8, b := b, b1 := b1 } }

/-- The page and the physical address of an address in an incoming request: memory of this device, on a die that the link
agent reaches. -/
def linkPlace (r : LinkReq) (va : Nat) : M (TlbEntry × Nat) := do
  if isLocal va then trap .page
  let t ← linkTranslate r.ctxid.toNat va (r.op != .load)
  match t.home va with
  | .remote _ _ => trap .page
  | .phys pa =>
    if (← getDie (homeDie (pa / 64))).isolated then trap .memabort 2
    return (t, pa)

/-- Serves one piece; answers the bytes that it returns. `link`: the request is left at its home with this number. -/
def servePiece (r : LinkReq) (va n : Nat) (back : Bool) (link : Option Nat) : M (List Byte) := do
  let (t, pa) ← linkPlace r va
  let q := linkPiece r t pa va n back
  match link with
  | some id =>
    queueReq { q with link := some id }
    return []
  | none =>
    match ← serve q with
    | .error _ => trap .memabort
    | .ok rep => return if r.op = .load || r.op = .atomic then ((lineBytes rep.data).drop (pa % 64)).take n else []

/-- Every page of a request is translated before a byte is touched; PUT data that fails sends PUTPAGE (R279, R285, R392; log
entry 82). -/
def checkPages (r : LinkReq) (ps : List (Nat × Nat)) : M Unit :=
  ps.forM fun p => do
    match ← attempt (linkPlace r p.1) with
    | .ok _ => pure ()
    | .error t =>
      if r.op = .put && t.cause ≠ .memabort then
        let g : Agent := { k := 0, v := { who := 0, user := true, ctx := r.ctxid.toNat }, vec := {}, engine := true }
        let die := (← leafDie g p.1).getD 0
        sendSystemFrom .link 0 die 14
          (faultMessage 0 3 0 r.ctxid.toNat 0 (p.1 / 2 ^ 18 * 2 ^ 18) 0 r.who.toNat r.src.toNat)
      throw (.trap t)

/-- Answers a request (R392). -/
def answerLink (id tag status : Nat) (data : List Byte) : M Unit :=
  modify fun s => { s with links := { s.links with
    answers := s.links.answers ++ [{ id := id, tag := tag, status := status, data := data }] } }

/-- A request from another device (R159, R392). It may wait at its home among other requests: the oracle's choice. The
message does not say whether a store is a THRU store or a SELF write-back: that is the sender's, and the oracle's choice (log
entry 74). -/
def incoming (r : LinkReq) : M Unit := do
  let s ← get
  let here := r.dst.toNat == bits (s.die 0).regs.devtag 7 0 && (List.range 16).any fun p => (s.link p).works
  if here && linkFormed r then
    let id := s.links.nextId
    modify fun s => { s with links := { s.links with nextId := s.links.nextId + 1 } }
    let ps := pieces r.va.toNat (linkSpan r)
    let later ← if ps.length = 1 then choose 2 else pure 0
    let back ← if r.op = .store then choose 2 else pure 0
    if later = 1 then
      modify fun s => { s with links := { s.links with incoming := s.links.incoming.put id r.src.toNat } }
    let served := do
      checkPages r ps
      ps.mapM fun p => servePiece r p.1 p.2 (back == 1) (if later = 1 then some id else none)
    match ← attempt served with
    | .ok parts => if later = 1 then pure () else answerLink id r.src.toNat 0 parts.flatten
    | .error t =>
      modify fun s => { s with links := { s.links with incoming := s.links.incoming.del id } }
      answerLink id r.src.toNat (if t.cause = .memabort then 2 else 1) []

/-- The meaning of `linkRequest`: a request that must wait for a memory stays at the port. -/
def execLinkRequest (r : LinkReq) (s : State) : Host.Outcome State Fault Refusal :=
  match incoming r s with
  | .ok _ s' => .next s'
  | .error _ _ => .next s

end Sys2Proof.Machine
end

