-- ==== Sys2Proof/Machine/Boot.lean ====
section
/-! DEFINITION. Bring-up, firmware images, measurement and power: the boot ROM, ready bits, SPDM, PWRSET and the thermal
trip (R405 to R414). -/

namespace Sys2Proof.Machine

/-! ## Image slots (R405, R406) -/

/-- A field of a slot's header: offset and length in bytes. -/
def slotField (s : State) (slot o n : Nat) : Nat := leNat (s.mem.bytes (placeFlash (slot * 0x8000000 + o)) n)

/-- Bytes of a slot. -/
def slotBytes (s : State) (slot o n : Nat) : List Byte := s.mem.bytes (placeFlash (slot * 0x8000000 + o)) n

/-- LENGTH and LOAD. -/
def slotLength (s : State) (slot : Nat) : Nat := slotField s slot 8 8
def slotLoad (s : State) (slot : Nat) : Nat := slotField s slot 16 8

/-- The CUSTODY entries in use: first frame, count, side. -/
def slotCustody (s : State) (slot : Nat) : List (Nat × Nat × Nat) :=
  ((List.range 16).map fun i => slotField s slot (64 + 8 * i) 8).filterMap fun w =>
    if w = 0 then none else some (w % 2 ^ 24, w / 2 ^ 24 % 2 ^ 24, w / 2 ^ 48)

/-- Bytes of an LMS signature with SHA-256, height 10 and Winternitz 8: the rest of LSIG is padding (R405; log entry 34). -/
def lmsBytes : Nat := 1452

/-- Whether a header field breaks its limits (R405): of the two entry addresses, HOSTENTRY lies in the body. -/
def slotFieldBad (s : State) (slot : Nat) : Bool :=
  let len := slotLength s slot
  let load := slotLoad s slot
  let inBody := fun (a : Nat) => decide (load ≤ a) && decide (a < load + len)
  slotField s slot 0 4 != 0x3138525A || len == 0 || decide (0x7FFF000 < len) || load % 2 ^ 18 != 0 ||
    decide (load < 2 ^ 39) || decide (2 ^ 39 + s.boot.farBytes < load + len) ||
    !inBody (slotField s slot 24 8) || slotField s slot 40 24 != 0 ||
    slotField s slot 288 736 != 0 || slotField s slot (1024 + lmsBytes) (3072 - lmsBytes) != 0 ||
    (slotCustody s slot).any fun c => c.2.2 != 1 && c.2.2 != 2

/-- Whether CUSTODY names a frame twice, or a frame with no memory behind it (R407). -/
def slotCustodyBad (s : State) (slot : Nat) : Bool :=
  let cs := (slotCustody s slot).filter fun c => c.2.1 != 0
  let lost := fun (c : Nat × Nat × Nat) =>
    decide (2 ^ 24 < c.1 + c.2.1) || (List.range c.2.1).any fun i => !s.hasMemory ((c.1 + i) * 2 ^ 18)
  cs.any lost || cs.zipIdx.any fun c => cs.zipIdx.any fun d => decide (c.2 < d.2) && overlap c.1.1 c.1.2.1 d.1.1 d.1.2.1

/-- A slot's body is copied to LOAD (R407). -/
def copyBody (slot : Nat) (s : State) : State :=
  let load := slotLoad s slot
  let len := slotLength s slot
  let body := memSlice s.mem (placeFlash (slot * 0x8000000 + 0x1000)) len 0
  let outside := fun (p : Nat) => decide (p * 64 < load) || decide (load + len < p * 64 + 64)
  { s with mem := memRestore s.mem load len body load, bad := s.bad.filter outside, latent := s.latent.filter outside }

/-- What both signatures cover: the header's first bytes and the copy of the body (R406, R407). -/
def slotSigned (s : State) (slot : Nat) : List Byte :=
  slotBytes s slot 0 192 ++ (copyBody slot s).mem.bytes (slotLoad s slot) (slotLength s slot)

/-- The failure of a slot, as BOOTSTAT codes it; 0 for a valid slot (R406, R407, R409). -/
def slotFailure (s : State) (slot : Nat) : Nat :=
  if slotFieldBad s slot then 1
  else if !Config.ecdsaOk (s.boot.fuses.take 48) (slotSigned s slot) (slotBytes s slot 192 96) then 2
  else if !Config.lmsOk (s.boot.fuses.drop 48) (slotSigned s slot) (slotBytes s slot 1024 lmsBytes) then 3
  else if slotField s slot 4 4 < s.boot.minver then 4
  else if slotCustodyBad s slot then 5
  else 0

/-- The slot to boot (R406): the higher VERSION, or slot 0. -/
def bootSlot (s : State) : Option Nat :=
  let ok0 := slotFailure s 0 == 0
  let ok1 := slotFailure s 1 == 0
  if ok0 && ok1 then some (if slotField s 0 4 4 < slotField s 1 4 4 then 1 else 0)
  else if ok0 then some 0
  else if ok1 then some 1
  else none

/-! ## The ROM (R407) -/

/-- The threads of a core start at an entry address in KERNEL mode with interrupts disabled (R407, R408); interrupts posted
before stay pending (R346, R414). The PC has no bit 0
(R49): an odd entry, which R405 does not forbid, starts at the address below it (log entry 75). -/
def startCore (who entry : Nat) : M Unit := do
  modCore who fun c => { l1 := c.l1, tlb := c.tlb, irqs := c.irqs }
  for h in List.range 8 do
    modThread (who * 8 + h) fun _ =>
      { Thread.fresh (who * 8 + h) with st := .runnable, pc := evenPc (BitVec.ofNat 52 entry) }

/-- Sets the custody of the frames that the image names (R407). -/
def setCustody (s : State) (slot : Nat) : Store Custody :=
  (slotCustody s slot).foldl (fun r c => (List.range c.2.1).foldl (fun r i =>
    r.put (c.1 + i) { st := .owned, owner := some (if c.2.2 = 1 then .host else .device) }) r) s.fcu.records

/-- Memory after the ROM's copies (R407): each slot whose fields are good is copied to be verified, slot 0 first, and the copy
of the slot that boots stands (log entry 39). -/
def romCopies (s : State) : State :=
  ([0, 1].filter (fun i => !slotFieldBad s i && bootSlot s != some i) ++ (bootSlot s).toList).foldl
    (fun x i => copyBody i x) s

/-- The ROM (R407): it copies and verifies the slots, sets custody and starts the kernels. -/
def runRom : M Unit := do
  let s ← get
  let fails := slotFailure s 0 * 2 ^ 4 + slotFailure s 1 * 2 ^ 8
  set (romCopies s)
  match bootSlot s with
  | none =>
    modify fun s => { s with boot := { s.boot with romDone := true, bootstat := BitVec.ofNat 64 fails } }
    modCore 0x2000 fun c => { c with halted := true }
  | some slot =>
    modify fun x => { x with
      fcu := { s.fcu with records := setCustody s slot }
      boot := { s.boot with
        romDone := true
        bootstat := BitVec.ofNat 64 (slot + fails + slotField s slot 4 4 * 2 ^ 32)
        rdycore := s.boot.rdycore ||| 0x200
        deventry := BitVec.ofNat 64 (slotField s slot 32 8) } }
    for d in List.range 4 do
      if s.boot.rdycore.getLsbD d then startCore (d * 2048) (slotField s slot 32 8)
    for i in List.range 16 do
      startCore (0x2000 + i) (slotField s slot 24 8)

/-- Whether everything the ROM needs has come up: far memory of die 0, the custody unit and the flash port (R407, R410). -/
def State.romReady (s : State) : Bool :=
  !s.boot.romDone && s.boot.rdymem.getLsbD 4 && s.boot.rdycore.getLsbD 8 && s.boot.rdyeng.getLsbD 13

/-! ## Reset and ready bits (R408 to R410) -/

/-- Package reset (R408): every record at its reset value, every link training (R388); memory, what is fitted and fused,
and the run's own moves stay. -/
def resetPackage : M Unit :=
  modify fun s =>
    { mem := s.mem, bad := s.bad, latent := s.latent, badLocal := s.badLocal, latentLocal := s.latentLocal
      links := { ports := Vector.replicate 16 .training, rims := Vector.replicate 20 .training }
      boot := { farBytes := s.boot.farBytes, minver := s.boot.minver, fuses := s.boot.fuses, failed := s.boot.failed }
      run := { s.run with cur := 0, pipe := [] } }

/-- The meaning of `packageReset`. -/
def execPackageReset (s : State) : Host.Outcome State Fault Refusal := agentStep resetPackage s

/-- The die whose bring-up a function belongs to (R409, R412). -/
def readyDie : ReadyFn → Option Nat
  | .core b => if b < 4 then some b else none
  | .mem b => if b < 12 then some (b % 4) else none
  | .link _ => none
  | .eng b => if b < 12 then some (b % 4) else none

/-- Whether a function exists and can come up now (R409). -/
def canRise (s : State) (f : ReadyFn) : Bool :=
  !s.boot.failed.contains f &&
  (match readyDie f with | some d => (s.die d).regs.power != .p3 | none => true) &&
  (match f with
   | .core b => decide (b < 9) && (decide (b < 4) || b == 8) && !s.boot.rdycore.getLsbD b
   | .mem b => decide (b < 12) && !s.boot.rdymem.getLsbD b
   | .link b => decide (b < 26) && !s.boot.rdylink.getLsbD b &&
       (if b < 16 then (s.link b).works else (s.route (b - 16)).works)
   | .eng b => decide (b < 14) && !s.boot.rdyeng.getLsbD b)

/-- The clusters of a die are ready: a booted image's device kernel starts there, and a power change ends (R407, R412). -/
def clustersReady (d : Nat) : M Unit := do
  let b := (← get).boot
  modDieRegs d fun r => { r with pchange := none }
  if b.rdycore.getLsbD 9 then startCore (d * 2048) (vaOf b.deventry)

/-- A function finishes bring-up (R409). -/
def riseBit (f : ReadyFn) : M Unit := do
  if canRise (← get) f then
    let one := fun (w : Word) (b : Nat) => w ||| BitVec.ofNat 64 (2 ^ b)
    modify fun s => { s with boot := match f with
      | .core b => { s.boot with rdycore := one s.boot.rdycore b }
      | .mem b => { s.boot with rdymem := one s.boot.rdymem b }
      | .link b => { s.boot with rdylink := one s.boot.rdylink b }
      | .eng b => { s.boot with rdyeng := one s.boot.rdyeng b } }
    match f with
    | .core b => if b < 4 then clustersReady b
    | _ => pure ()
    if (← get).romReady then runRom

/-- The meaning of `functionReady`. -/
def execFunctionReady (f : ReadyFn) (s : State) : Host.Outcome State Fault Refusal := agentStep (riseBit f) s

/-! ## Measurement (R411) -/

/-- The bytes of measured item `i` (R411): boot ROM, header, body, fuses. -/
def measured (s : State) (i : Nat) : List Byte :=
  let slot := bits s.boot.bootstat 0 0
  match i with
  | 1 => Config.bootRom
  | 2 => slotBytes s slot 0 192
  | 3 => slotBytes s slot 0x1000 (slotLength s slot)
  | _ => s.boot.fuses ++ leBytes 4 s.boot.minver

/-- The digest of measured item `i`. -/
def measurement (s : State) (i : Nat) : List Byte := Config.sha384 (measured s i)

/-- The record of a measurement: index, DMTF specification, size, kind, digest (R411; layout: log entry 45). -/
def measureBlock (s : State) (i : Nat) : List Byte :=
  let kind := match i with | 1 => 0 | 2 => 3 | 3 => 1 | _ => 2
  let d := measurement s i
  leBytes 1 i ++ leBytes 1 1 ++ leBytes 2 (d.length + 3) ++ leBytes 1 kind ++ leBytes 2 d.length ++ d

/-- The certificate chain of slot 0 (R411): the device certificate, signed with ECDSA P-384 and with LMS. -/
def certChain : List Byte :=
  let body := Config.sha384 Config.rootCert ++ Config.deviceCert ++ Config.issuerEcdsa Config.deviceCert ++
    Config.issuerLms Config.deviceCert
  leBytes 4 (body.length + 4) ++ body

/-- What SPDM sends before its contents: version, code and two parameters (log entry 45). -/
def spdmHead (code p1 p2 : Nat) : List Byte :=
  leBytes 1 (if code = 4 then 0x10 else 0x13) ++ leBytes 1 code ++ leBytes 1 p1 ++ leBytes 1 p2

/-- ERROR: 1 for a request that is not as it must be, 7 for one that is not supported. -/
def spdmError (why data : Nat) : List Byte := spdmHead 0x7F why data

/-- The digest over the measurements that a request's summary type asks for. -/
def spdmSummary (s : State) (kind : Nat) : List Byte :=
  let items := match kind with | 0 => [] | 1 => [1, 2, 3] | _ => [1, 2, 3, 4]
  if items.isEmpty then [] else Config.sha384 (items.flatMap (measureBlock s))

/-- The answer to a request (R411), before its signature. `p1`, `p2`: the request's parameters; `body`: what follows them;
`nonce`: 32 fresh bytes. The codes and layouts are those of SPDM 1.3, which the text names and does not give (PRESUMED, log entry
45). -/
def spdmAnswer (s : State) (code p1 p2 : Nat) (body nonce : List Byte) : List Byte :=
  match code with
  | 0x84 => spdmHead 0x04 0 0 ++ leBytes 2 0x100 ++ leBytes 2 0x1300
  | 0xE1 => spdmHead 0x61 0 0 ++ leBytes 1 0 ++ leBytes 1 Config.spdmTime.toNat ++ leBytes 2 0 ++ leBytes 4 0x16 ++
      leBytes 4 Config.spdmTransfer.toNat ++ leBytes 4 Config.spdmMessage.toNat
  | 0xE3 => spdmHead 0x63 0 0 ++ leBytes 2 36 ++ leBytes 2 1 ++ leBytes 4 4 ++ leBytes 4 0x80 ++ leBytes 4 2 ++ leBytes 12 0 ++
      leBytes 4 0
  | 0x81 => spdmHead 0x01 1 1 ++ Config.sha384 certChain
  | 0x82 =>
    let off := leNat (body.take 2)
    let n := min (leNat ((body.drop 2).take 2)) (certChain.length - off)
    if p1 ≠ 0 || decide (certChain.length ≤ off) then spdmError 1 0
    else spdmHead 0x02 0 0 ++ leBytes 2 n ++ leBytes 2 (certChain.length - off - n) ++ (certChain.drop off).take n
  | 0x83 =>
    if p1 ≠ 0 || (p2 ≠ 0 && p2 ≠ 1 && p2 ≠ 0xFF) then spdmError 1 0
    else spdmHead 0x03 0 1 ++ Config.sha384 certChain ++ nonce ++ spdmSummary s p2 ++ leBytes 2 0 ++ (body.drop 32).take 8
  | 0xE0 =>
    if 4 < p2 && p2 ≠ 0xFF then spdmError 1 0
    else
      let items := if p2 = 0 then [] else if p2 = 0xFF then [1, 2, 3, 4] else [p2]
      let record := items.flatMap (measureBlock s)
      spdmHead 0x60 (if p2 = 0 then 4 else 0) 0 ++ leBytes 1 items.length ++ leBytes 3 record.length ++ record ++ nonce ++
        leBytes 2 0 ++ (body.drop 33).take 8
  | _ => spdmError 7 code

/-- The SPDM responder (R411): a request that arrives on a port that works gets its answer, signed. -/
def spdm (r : SpdmReq) : M Unit := do
  let s ← get
  if (List.range 16).any fun p => (s.link p).works then
    let nonce := (lineBytes (← freeLine)).take 32
    let s ← get
    let par := fun (i : Nat) => leNat ((r.body.drop i).take 1)
    let answer := spdmAnswer s r.code.toNat (par 0) (par 1) (r.body.drop 2) nonce
    set { s with boot := { s.boot with spdmOut := s.boot.spdmOut ++ [answer ++ Config.ecdsaSign (r.body ++ answer)] } }

/-- The meaning of `spdmRequest`. -/
def execSpdmRequest (r : SpdmReq) (s : State) : Host.Outcome State Fault Refusal := agentStep (spdm r) s

/-! ## Power (R412 to R414) -/

/-- The code of a power state (R412). -/
def PState.code : PState → Nat
  | .p0 => 0 | .p1 => 1 | .p2 => 2 | .p3 => 3 | .trip => 4

/-- PWR (R412). -/
def pwrWord (s : State) : Word :=
  BitVec.ofNat 64 <| (List.range 4).foldl (fun n d =>
    let r := (s.die d).regs
    n + (r.power.code + (if r.pchange.isSome then 8 else 0)) * 2 ^ (4 * d)) 0

/-- Whether a context that is RUNNING or STOPPING has a core on a die. -/
def contextOn (s : State) (die : Nat) : M Bool := do
  let cores := s.cores.filter fun c => !isHub c.1 && c.1 / 2048 == die
  let ctxs := (cores.filterMap fun c => c.2.held.bind fun h => (s.launch? h.1).map (·.ctx)).eraseDups
  ctxs.anyM fun ctx => do
    let st := (← contextState die ctx) % 8
    return st = 3 || st = 4

/-- Whether a frame of a die's memory is not FREE. -/
def framesUsed (s : State) (die : Nat) : Bool :=
  s.fcu.records.any fun r => decide (r.1 / 2 ^ 22 = die) && r.2.st != .free

/-- Whether a local-store place lies on a die. -/
def placeOn (die a : Nat) : Bool :=
  let r := fun (lo size n : Nat) => decide (lo + die * n * size ≤ a) && decide (a < lo + (die + 1) * n * size)
  r (2 ^ 44) (2 ^ 16) 2048 || r (2 ^ 45) (2 ^ 20) 256 || r (2 ^ 46) (2 ^ 26) 1 || r (2 ^ 47) (2 ^ 13) 2048 ||
    r (2 ^ 48) (2 ^ 18) 256 || r (2 ^ 49) (2 ^ 16) 2048

/-- A die loses power (R412): nothing of its state is kept, its ready bits are cleared, and a bring-up of it
ends. -/
def unpower (die : Nat) : M Unit :=
  modify fun s =>
    let mine := fun (who : Nat) => !isHub who && who / 2048 == die
    let keep := ~~~(BitVec.ofNat 64 (0x111 * 2 ^ die))
    { s with
      mem := s.mem.filter fun c => !(decide (c.1 / 2 ^ 40 = die) || placeOn die c.1)
      threads := s.threads.filter fun t => !mine (t.1 / 8)
      cores := s.cores.filter fun c => !mine c.1
      clusters := s.clusters.filter fun c => !mine (c.1 * 8)
      dies := s.dies.put die { regs := { power := .p3 }, isolated := (s.die die).isolated }
      homes := { s.homes with
        dir := (s.homes.dir.filter fun e => homeDie e.1 != die).filterMap fun e =>
          let d := (s.cores.filter fun c => mine c.1).foldl (fun (d : Dir) c => d.without c.1) e.2
          if d.needed then some (e.1, d) else none
        reqs := s.homes.reqs.filter fun r => homeDie r.pline != die && !mine r.src.who
        invals := s.homes.invals.filter fun i => homeDie i.pline != die
        acks := s.homes.acks.filter fun a => homeDie a.pline != die }
      bad := s.bad.filter fun p => homeDie p != die
      latent := s.latent.filter fun p => homeDie p != die
      badLocal := s.badLocal.filter fun p => !placeOn die (p * 8)
      latentLocal := s.latentLocal.filter fun p => !placeOn die (p * 8)
      engines := s.engines.filter fun e => !mine (e.thread / 8)
      flights := s.flights.filter fun f => !mine f.src && !mine f.dst
      sysmsgs := s.sysmsgs.filter fun f => !mine f.src && !mine f.dst
      errmsgs := s.errmsgs.filter fun e => !mine e.1
      launches := s.launches.filter fun l => l.2.die != die
      walks := s.walks.filter fun w => !mine (w.thread / 8)
      saved := s.saved.filter fun v => !mine v.who
      links := { s.links with waits := s.links.waits.filter fun w => !mine (w.thread / 8) }
      run := { s.run with stalled := s.run.stalled.filter fun k => !mine (k / 8)
                          pipe := s.run.pipe.filter fun p => !mine (p.1 / 8) }
      boot := { s.boot with
        rdycore := s.boot.rdycore &&& ~~~(BitVec.ofNat 64 (2 ^ die))
        rdymem := s.boot.rdymem &&& keep
        rdyeng := s.boot.rdyeng &&& keep } }

/-- The state that PWRSET names. -/
def stateOf (n : Nat) : PState := match n with | 0 => .p0 | 1 => .p1 | 2 => .p2 | _ => .p3

/-- The end of a thermal trip: the watchdogs of its die go on, but for contexts that are stopped (R300, R414). -/
def endTrip (die : Nat) : M Unit := do
  let s ← get
  resumeBarriers fun d b => d == die && !s.stopping.any (fun x => x.1 == b.ctx) && !s.saved.any (fun v => v.ctx == b.ctx)

/-- Changes a die's power state (R412, R413); a die that leaves P3 comes up first. -/
def changePower (die : Nat) (goal : PState) : M Unit := do
  let old := (← getDie die).regs.power
  if goal = .p3 then
    if old ≠ .p3 then unpower die
  else if old = .p3 then modDieRegs die fun r => { r with power := goal, pchange := some goal }
  else modDieRegs die fun r => { r with power := goal }
  if old = .trip && goal ≠ .p3 then endTrip die

/-- PWRSET (R413). -/
def doPwrset (d a : Reg) (len : Nat) : M Unit := straight len do
  let x ← readP a
  checkDest d
  forbidCollecting
  let k ← me
  let die := bits x 3 2
  let goal := stateOf (bits x 1 0)
  let done := fun (n : Nat) => writeG d (BitVec.ofNat 64 n)
  if (← myThread).waiting.isSome then
    if (← getDie die).regs.pchange.isSome then throw .stall
    modMe fun t => { t with waiting := none }
    acquire k .package
    done 0
  else if !isHub (k / 8) then done 4
  else if bits x 63 4 ≠ 0 then done 3
  else
    let s ← get
    let r := (s.die die).regs
    if r.power = .trip && (goal = .p1 || !r.tripClear) then done 2
    else
      let busy ← if goal = .p2 || goal = .p3 then contextOn s die else pure false
      if busy || (goal = .p3 && framesUsed s die) then done 1
      else
        release k .package
        changePower die goal
        if (← getDie die).regs.pchange.isSome then
          modMe fun t => { t with waiting := some none }
          throw .stall
        acquire k .package
        done 0

/-- The meaning of `pwrset`. -/
def execPwrset (d a : Reg) (s : State) : Host.Outcome State Fault Refusal := finish (doPwrset d a 4) s

/-- The thermal trip of a die (R414). -/
def trip (die : Nat) : M Unit := do
  let r := (← getDie die).regs
  if r.power ≠ .p3 && r.power ≠ .trip then
    modDieRegs die fun r => { r with power := .trip, tripClear := false }
    pauseBarriers fun d _ => d == die
    postIrq 0x2000 (kirqWord 3 0 die)
    postIrq (die * 2048) (kirqWord 3 0 die)

/-- The meaning of `thermalTrip`. -/
def execThermalTrip (die : BitVec 2) (s : State) : Host.Outcome State Fault Refusal := agentStep (trip die.toNat) s

/-! ## Checker events (R395 to R399, R410, R414) -/

/-- Whether a function has come up (R409). -/
def State.isReady (s : State) : ReadyFn → Bool
  | .core b => s.boot.rdycore.getLsbD b
  | .mem b => s.boot.rdymem.getLsbD b
  | .link b => s.boot.rdylink.getLsbD b
  | .eng b => s.boot.rdyeng.getLsbD b

/-- A function that has not come up fails its bring-up (R410): its bit never rises; a port or a rim route is FAILED. -/
def bringUpFails (f : ReadyFn) : M Unit := do
  if !(← get).isReady f then
    modify fun s => { s with boot := { s.boot with failed := f :: s.boot.failed } }
    match f with
    | .link b => failLinks b
    | _ => pure ()

/-- A checker event (R395 to R399, R410, R414). A mismatch of a thread's unit waits for its next instruction. -/
def applyUpset : Upset → M Unit
  | .pipe t u l => modify fun s => { s with run := { s.run with pipe := s.run.pipe ++ [(t, u, l)] } }
  | .badCore who => if validWho who then killCore who 0x13 false else pure ()
  | .badSlab cl slab => do
    let data ← (List.range 4).mapM fun _ => freeLine
    modWeave cl fun w => w.modSlab slab fun x =>
      if x.st = .valid then { x with st := .lost, data := data.flatMap lineBytes } else x
  | .badEntry cl n i => modCluster cl fun c => c.modList n fun l => { l with entries := l.entries.modify i Entry.lose }
  | .badL1 who i => loseLine who i
  | .parity c i => discardEntry c i
  | .correctable die => modDieRegs die fun r => { r with errce := satInc64 r.errce }
  | .remoteSend die chan tag who ep ts seq note err bs => remoteMessage die chan tag who ep ts seq note err bs
  | .remoteClosed die chan tag who ep => remoteCloses die chan tag who ep
  | .badLine p => modify fun s => if s.bad.contains p then s else { s with latent := p :: s.latent }
  | .badLocal p => modify fun s => if s.badLocal.contains p then s else { s with latentLocal := p :: s.latentLocal }
  | .weave cl twice => do
    modDieRegs (cl / 256) fun r => { r with errpipe := satInc64 (if twice then satInc64 r.errpipe else r.errpipe) }
    if twice then weaveMismatch cl
  | .cool d => modDieRegs d fun r => { r with tripClear := true }
  | .warm d => modDieRegs d fun r => { r with tripClear := false }
  | .fails f => bringUpFails f

end Sys2Proof.Machine
end

