-- ==== Sys2Proof/Machine/HomeSteps.lean ====
section
/-! DEFINITION. The moves of homes, L1s, cleaners and walkers that no instruction waits for: a queued request is served, a
message of the home protocol arrives (R144 to R155, R230, R363). -/

namespace Sys2Proof.Machine

/-! ## Requests that wait at their home (R144, R147) -/

/-- The `k`-th queued request, if its home may serve it now: an earlier one of its line goes first, and a busy entry, or a
memory or rim route that has not come up, lets it wait (R144, R410). -/
def State.headReq (s : State) (k : Nat) : Option Req :=
  match s.homes.reqs[k]? with
  | none => none
  | some r =>
    if (s.homes.reqs.take k).any (fun q => q.pline == r.pline) || (s.dirOf r.pline).busy.isSome || !s.homeReady r
    then none else some r

/-- Removes the `k`-th queued request. -/
def unqueue (k : Nat) : M Unit :=
  modify fun s => { s with homes := { s.homes with reqs := s.homes.reqs.eraseIdx k } }

/-- The home serves the `k`-th queued request, if it is of this kind: at once where no L1 is asked; otherwise the entry is
busy until the answers are in (R147). -/
def homeServe (kind : ReqKind) (k : Nat) : M Unit := do
  match (← get).headReq k with
  | none => pure ()
  | some r =>
    if r.kind = kind then
      unqueue k
      prepare afadd r
      let asks := allAsks (← get) r
      if asks.isEmpty then deliver r (← finishReq afadd r 0)
      else
        setDir r.pline { (← get).dirOf r.pline with busy := some r }
        modify fun s => { s with homes := { s.homes with
          invals := s.homes.invals ++ asks.map fun a => { pline := r.pline, core := a.1, ask := a.2 } } }

/-- The meaning of `fillu`. -/
def execFillu (k : Nat) (s : State) : Host.Outcome State Fault Refusal := agentStep (homeServe .fillu k) s

/-- The meaning of `fills`. -/
def execFills (k : Nat) (s : State) : Host.Outcome State Fault Refusal := agentStep (homeServe .fills k) s

/-- The meaning of `upg`. -/
def execUpg (k : Nat) (s : State) : Host.Outcome State Fault Refusal := agentStep (homeServe .upg k) s

/-- The meaning of `getm`. -/
def execGetm (k : Nat) (s : State) : Host.Outcome State Fault Refusal := agentStep (homeServe .getm k) s

/-- The meaning of `ext`. -/
def execExt (k : Nat) (s : State) : Host.Outcome State Fault Refusal := agentStep (homeServe .ext k) s

/-- The meaning of `regw`. -/
def execRegw (k : Nat) (s : State) : Host.Outcome State Fault Refusal := agentStep (homeServe .regw k) s

/-- The meaning of `rdh`. -/
def execRdh (k : Nat) (s : State) : Host.Outcome State Fault Refusal := agentStep (homeServe .rdh k) s

/-- The meaning of `wrh`. -/
def execWrh (k : Nat) (s : State) : Host.Outcome State Fault Refusal := agentStep (homeServe .wrh k) s

/-- The meaning of `atom`. -/
def execAtom (k : Nat) (s : State) : Host.Outcome State Fault Refusal := agentStep (homeServe .atom k) s

/-- The meaning of `wbs`. -/
def execWbs (k : Nat) (s : State) : Host.Outcome State Fault Refusal := agentStep (homeServe .wbs k) s

/-- The meaning of `wbo`. -/
def execWbo (k : Nat) (s : State) : Host.Outcome State Fault Refusal := agentStep (homeServe .wbo k) s

/-- The meaning of `dereg`. -/
def execDereg (k : Nat) (s : State) : Host.Outcome State Fault Refusal := agentStep (homeServe .dereg k) s

/-- The meaning of `leave`. -/
def execLeave (k : Nat) (s : State) : Host.Outcome State Fault Refusal := agentStep (homeServe .leave k) s

/-! ## Messages of the home protocol (R147, R148) -/

/-- The `k`-th message reaches its L1, which gives its answer (R147). -/
def l1Answer (k : Nat) : M Unit := do
  match (← get).homes.invals[k]? with
  | none => pure ()
  | some i =>
    let x ← askCore i.core i.pline i.ask
    modify fun s => { s with homes := { s.homes with
      invals := s.homes.invals.eraseIdx k
      acks := s.homes.acks ++
        [{ pline := i.pline, core := i.core, ask := i.ask, mask := x.mask, data := x.data, ctx := x.ctx,
           engine := x.engine }] } }

/-- The meaning of `l1Invalidation`. -/
def execL1Invalidation (k : Nat) (s : State) : Host.Outcome State Fault Refusal := agentStep (l1Answer k) s

/-- The `k`-th acknowledgement reaches its home; the last one of an entry completes the request that waits (R147). -/
def homeAnswer (k : Nat) : M Unit := do
  match (← get).homes.acks[k]? with
  | none => pure ()
  | some a =>
    modify fun s => { s with homes := { s.homes with acks := s.homes.acks.eraseIdx k } }
    match ((← get).dirOf a.pline).busy with
    | none => pure ()
    | some r =>
      applyAck a r
      let dx := r.dx ||| a.mask
      let gave := if a.mask = 0 then r.gave else (a.core, a.ctx) :: r.gave
      setDir a.pline { (← get).dirOf a.pline with busy := some { r with dx := dx, gave := gave } }
      let h := (← get).homes
      if !(h.invals.any (·.pline == a.pline) || h.acks.any (·.pline == a.pline)) then completeBusy afadd a.pline dx

/-- The meaning of `homeAcknowledgement`. -/
def execHomeAcknowledgement (k : Nat) (s : State) : Host.Outcome State Fault Refusal := agentStep (homeAnswer k) s

/-- The `k`-th queued request touches words that are owned elsewhere: it is performed there (R148). -/
def forwardReq (k : Nat) : M Unit := do
  let s ← get
  match s.headReq k with
  | none => pure ()
  | some r =>
    if (foreignWords (s.dirOf r.pline) r &&& wordsOf r.mask) != 0 then
      unqueue k
      deliver r (← serveWhole afadd r)

/-- The meaning of `forwardedAccess`. -/
def execForwardedAccess (k : Nat) (s : State) : Host.Outcome State Fault Refusal := agentStep (forwardReq k) s

/-! ## The cleaner and the background walks (R155, R230, R363) -/

/-- The cleaner writes back the dirty SELF bytes and dirty registered words of the `k`-th line of a core's L1, now or later; it
does not touch exclusive or privatised copies (R155). -/
def cleaner (who k : Nat) : M Unit := do
  match (← getCore who).l1[k]? with
  | none => pure ()
  | some l =>
    match l.home with
    | .away _ _ => cleanLine who l
    | .here p =>
      let later := (← choose 2) == 1 && (← get).mayDefer who p
      let cut := (← get).cutOff who (homeDie p)
      let now ← if later || cut then pure (some l) else settledLine who l
      match now with
      | none => pure ()
      | some l =>
        if l.kind = .exclusive || l.kind = .privatised then pure ()
        else
          let own := l.dirty &&& l.regBytes
          clearDirty who l l.dirty
          if cut then loseMarks l l.dirty (some 1)
          else
            if l.selfBytes != 0 then sendReq later (lineReq who l p .wbs l.selfBytes)
            if own != 0 then sendReq later (lineReq who l p .wbo own)

/-- The meaning of `backgroundCleaner`. -/
def execBackgroundCleaner (who k : Nat) (s : State) : Host.Outcome State Fault Refusal := agentStep (cleaner who k) s

/-- The `k`-th background walk ends (R230, R363): its translation is installed in the cluster's L2 TLB and kept for the
thread, or, where it meets a fault, nothing. -/
def endWalk (k : Nat) : M Unit := do
  match (← get).walks[k]? with
  | none => pure ()
  | some w =>
    let v : View := { who := w.thread / 8, user := match w.space with | .ctx _ => true | _ => false,
                      ctx := match w.space with | .ctx n => n | _ => 0 }
    let found ← attempt (walk v w.va 0 0)
    modify fun s => { s with walks := s.walks.eraseIdx k }
    match found with
    | .error _ => pure ()
    | .ok t =>
      if isHub v.who then modCore v.who fun c => { c with tlb := addTlb 64 c.tlb { t with kept := some w.thread } }
      else modCluster (v.who / 8) fun c => { c with tlb := addTlb 1024 c.tlb { t with kept := some w.thread } }

/-- The meaning of `pageWalk`. -/
def execPageWalk (k : Nat) (s : State) : Host.Outcome State Fault Refusal := agentStep (endWalk k) s

end Sys2Proof.Machine
end

