-- ==== Sys2Proof/Machine/Binding.lean ====
section
/-! DEFINITION. What happens to a thread between instructions: an activation is bound to it, a late result fills a register,
an interrupt is taken (R71, R74, R78, R207, R209, R346). -/

namespace Sys2Proof.Machine

/-! ## The class table (R72, R275) -/

/-- The class-table entry of a class. -/
def CoreRegs.cls (r : CoreRegs) (c : Nat) : Word := r.classes.toList.getD c 0

/-- LIMIT of an entry; 0 for a malformed one (R72). -/
def classLimit (w : Word) : Nat :=
  let n := bits w 58 55
  if w.getLsbD 0 || 8 < n || bits w 63 59 ≠ 0 then 0 else n

/-- PRIO of an entry. -/
def classPrio (w : Word) : Nat := bits w 54 52

/-- HANDLER of an entry; 0 in a receive-only entry, whose messages only RECV takes (R275). -/
def classHandler (w : Word) : Nat := bits w 51 0

/-! ## Messages that start nothing (R72, R209, R279) -/

/-- The channel-fault message of a PENDING message (R279); a system message is on no channel. -/
def pendingFault (who kind : Nat) (p : Pending) : M Unit := do
  let h := p.header.toNat
  sendSystem who (dieOf who) 14
    (faultMessage who kind p.slot.cls ((← get).coreCtx who) (if p.slot.chan.isSome then h / 2 ^ 42 % 2 ^ 12 else 0) 0
      (h / 2 ^ 64 % 2 ^ 32) (h / 2 ^ 20 % 2 ^ 14) (if p.header.getLsbD 15 then h / 2 ^ 34 % 256 else 0))

/-- Whether a PENDING message starts nothing: CLASSOFF (R72) or, on an ordered channel, ORDERLATE (R209), as KIND of R279. -/
def turnedAway (s : State) (who : Nat) (p : Pending) : Option Nat :=
  if p.claim.isSome then none
  else if classLimit ((s.core who).regs.cls p.slot.cls) = 0 then some 1
  else match p.slot.chan with
  | none => none
  | some num =>
    if (s.channel (dieOf who) num).ord then
      match (s.die (dieOf who)).commits.high.find? num with
      | some high => if keyLt (keyOf p.header) high then some 2 else none
      | none => none
    else none

/-! ## Binding (R71, R74, R207) -/

/-- Activations of a class that are live on a core. R74 does not say what is live: one whose thread is DORMANT while its list
awaits the commit is not counted (log entry 77). -/
def State.liveOf (s : State) (who cls : Nat) : Nat :=
  ((List.range 8).filter fun h => match (s.thread (who * 8 + h)).act with | some a => a.cls == cls | none => false).length

/-- Whether a message is on an ordered channel. -/
def Pending.ordered (p : Pending) (s : State) (who : Nat) : Bool :=
  match p.slot.chan with
  | some num => (s.channel (dieOf who) num).ord
  | none => false

/-- Activations of a die that speculate or await their commit (R207). -/
def State.speculating (s : State) (die : Nat) : Nat :=
  (s.threads.filter fun t => !isHub (t.1 / 8) && dieOf (t.1 / 8) == die &&
    (match t.2.act with | some a => a.ordered | none => false)).length + (s.die die).awaiting.length

/-- Whether a PENDING message may be bound (R74, R207). -/
def bindable (s : State) (who : Nat) (p : Pending) : Bool :=
  let w := (s.core who).regs.cls p.slot.cls
  p.claim.isNone && decide (s.liveOf who p.slot.cls < classLimit w) && classHandler w != 0 && (turnedAway s who p).isNone &&
    (!p.ordered s who || (!isHub who && (s.cluster (who / 8)).freeDescr.isSome && decide (s.speculating (dieOf who) < 64)))

/-- The message to bind: of the highest class priority, and of those the earliest (R74). -/
def bindNext (s : State) (who : Nat) : Option Pending :=
  let prio := fun (p : Pending) => classPrio ((s.core who).regs.cls p.slot.cls)
  match (s.core who).inbox.pending.filter (bindable s who) with
  | [] => none
  | p :: ps => some (ps.foldl (fun b x => if prio b < prio x then x else b) p)

/-- The lowest-numbered DORMANT thread of a core. -/
def State.dormantThread (s : State) (who : Nat) : Option Nat :=
  (List.range 8).find? fun h => (s.thread (who * 8 + h)).st == .dormant

/-- The start state of an activation (R71). -/
def Thread.start (t : Thread) (key : Nat) (p : Pending) (w : Word) (act : Activation) (lists : List Nat) : Thread :=
  let h := p.header.toNat
  let t' := ((((t.retire key).setReg 2 t.kern.stktop).setReg 3 (BitVec.ofNat 64 (inboxVa p.slot.off))).setReg 4
    (BitVec.ofNat 64 (headerLen p.header))).setReg 5 (BitVec.ofNat 64 (h / 2 ^ 20 % 2 ^ 14))
  { t' with
    st := .runnable
    pc := BitVec.ofNat 52 (classHandler w)
    ctl := { t'.ctl with rsptr := t.kern.rstop.setWidth 52 }
    lists := lists
    act := some act }

/-- Makes list 1 of an ordered activation (R207). -/
def baseList (who key : Nat) : M (List Nat) := do
  match (← getCluster (who / 8)).freeDescr with
  | none => return []
  | some d =>
    let ctx := (← getThread key).kern.ctxid.toNat
    modCluster (who / 8) fun c => { c with descrs := c.descrs.put d { c.descrs.get d {} with
      list := some { owner := who, maker := some key, ctx := ctx } } }
    return [d]

/-- Binds a PENDING message to a thread (R71, R74, R77). -/
def bindTo (who key : Nat) (p : Pending) : M Unit := do
  let s ← get
  let w := (s.core who).regs.cls p.slot.cls
  let ordered := p.ordered s who
  modCore who fun c => { c with inbox := { c.inbox with pending := c.inbox.pending.erase p } }
  let lists ← if ordered then baseList who key else pure []
  acquire key (if headerBit p.header 15 then .domain else .package)
  let act : Activation :=
    { cls := p.slot.cls, slot := p.slot, header := p.header, prio := classPrio w, ordered := ordered,
      since := (s.die (dieOf who)).commits.count }
  modThread key fun t => t.start key p w act lists

/-- ACTIVATION_BIND at a core (R72, R74, R209): a message that starts nothing is freed and reported; otherwise the next
message is bound to the lowest DORMANT thread. -/
def bindActivation (who : Nat) : M Unit := do
  let s ← get
  let c := s.core who
  if c.killed || c.halted || s.ctxHalted (s.coreCtx who) then pure ()
  else match c.inbox.pending.find? fun p => (turnedAway s who p).isSome with
    | some p =>
      modCore who fun c => { c with inbox := { c.inbox with pending := c.inbox.pending.erase p } }
      freeSlot who p.slot
      pendingFault who ((turnedAway s who p).getD 1) p
    | none =>
      match bindNext s who, s.dormantThread who with
      | some p, some h => bindTo who (who * 8 + h) p
      | _, _ => pure ()

/-- The meaning of `activationBind`. -/
def execActivationBind (who : Nat) (s : State) : Host.Outcome State Fault Refusal := agentStep (bindActivation who) s

/-! ## Late results (R78) -/

/-- The oldest outstanding result of a thread arrives (R78). -/
def writeback (k : Nat) : M Unit := do
  match (← getThread k).results with
  | [] => pure ()
  | (r, v) :: rest =>
    modThread k fun t => { t with results := rest }
    fillReg k r v

/-- The meaning of `resultWriteback`. -/
def execResultWriteback (t : Nat) (s : State) : Host.Outcome State Fault Refusal := agentStep (writeback t) s

/-! ## Interrupts (R346) -/

/-- Whether thread 0 of a core takes a pending interrupt now: it is at an instruction boundary with IE = 1, with no
instruction under way, and its die runs (R346, R414). -/
def State.interruptible (s : State) (who : Nat) : Bool :=
  let c := s.core who
  let t := s.thread (who * 8)
  !c.irqs.isEmpty && !c.killed && !c.halted && t.st == .runnable && t.kern.kstatus.getLsbD 1 && t.waiting.isNone && t.doing.isNone &&
    (isHub who || (s.die (dieOf who)).regs.power == .p0 || (s.die (dieOf who)).regs.power == .p1)

/-- Thread 0 of a core takes its oldest interrupt (R346). -/
def takeInterrupt (who : Nat) : M Unit := do
  let s ← get
  match (s.core who).irqs with
  | [] => pure ()
  | w :: rest =>
    if s.interruptible who then
      modCore who fun c => { c with irqs := rest }
      modThread (who * 8) Thread.settle
      let t ← getThread (who * 8)
      let t' := t.enterVector t.pc true
      modThread (who * 8) fun _ => { t' with kern := { t'.kern with kirq := w } }
      if badVector t then doubleFault who

/-- The meaning of `interruptEntry`. -/
def execInterruptEntry (who : Nat) (s : State) : Host.Outcome State Fault Refusal := agentStep (takeInterrupt who) s

end Sys2Proof.Machine
end

