-- ==== Sys2Proof/WellFormed.lean ====
section
/-! DEFINITION. Which instructions are well-formed: an instruction word must break no rule of R55 to R61 that its operands
could still break, and an agent's step must name an agent the package has (R11, R16). -/

namespace Sys2Proof

/-- A hardware thread of the package, WHO × 8 + HTID (R11, R16). -/
def knownThread (t : Nat) : Bool := decide (t / 8 < 0x2000) || (decide (0x2000 ≤ t / 8) && decide (t / 8 < 0x2010))

/-- A core of the package (R11, R16). -/
def knownCore (who : Nat) : Bool := decide (who < 0x2000) || (decide (0x2000 ≤ who) && decide (who < 0x2010))

/-- A link end: port 0 to 15, or 16 + rim path 0 to 19 (R389). -/
def knownLink (l : Nat) : Bool := decide (l < 36)

/-- Whether an agent's step names an agent that exists. -/
def actorKnown : Instr → Bool
  | .fpfWrite t _ | .l2modeWrite t _ | .tracectlWrite t _ | .kptrootWrite t _ | .ctxidWrite t _ | .killresWrite t _
  | .resultWriteback t | .alignTimeout t | .swapin t _ _ _ | .swapout t _ _ | .restart t _ _ | .thaw t _ _
  | .create t _ | .start t _ | .reset t _ | .destroy t _ | .evict t _ | .migrationGo t _ _ | .migrationEnd t =>
    knownThread t
  | .activationBind w | .interruptEntry w | .backgroundCleaner w _ => knownCore w
  | .sequencerTake cl | .rowStep cl => decide (cl < 1024)
  | .linkTrainingDone l n => knownLink l && decide (n ≤ 8)
  | .laneLost l | .linkFailure l => knownLink l
  | .linkRequest r => decide (1 ≤ r.len) && decide (r.len ≤ 256) && decide (r.data.length ≤ 256)
  | _ => true

/-- Well-formed instructions. -/
def Instr.wf (i : Instr) : Bool := !pairBroken i && !fieldBroken i && actorKnown i

end Sys2Proof
end

