-- ==== Sys2Proof/Machine/Fetch.lean ====
section
/-! DEFINITION. Fetching an instruction and the checks that come before its own traps: fetch faults, ILL and PRIV
(R47 to R52, R60, R61, R65 to R68). -/

namespace Sys2Proof.Machine

/-- What a core offers a thread (R15, R16, R235): no weave array on a hub core or, in USER mode, in cluster 0; no gang
issue on the weave array of cluster 0; no die on a hub core. -/
def offerOf (who : Nat) (kernel : Bool) : Offer :=
  let cl0 := !isHub who && who / 8 % 256 == 0
  { weave := !isHub who && (!cl0 || kernel), gang := !isHub who && !cl0, die := !isHub who }

/-- KERNEL-only instructions (R68). -/
def privileged : Instr → Bool
  | .crr _ n | .crw _ n => decide (0x100 ≤ n.toNat)
  | .eret | .tlbi _ _ | .gstop _ _ | .gresume _ _ | .dict _ _ | .kload _ _ | .pwrset _ _ | .killcore _ _ => true
  | .foffer _ _ _ _ _ | .faccept _ _ _ _ _ | .flend _ _ _ _ _ | .frecall _ _ _ _ _ | .freturn _ _ _ _ _
  | .fquery _ _ _ _ _ => true
  | .gset _ _ _ _ _ | .resume _ _ _ _ _ => true
  | _ => false

/-- Read-only registers, whose write raises PRIV in either mode (R348). CTXID is written in KERNEL mode (R358). -/
def readOnly (n : Nat) (kernel : Bool) : Bool :=
  n == 0x000 || n == 0x001 || (n == 0x002 && !kernel) || n == 0x003 || n == 0x020 || n == 0x023 ||
    (decide (0x025 ≤ n) && decide (n ≤ 0x028)) || n == 0x106 || n == 0x119 || n == 0x11B || n == 0x11E || n == 0x131 ||
    n == 0x140 || (decide (0x160 ≤ n) && decide (n ≤ 0x179)) || (decide (0x180 ≤ n) && decide (n ≤ 0x184)) || n == 0x187 ||
    (decide (0x190 ≤ n) && decide (n ≤ 0x194))

/-- Whether an instruction raises PRIV before its sources are read: KERNEL-only in USER mode, or a CRW to a read-only
register in either mode (R67, R68, R348). -/
def barred (i : Instr) (kernel : Bool) : Bool :=
  (privileged i && !kernel) || (match i with | .crw _ n => readOnly n.toNat kernel | _ => false)

/-- FINFO of ILL and PRIV (R66). -/
def illInfo (word parcel : Nat) (via16 repf : Bool) : Word :=
  BitVec.ofNat 64 (word + parcel * 2 ^ 32 + (if via16 then 2 ^ 48 else 0) + (if repf then 2 ^ 49 else 0))

/-- An address of a parcel or instruction as a register value. -/
def addrWord (pc : BitVec 52) : Word := pc.setWidth 64

/-- The line of code at a physical line through the fetch port of a core's cluster (R12, R52): its 64 KiB instruction cache
holds 1,024 lines, and one that it holds is used or read again, as the hardware chooses (log entry 4). A hub core's fetches
go to the home (log entry 12). -/
def codeLine (v : View) (pline : Nat) : M (Except Abort Line) := do
  let read : M (Except Abort Line) := do
    match ← serve { kind := .rdh, src := v.source true, pline := pline, mask := BitVec.allOnes 64 } with
    | .error e => return .error e
    | .ok rep => return .ok rep.data
  if isHub v.who then read
  else
    let held := (← getCluster (v.who / 8)).code.find? (·.pline == pline)
    let again ← match held with
      | some _ => choose 2
      | none => pure 1
    match held, again with
    | some l, 0 => return .ok l.data
    | _, _ =>
      match ← read with
      | .error e => return .error e
      | .ok x =>
        modCluster (v.who / 8) fun c =>
          { c with code := addCapped 1024 (c.code.filter (·.pline != pline)) { pline := pline, data := x } }
        return .ok x

/-- Fetches one parcel (R49, R50, R52). FADDR names the parcel. A line whose data is withheld raises MEMABORT WITHHELD at the
fetch, which the spec does not say (log entry 72). -/
def fetchParcel (pc : BitVec 52) : M Nat := do
  let k ← me
  let v ← myView
  let va := pc.toNat
  let fa := addrWord pc
  if isLocal va then trap .page 0x10 fa
  let page ← translate v va { x := true } fa 0
  match page.home va with
  | .phys pa =>
    if (← get).cutOff v.who (homeDie (pa / 64)) then trap .linkabort 1 fa
    match ← codeLine v (pa / 64) with
    | .error .withheld => trap .memabort 0 fa
    | .error .nomem => trap .memabort 2 fa
    | .ok line => return lineNat line (pa % 64) 2
  | .remote tag tva => loadAt k v (.dev tag tva page) va 2 .self fa 0

/-- Fetches the parcels of the instruction at an address (R48): its word, its literal, its length. A dictionary parcel is
its own word. -/
def fetchInstr (pc : BitVec 52) : M (Nat × BitVec 32 × Nat) := do
  let p ← fetchParcel pc
  match lengthOf p with
  | 2 => return (p, 0, 2)
  | 8 => do
    let q ← fetchParcel (after pc 2)
    let r ← fetchParcel (after pc 4)
    let t ← fetchParcel (after pc 6)
    return (p * 2 ^ 16 + q, BitVec.ofNat 32 (r * 2 ^ 16 + t), 8)
  | _ => do
    let q ← fetchParcel (after pc 2)
    return (p * 2 ^ 16 + q, 0, 4)

/-- ILL at the unit at `pc` (R66). -/
def illAt {α : Type} (pc : BitVec 52) (e : IllSub) (info : Word) : M α := trap .ill e.num (addrWord pc) info

/-- Decodes a fetched word in place; a dictionary parcel decodes to D16 (R60). -/
def decodeFetched (o : Offer) (w : Nat) (lit : BitVec 32) (len : Nat) : Decoded Instr :=
  if len = 2 then decodeParcel w else decodeOn o w lit

/-- The dictionary word of the issuing core at an index (R62). -/
def dictWord (i : BitVec 10) : M Nat := do return ((← getCore (← myWho)).dict.get i.toNat 0).toNat

/-- Majors a dictionary word may not have (R61). -/
def dictForbidden (w : Nat) : Bool :=
  let m := fld w 26 6
  m == 0x0C || m == 0x16 || decide (0x38 ≤ m)

/-- The offer of the issuing thread. -/
def myOffer : M Offer := do return offerOf (← myWho) (← inKernel)

/-- Runs checks of a REP unit: where one traps ILL or PRIV, no instance runs and REPCNT is 0 (R67, R88). -/
def repChecks {α : Type} (m : M α) : M α := do
  match ← attempt m with
  | .ok x => return x
  | .error x =>
    if x.cause = .ill || x.cause = .priv then modMe fun t => { t with ctl := { t.ctl with repcnt := 0 } }
    throw (.trap x)

/-- Fetches the instruction at the issuing thread's PC and decodes it: steps 1 to 3 of R67. The parcels of a REP's follower
are fetched with it (R88, R90); the follower is checked by the meaning of REP, a dictionary word by that of D16. -/
def fetchHere : M Instr := do
  let pc := (← myThread).pc
  let (w, lit, len) ← fetchInstr pc
  let rep := len = 4 && fld w 26 6 == 0x16
  if rep then let _ ← fetchInstr (after pc 4)
  match decodeFetched (← myOffer) w lit len with
  | .error e =>
    let ill := illAt pc e (if len = 2 then illInfo 0 w true false else illInfo w 0 false false)
    if rep then repChecks ill else ill
  | .ok i =>
    if barred i (← inKernel) then trap .priv 0 (addrWord pc) (illInfo w 0 false false)
    return i

/-- What the issuing thread performs next: the REP unit that is under way, fetched and checked before (R67), or the
instruction at its PC. -/
def fetchDecode : M Instr := do
  remoteScope (← me) do
  match (← myThread).rep with
  | some u => return .rep u.count u.sd u.sa u.sb
  | none => fetchHere

end Sys2Proof.Machine
end

