-- ==== Sys2Proof/Machine/Operands.lean ====
section
/-! DEFINITION. The operand forms shared by the instructions: how sources are read, in field order and before the
destination is checked, and how a result is written (R53 to R57, R67, R78, R79). Every form takes the length of the
instruction, 2 in a dictionary parcel (R60). -/

namespace Sys2Proof.Machine

/-- Two sources and a destination of the R format, in the access pipe where `p` (R58, R82). -/
def formRIn (p : Bool) (d a b : Reg) (e f : Bool) (len : Nat) (op : Word → Word → Word) : M Unit := straight len do
  let x ← readIn p a e
  let y ← readIn p b f
  checkDest d
  writeIn p d (op x y)

/-- Two sources and a destination of the R format. -/
def formR (d a b : Reg) (e f : Bool) (len : Nat) (op : Word → Word → Word) : M Unit := formRIn false d a b e f len op

/-- Two sources of the R format and a long-latency result (R78). -/
def formRLong (d a b : Reg) (e f : Bool) (len : Nat) (op : Word → Word → Word) : M Unit := straight len do
  let x ← readG a e
  let y ← readG b f
  checkDest d
  produce d (op x y)

/-- One source and a destination, in the access pipe where `p`: the R format without b, the I and the L format. -/
def formIIn (p : Bool) (d a : Reg) (e : Bool) (len : Nat) (op : Word → Word) : M Unit := straight len do
  let x ← readIn p a e
  checkDest d
  writeIn p d (op x)

/-- One source and a destination in the execute pipe. -/
def formI (d a : Reg) (e : Bool) (len : Nat) (op : Word → Word) : M Unit := formIIn false d a e len op

/-- A destination alone. -/
def formW (d : Reg) (len : Nat) (v : Word) : M Unit := straight len do
  checkDest d
  writeG d v

/-- A destination computed from the instruction's address. -/
def formPc (d : Reg) (len : Nat) (op : BitVec 52 → Word) : M Unit := straight len do
  checkDest d
  writeG d (op (← myThread).pc)

/-! ## Scalar floating point (R23, R31, R101) -/

/-- Two floating-point sources and a floating-point result. -/
def formF2 (d a b : Reg) (e f dbl : Bool) (len : Nat) (op : Fmt → Ctrl → Nat → Nat → Nat × Nat) : M Unit :=
  straight len do
    let x ← readG a e
    let y ← readG b f
    checkDest d
    let c ← sampleFpc
    fpWrite d (op (scalarFmt dbl) c (fpOperand dbl x) (fpOperand dbl y))

/-- One source; the function takes the whole register (R102). -/
def formF1 (d a : Reg) (e : Bool) (len : Nat) (op : Ctrl → Word → Nat × Nat) : M Unit := straight len do
  let x ← readG a e
  checkDest d
  let c ← sampleFpc
  fpWrite d (op c x)

/-- A compare: 1 or 0 as a 64-bit integer (R102). -/
def formFCmp (d a b : Reg) (e f dbl : Bool) (len : Nat) (op : Fmt → Ctrl → Nat → Nat → Bool × Nat) : M Unit :=
  formF2 d a b e f dbl len fun fm c x y => let r := op fm c x y; (bit r.1, r.2)

/-- Two sources and the destination as addend; the destination parks on empty (R57, R101). -/
def formFma (d a b : Reg) (e f dbl : Bool) (len : Nat) : M Unit := straight len do
  let x ← readG a e
  let y ← readG b f
  let z ← readP d
  let c ← sampleFpc
  fpWrite d (fFma (scalarFmt dbl) c (fpOperand dbl x) (fpOperand dbl y) (fpOperand dbl z))

/-- FP32 of one source and a 32-bit constant (R100, R105). -/
def formFLit (d a : Reg) (e : Bool) (len : Nat) (lit : Nat) (op : Fmt → Ctrl → Nat → Nat → Nat × Nat) : M Unit :=
  straight len do
    let x ← readG a e
    checkDest d
    let c ← sampleFpc
    fpWrite d (op .fp32 c (fpOperand false x) lit)

/-- FP32 multiply-add of one source, a 32-bit constant and the destination (R100, R105). -/
def formFmaLit (d a : Reg) (e : Bool) (len : Nat) (lit : Nat) : M Unit := straight len do
  let x ← readG a e
  let z ← readP d
  let c ← sampleFpc
  fpWrite d (fFma .fp32 c (fpOperand false x) lit (fpOperand false z))

/-- FP32 of the destination and a constant (R104). -/
def formFDest (d : Reg) (len : Nat) (lit : Nat) (op : Fmt → Ctrl → Nat → Nat → Nat × Nat) : M Unit := straight len do
  let x ← readP d
  let c ← sampleFpc
  fpWrite d (op .fp32 c (fpOperand false x) lit)

/-- A constant-bank word of the issuing core, read at issue (R62). -/
def bankWord (k : BitVec 8) : M Nat := do return ((← getCore (← myWho)).bank.get k.toNat 0).toNat

end Sys2Proof.Machine
end

