-- ==== Sys2Proof/Machine/Integer.lean ====
section
/-! DEFINITION. Integer instructions of major 0x01 (R22, R96). -/

namespace Sys2Proof.Machine

/-- The quotient of R22, rounded toward zero, at `w` bits. -/
def quotS (w : Nat) (x y : BitVec w) : BitVec w := if y = 0 then BitVec.allOnes w else BitVec.ofInt w (x.toInt.tdiv y.toInt)

/-- The unsigned quotient of R22. -/
def quotU (w : Nat) (x y : BitVec w) : BitVec w := if y = 0 then BitVec.allOnes w else BitVec.ofNat w (x.toNat / y.toNat)

/-- The signed remainder of R22. -/
def remS (w : Nat) (x y : BitVec w) : BitVec w := if y = 0 then x else BitVec.ofInt w (x.toInt.tmod y.toInt)

/-- The unsigned remainder of R22. -/
def remU (w : Nat) (x y : BitVec w) : BitVec w := if y = 0 then x else BitVec.ofNat w (x.toNat % y.toNat)

/-- 1 or 0 as a register value. -/
def truth (c : Bool) : Word := if c then 1 else 0

/-- The shift amount of a register, its bits 5:0 (R96). -/
def amount (y : Word) : Nat := y.toNat % 64

/-- The number of leading zero bits (R96). -/
def leadingZeros (x : Word) : Nat := if x = 0 then 64 else 63 - x.toNat.log2

/-- The number of trailing zero bits (R96). -/
def trailingZeros (x : Word) : Nat := ((List.range 64).find? fun i => x.getLsbD i).getD 64

/-- The number of one bits (R96). -/
def onesCount (x : Word) : Nat := ((List.range 64).filter fun i => x.getLsbD i).length

/-- Adds to the 52 address bits and keeps the fat bits (R96). -/
def addAddress (x y : Word) : Word := x.extractLsb' 52 12 ++ (x.extractLsb' 0 52 + y.extractLsb' 0 52)

/-- Sum modulo 2^64 (R96). -/
def doAdd (p : Bool) (d a b : Reg) (e f : Bool) (len : Nat) : M Unit :=
  formRIn p d a b e f len fun x y => x + y

/-- The meaning of `add`. -/
def execAdd (p : Bool) (d a b : Reg) (e f : Bool) (s : State) : Host.Outcome State Fault Refusal :=
  finish (doAdd p d a b e f 4) s

/-- Difference modulo 2^64 (R96). -/
def doSub (p : Bool) (d a b : Reg) (e f : Bool) (len : Nat) : M Unit :=
  formRIn p d a b e f len fun x y => x - y

/-- The meaning of `sub`. -/
def execSub (p : Bool) (d a b : Reg) (e f : Bool) (s : State) : Host.Outcome State Fault Refusal :=
  finish (doSub p d a b e f 4) s

/-- Low 64 bits of the product (R96). -/
def doMul (d a b : Reg) (e f : Bool) (len : Nat) : M Unit :=
  formR d a b e f len fun x y => x * y

/-- The meaning of `mul`. -/
def execMul (d a b : Reg) (e f : Bool) (s : State) : Host.Outcome State Fault Refusal :=
  finish (doMul d a b e f 4) s

/-- Bits 127:64 of the signed product (R96). -/
def doMulh (d a b : Reg) (e f : Bool) (len : Nat) : M Unit :=
  formR d a b e f len fun x y => BitVec.ofInt 64 (x.toInt * y.toInt / 2 ^ 64)

/-- The meaning of `mulh`. -/
def execMulh (d a b : Reg) (e f : Bool) (s : State) : Host.Outcome State Fault Refusal :=
  finish (doMulh d a b e f 4) s

/-- Bits 127:64 of the unsigned product (R96). -/
def doMulhn (d a b : Reg) (e f : Bool) (len : Nat) : M Unit :=
  formR d a b e f len fun x y => BitVec.ofNat 64 (x.toNat * y.toNat / 2 ^ 64)

/-- The meaning of `mulhn`. -/
def execMulhn (d a b : Reg) (e f : Bool) (s : State) : Host.Outcome State Fault Refusal :=
  finish (doMulhn d a b e f 4) s

/-- Signed quotient (R22, R96), a long-latency result (R78). -/
def doDiv (d a b : Reg) (e f : Bool) (len : Nat) : M Unit :=
  formRLong d a b e f len fun x y => quotS 64 x y

/-- The meaning of `div`. -/
def execDiv (d a b : Reg) (e f : Bool) (s : State) : Host.Outcome State Fault Refusal :=
  finish (doDiv d a b e f 4) s

/-- Unsigned quotient (R22, R96). -/
def doDivn (d a b : Reg) (e f : Bool) (len : Nat) : M Unit :=
  formRLong d a b e f len fun x y => quotU 64 x y

/-- The meaning of `divn`. -/
def execDivn (d a b : Reg) (e f : Bool) (s : State) : Host.Outcome State Fault Refusal :=
  finish (doDivn d a b e f 4) s

/-- Signed remainder (R22, R96). -/
def doRem (d a b : Reg) (e f : Bool) (len : Nat) : M Unit :=
  formRLong d a b e f len fun x y => remS 64 x y

/-- The meaning of `rem`. -/
def execRem (d a b : Reg) (e f : Bool) (s : State) : Host.Outcome State Fault Refusal :=
  finish (doRem d a b e f 4) s

/-- Unsigned remainder (R22, R96). -/
def doRemn (d a b : Reg) (e f : Bool) (len : Nat) : M Unit :=
  formRLong d a b e f len fun x y => remU 64 x y

/-- The meaning of `remn`. -/
def execRemn (d a b : Reg) (e f : Bool) (s : State) : Host.Outcome State Fault Refusal :=
  finish (doRemn d a b e f 4) s

/-- Bitwise AND (R96). -/
def doAnd (p : Bool) (d a b : Reg) (e f : Bool) (len : Nat) : M Unit :=
  formRIn p d a b e f len fun x y => x &&& y

/-- The meaning of `and`. -/
def execAnd (p : Bool) (d a b : Reg) (e f : Bool) (s : State) : Host.Outcome State Fault Refusal :=
  finish (doAnd p d a b e f 4) s

/-- Bitwise OR (R96). -/
def doOr (p : Bool) (d a b : Reg) (e f : Bool) (len : Nat) : M Unit :=
  formRIn p d a b e f len fun x y => x ||| y

/-- The meaning of `or`. -/
def execOr (p : Bool) (d a b : Reg) (e f : Bool) (s : State) : Host.Outcome State Fault Refusal :=
  finish (doOr p d a b e f 4) s

/-- Bitwise XOR (R96). -/
def doXor (p : Bool) (d a b : Reg) (e f : Bool) (len : Nat) : M Unit :=
  formRIn p d a b e f len fun x y => x ^^^ y

/-- The meaning of `xor`. -/
def execXor (p : Bool) (d a b : Reg) (e f : Bool) (s : State) : Host.Outcome State Fault Refusal :=
  finish (doXor p d a b e f 4) s

/-- AND with the complement of g[b] (R96). -/
def doAndn (p : Bool) (d a b : Reg) (e f : Bool) (len : Nat) : M Unit :=
  formRIn p d a b e f len fun x y => x &&& ~~~y

/-- The meaning of `andn`. -/
def execAndn (p : Bool) (d a b : Reg) (e f : Bool) (s : State) : Host.Outcome State Fault Refusal :=
  finish (doAndn p d a b e f 4) s

/-- Shift left by g[b][5:0] (R96). -/
def doSll (p : Bool) (d a b : Reg) (e f : Bool) (len : Nat) : M Unit :=
  formRIn p d a b e f len fun x y => x <<< amount y

/-- The meaning of `sll`. -/
def execSll (p : Bool) (d a b : Reg) (e f : Bool) (s : State) : Host.Outcome State Fault Refusal :=
  finish (doSll p d a b e f 4) s

/-- Shift right by g[b][5:0], zeros in (R96). -/
def doSrl (p : Bool) (d a b : Reg) (e f : Bool) (len : Nat) : M Unit :=
  formRIn p d a b e f len fun x y => x >>> amount y

/-- The meaning of `srl`. -/
def execSrl (p : Bool) (d a b : Reg) (e f : Bool) (s : State) : Host.Outcome State Fault Refusal :=
  finish (doSrl p d a b e f 4) s

/-- Shift right by g[b][5:0], copies of bit 63 in (R96). -/
def doSra (p : Bool) (d a b : Reg) (e f : Bool) (len : Nat) : M Unit :=
  formRIn p d a b e f len fun x y => x.sshiftRight (amount y)

/-- The meaning of `sra`. -/
def execSra (p : Bool) (d a b : Reg) (e f : Bool) (s : State) : Host.Outcome State Fault Refusal :=
  finish (doSra p d a b e f 4) s

/-- Rotates left by g[b][5:0] (R96). -/
def doRol (d a b : Reg) (e f : Bool) (len : Nat) : M Unit :=
  formR d a b e f len fun x y => x.rotateLeft (amount y)

/-- The meaning of `rol`. -/
def execRol (d a b : Reg) (e f : Bool) (s : State) : Host.Outcome State Fault Refusal :=
  finish (doRol d a b e f 4) s

/-- Signed minimum (R96). -/
def doMin (d a b : Reg) (e f : Bool) (len : Nat) : M Unit :=
  formR d a b e f len fun x y => if x.slt y then x else y

/-- The meaning of `min`. -/
def execMin (d a b : Reg) (e f : Bool) (s : State) : Host.Outcome State Fault Refusal :=
  finish (doMin d a b e f 4) s

/-- Signed maximum (R96). -/
def doMax (d a b : Reg) (e f : Bool) (len : Nat) : M Unit :=
  formR d a b e f len fun x y => if x.slt y then y else x

/-- The meaning of `max`. -/
def execMax (d a b : Reg) (e f : Bool) (s : State) : Host.Outcome State Fault Refusal :=
  finish (doMax d a b e f 4) s

/-- Unsigned minimum (R96). -/
def doMinn (d a b : Reg) (e f : Bool) (len : Nat) : M Unit :=
  formR d a b e f len fun x y => if x < y then x else y

/-- The meaning of `minn`. -/
def execMinn (d a b : Reg) (e f : Bool) (s : State) : Host.Outcome State Fault Refusal :=
  finish (doMinn d a b e f 4) s

/-- Unsigned maximum (R96). -/
def doMaxn (d a b : Reg) (e f : Bool) (len : Nat) : M Unit :=
  formR d a b e f len fun x y => if x < y then y else x

/-- The meaning of `maxn`. -/
def execMaxn (d a b : Reg) (e f : Bool) (s : State) : Host.Outcome State Fault Refusal :=
  finish (doMaxn d a b e f 4) s

/-- 1 if g[a] < g[b] signed (R96). -/
def doSlt (d a b : Reg) (e f : Bool) (len : Nat) : M Unit :=
  formR d a b e f len fun x y => truth (x.slt y)

/-- The meaning of `slt`. -/
def execSlt (d a b : Reg) (e f : Bool) (s : State) : Host.Outcome State Fault Refusal :=
  finish (doSlt d a b e f 4) s

/-- 1 if g[a] < g[b] unsigned (R96). -/
def doSltn (d a b : Reg) (e f : Bool) (len : Nat) : M Unit :=
  formR d a b e f len fun x y => truth (x.ult y)

/-- The meaning of `sltn`. -/
def execSltn (d a b : Reg) (e f : Bool) (s : State) : Host.Outcome State Fault Refusal :=
  finish (doSltn d a b e f 4) s

/-- 1 if equal (R96). -/
def doSeq (d a b : Reg) (e f : Bool) (len : Nat) : M Unit :=
  formR d a b e f len fun x y => truth (x == y)

/-- The meaning of `seq`. -/
def execSeq (d a b : Reg) (e f : Bool) (s : State) : Host.Outcome State Fault Refusal :=
  finish (doSeq d a b e f 4) s

/-- Leading zero bits, 64 for 0 (R96). -/
def doClz (d a : Reg) (e : Bool) (len : Nat) : M Unit :=
  formI d a e len fun x => BitVec.ofNat 64 (leadingZeros x)

/-- The meaning of `clz`. -/
def execClz (d a : Reg) (e : Bool) (s : State) : Host.Outcome State Fault Refusal :=
  finish (doClz d a e 4) s

/-- Trailing zero bits, 64 for 0 (R96). -/
def doCtz (d a : Reg) (e : Bool) (len : Nat) : M Unit :=
  formI d a e len fun x => BitVec.ofNat 64 (trailingZeros x)

/-- The meaning of `ctz`. -/
def execCtz (d a : Reg) (e : Bool) (s : State) : Host.Outcome State Fault Refusal :=
  finish (doCtz d a e 4) s

/-- One bits (R96). -/
def doPopc (d a : Reg) (e : Bool) (len : Nat) : M Unit :=
  formI d a e len fun x => BitVec.ofNat 64 (onesCount x)

/-- The meaning of `popc`. -/
def execPopc (d a : Reg) (e : Bool) (s : State) : Host.Outcome State Fault Refusal :=
  finish (doPopc d a e 4) s

/-- Adds to the 52 address bits, fat bits kept (R96). -/
def doPadd (p : Bool) (d a b : Reg) (e f : Bool) (len : Nat) : M Unit :=
  formRIn p d a b e f len fun x y => addAddress x y

/-- The meaning of `padd`. -/
def execPadd (p : Bool) (d a b : Reg) (e f : Bool) (s : State) : Host.Outcome State Fault Refusal :=
  finish (doPadd p d a b e f 4) s

/-- Difference of two addresses as a signed 52-bit value (R96). -/
def doPdiff (d a b : Reg) (e f : Bool) (len : Nat) : M Unit :=
  formR d a b e f len fun x y => (x.extractLsb' 0 52 - y.extractLsb' 0 52).signExtend 64

/-- The meaning of `pdiff`. -/
def execPdiff (d a b : Reg) (e f : Bool) (s : State) : Host.Outcome State Fault Refusal :=
  finish (doPdiff d a b e f 4) s

/-- Sets the fat bits from g[b][11:0] (R96). -/
def doFatset (p : Bool) (d a b : Reg) (e f : Bool) (len : Nat) : M Unit :=
  formRIn p d a b e f len fun x y => y.extractLsb' 0 12 ++ x.extractLsb' 0 52

/-- The meaning of `fatset`. -/
def execFatset (p : Bool) (d a b : Reg) (e f : Bool) (s : State) : Host.Outcome State Fault Refusal :=
  finish (doFatset p d a b e f 4) s

/-- Reads the fat bits (R96). -/
def doFatget (p : Bool) (d a : Reg) (e : Bool) (len : Nat) : M Unit :=
  formIIn p d a e len fun x => BitVec.ofNat 64 (bits x 63 52)

/-- The meaning of `fatget`. -/
def execFatget (p : Bool) (d a : Reg) (e : Bool) (s : State) : Host.Outcome State Fault Refusal :=
  finish (doFatget p d a e 4) s

end Sys2Proof.Machine
end

