-- ==== Sys2Proof/Machine/Immediate.lean ====
section
/-! DEFINITION. Immediate and literal instructions (R98 to R100). -/

namespace Sys2Proof.Machine

/-- A PC-relative target: the address plus twice the signed parcel count, modulo 2^52 (R54). -/
def relative {n : Nat} (pc : BitVec 52) (i : BitVec n) : BitVec 52 := pc + BitVec.ofInt 52 (2 * i.toInt)

/-- Adds the sign-extended immediate (R98). -/
def doAddi (p : Bool) (d a : Reg) (e : Bool) (i : BitVec 14) (len : Nat) : M Unit :=
  formIIn p d a e len fun x => x + i.signExtend 64

/-- The meaning of `addi`. -/
def execAddi (p : Bool) (d a : Reg) (e : Bool) (i : BitVec 14) (s : State) : Host.Outcome State Fault Refusal :=
  finish (doAddi p d a e i 4) s

/-- AND with the zero-extended immediate (R98). -/
def doAndi (p : Bool) (d a : Reg) (e : Bool) (i : BitVec 14) (len : Nat) : M Unit :=
  formIIn p d a e len fun x => x &&& i.setWidth 64

/-- The meaning of `andi`. -/
def execAndi (p : Bool) (d a : Reg) (e : Bool) (i : BitVec 14) (s : State) : Host.Outcome State Fault Refusal :=
  finish (doAndi p d a e i 4) s

/-- OR with the zero-extended immediate (R98). -/
def doOri (p : Bool) (d a : Reg) (e : Bool) (i : BitVec 14) (len : Nat) : M Unit :=
  formIIn p d a e len fun x => x ||| i.setWidth 64

/-- The meaning of `ori`. -/
def execOri (p : Bool) (d a : Reg) (e : Bool) (i : BitVec 14) (s : State) : Host.Outcome State Fault Refusal :=
  finish (doOri p d a e i 4) s

/-- XOR with the zero-extended immediate (R98). -/
def doXori (p : Bool) (d a : Reg) (e : Bool) (i : BitVec 14) (len : Nat) : M Unit :=
  formIIn p d a e len fun x => x ^^^ i.setWidth 64

/-- The meaning of `xori`. -/
def execXori (p : Bool) (d a : Reg) (e : Bool) (i : BitVec 14) (s : State) : Host.Outcome State Fault Refusal :=
  finish (doXori p d a e i 4) s

/-- Shift left by n (R98). -/
def doSlli (p : Bool) (d a : Reg) (e : Bool) (n : BitVec 6) (len : Nat) : M Unit :=
  formIIn p d a e len fun x => x <<< n.toNat

/-- The meaning of `slli`. -/
def execSlli (p : Bool) (d a : Reg) (e : Bool) (n : BitVec 6) (s : State) : Host.Outcome State Fault Refusal :=
  finish (doSlli p d a e n 4) s

/-- Shift right by n, zeros in (R98). -/
def doSrli (p : Bool) (d a : Reg) (e : Bool) (n : BitVec 6) (len : Nat) : M Unit :=
  formIIn p d a e len fun x => x >>> n.toNat

/-- The meaning of `srli`. -/
def execSrli (p : Bool) (d a : Reg) (e : Bool) (n : BitVec 6) (s : State) : Host.Outcome State Fault Refusal :=
  finish (doSrli p d a e n 4) s

/-- Shift right by n, copies of bit 63 in (R98). -/
def doSrai (p : Bool) (d a : Reg) (e : Bool) (n : BitVec 6) (len : Nat) : M Unit :=
  formIIn p d a e len fun x => x.sshiftRight n.toNat

/-- The meaning of `srai`. -/
def execSrai (p : Bool) (d a : Reg) (e : Bool) (n : BitVec 6) (s : State) : Host.Outcome State Fault Refusal :=
  finish (doSrai p d a e n 4) s

/-- Rotates left by n (R98). -/
def doRoli (p : Bool) (d a : Reg) (e : Bool) (n : BitVec 6) (len : Nat) : M Unit :=
  formIIn p d a e len fun x => x.rotateLeft n.toNat

/-- The meaning of `roli`. -/
def execRoli (p : Bool) (d a : Reg) (e : Bool) (n : BitVec 6) (s : State) : Host.Outcome State Fault Refusal :=
  finish (doRoli p d a e n 4) s

/-- 1 if g[a] is less than the immediate, signed (R98). -/
def doSlti (d a : Reg) (e : Bool) (i : BitVec 14) (len : Nat) : M Unit :=
  formI d a e len fun x => truth (x.slt (i.signExtend 64))

/-- The meaning of `slti`. -/
def execSlti (d a : Reg) (e : Bool) (i : BitVec 14) (s : State) : Host.Outcome State Fault Refusal :=
  finish (doSlti d a e i 4) s

/-- 1 if g[a] is less than the sign-extended immediate, unsigned (R98). -/
def doSltni (d a : Reg) (e : Bool) (i : BitVec 14) (len : Nat) : M Unit :=
  formI d a e len fun x => truth (x.ult (i.signExtend 64))

/-- The meaning of `sltni`. -/
def execSltni (d a : Reg) (e : Bool) (i : BitVec 14) (s : State) : Host.Outcome State Fault Refusal :=
  finish (doSltni d a e i 4) s

/-- Adds the immediate to the address bits, fat bits kept (R98). -/
def doPaddi (p : Bool) (d a : Reg) (e : Bool) (i : BitVec 14) (len : Nat) : M Unit :=
  formIIn p d a e len fun x => addAddress x (i.signExtend 64)

/-- The meaning of `paddi`. -/
def execPaddi (p : Bool) (d a : Reg) (e : Bool) (i : BitVec 14) (s : State) : Host.Outcome State Fault Refusal :=
  finish (doPaddi p d a e i 4) s

/-- The sign-extended 21-bit immediate (R99). -/
def doMovi (d : Reg) (i : BitVec 21) (len : Nat) : M Unit :=
  formW d len (i.signExtend 64)

/-- The meaning of `movi`. -/
def execMovi (d : Reg) (i : BitVec 21) (s : State) : Host.Outcome State Fault Refusal :=
  finish (doMovi d i 4) s

/-- (PC + 2 × imm21) mod 2^52, fat bits zero (R99). -/
def doAdr (d : Reg) (i : BitVec 21) (len : Nat) : M Unit :=
  formPc d len fun pc => (relative pc i).setWidth 64

/-- The meaning of `adr`. -/
def execAdr (d : Reg) (i : BitVec 21) (s : State) : Host.Outcome State Fault Refusal :=
  finish (doAdr d i 4) s

/-- The literal, sign-extended (R100). -/
def doMovl (d : Reg) (lit : BitVec 32) (len : Nat) : M Unit :=
  formW d len (lit.signExtend 64)

/-- The meaning of `movl`. -/
def execMovl (d : Reg) (lit : BitVec 32) (s : State) : Host.Outcome State Fault Refusal :=
  finish (doMovl d lit 8) s

/-- The literal, zero-extended (R100). -/
def doMovlz (d : Reg) (lit : BitVec 32) (len : Nat) : M Unit :=
  formW d len (lit.setWidth 64)

/-- The meaning of `movlz`. -/
def execMovlz (d : Reg) (lit : BitVec 32) (s : State) : Host.Outcome State Fault Refusal :=
  finish (doMovlz d lit 8) s

/-- The literal over g[a][31:0] (R100). -/
def doMovlh (d a : Reg) (e : Bool) (lit : BitVec 32) (len : Nat) : M Unit :=
  formI d a e len fun x => lit ++ x.extractLsb' 0 32

/-- The meaning of `movlh`. -/
def execMovlh (d a : Reg) (e : Bool) (lit : BitVec 32) (s : State) : Host.Outcome State Fault Refusal :=
  finish (doMovlh d a e lit 8) s

/-- Adds the sign-extended literal (R100). -/
def doAddl (d a : Reg) (e : Bool) (lit : BitVec 32) (len : Nat) : M Unit :=
  formI d a e len fun x => x + lit.signExtend 64

/-- The meaning of `addl`. -/
def execAddl (d a : Reg) (e : Bool) (lit : BitVec 32) (s : State) : Host.Outcome State Fault Refusal :=
  finish (doAddl d a e lit 8) s

/-- FP32 g[a] × lit + g[d], one rounding (R100). -/
def doFmal (d a : Reg) (e : Bool) (lit : BitVec 32) (len : Nat) : M Unit :=
  formFmaLit d a e len lit.toNat

/-- The meaning of `fmal`. -/
def execFmal (d a : Reg) (e : Bool) (lit : BitVec 32) (s : State) : Host.Outcome State Fault Refusal :=
  finish (doFmal d a e lit 8) s

/-- FP32 g[a] + lit (R100). -/
def doFaddl (d a : Reg) (e : Bool) (lit : BitVec 32) (len : Nat) : M Unit :=
  formFLit d a e len lit.toNat fAdd

/-- The meaning of `faddl`. -/
def execFaddl (d a : Reg) (e : Bool) (lit : BitVec 32) (s : State) : Host.Outcome State Fault Refusal :=
  finish (doFaddl d a e lit 8) s

/-- FP32 g[a] × lit (R100). -/
def doFmull (d a : Reg) (e : Bool) (lit : BitVec 32) (len : Nat) : M Unit :=
  formFLit d a e len lit.toNat fMul

/-- The meaning of `fmull`. -/
def execFmull (d a : Reg) (e : Bool) (lit : BitVec 32) (s : State) : Host.Outcome State Fault Refusal :=
  finish (doFmull d a e lit 8) s

end Sys2Proof.Machine
end

