-- ==== Sys2Proof/Machine/Control.lean ====
section
/-! DEFINITION. Control transfer and the activation: branches, calls and the return stack, ALIGN, ENDACT, YIELD, TRIGGER
and RESUME (R49, R85 to R87, R94, R106 to R112, R184, R185, R321). -/

namespace Sys2Proof.Machine

/-! ## The return stack (R86, R87) -/

/-- PAGE at a spill or fill takes the subcode of R86; any other trap is raised as it is. -/
def stackTrap (sub : Nat) (x : Trap) : Trap := if x.cause = .page then { x with sub := sub } else x

/-- Runs a spill or fill access. -/
def stackAccess {α : Type} (sub : Nat) (m : M α) : M α := do
  match ← attempt m with
  | .ok a => return a
  | .error x => throw (.trap (stackTrap sub x))

/-- A store past collecting mode (R86): SELF, 8 bytes. -/
def spillStore (va : Nat) (x : Word) : M Unit := do
  let fa := BitVec.ofNat 64 va
  let fi := accessInfo 3 true false 0 false false
  let w ← checkScalar va 8 { w := true } true .self false fa fi
  storeAt (← me) (← myView) w va 8 .self x.toNat false fa fi

/-- A load past collecting mode (R86): SELF, 8 bytes. -/
def fillLoad (va : Nat) : M Word := do
  let fa := BitVec.ofNat 64 va
  let fi := accessInfo 3 false false 0 false false
  let w ← checkScalar va 8 {} false .self false fa fi
  return BitVec.ofNat 64 (← loadAt (← me) (← myView) w va 8 .self fa fi)

/-- A return-stack entry (R86). -/
def stackEntry (link : BitVec 52) (c : Bool) : Word := (if c then (2 : Word) ^ 63 else 0) ||| link.setWidth 64

/-- Pushes an entry; a full stack spills its oldest first (R86). -/
def push (e : Word) : M Unit := do
  let t ← myThread
  if t.rstack.length ≥ 8 then
    let ptr := t.ctl.rsptr
    if ptr.toNat % 8 ≠ 0 then trap .misalign 0 (addrWord ptr)
    let lower := ptr - 8
    stackAccess 0x20 (spillStore lower.toNat (t.rstack.getLastD 0))
    modMe fun t => { t with
      rstack := e :: t.rstack.dropLast
      ctl := { t.ctl with rsptr := lower, spilled := t.ctl.spilled + 1 } }
  else modMe fun t => { t with rstack := e :: t.rstack }

/-- The entry that a RET takes, with the change that taking it makes; a stack with nothing on chip fills one first (R86,
R87). `none` when no entry is left. -/
def peekStack : M (Option (Word × (Thread → Thread))) := do
  let t ← myThread
  match t.rstack with
  | e :: _ => return some (e, fun t => { t with rstack := t.rstack.tail })
  | [] =>
    if t.ctl.spilled = 0 then return none
    else
      let e ← stackAccess 0x21 (fillLoad t.ctl.rsptr.toNat)
      if bits e 62 52 ≠ 0 || e.getLsbD 0 then trap .misalign 0 e
      return some (e, fun t => { t with ctl := { t.ctl with rsptr := t.ctl.rsptr + 8, spilled := t.ctl.spilled - 1 } })

/-- Sets the PC. -/
def goto (pc : BitVec 52) : M Unit := modMe fun t => { t with pc := pc }

/-- A register target (R49): bit 0 set raises MISALIGN. -/
def targetOf (x : Word) : M (BitVec 52) := do
  if x.getLsbD 0 then trap .misalign 0 (BitVec.ofNat 64 (vaOf x))
  return x.setWidth 52

/-- A call (R107): pushes the link and writes it. -/
def call (d : Reg) (target : BitVec 52) (c : Bool) (len : Nat) : M Unit := do
  let link := after (← myThread).pc len
  push (stackEntry link c)
  writeG d (addrWord link)
  goto target

/-- A collecting call (R184): a new ACTIVE list. -/
def collectingCall (d : Reg) (target : BitVec 52) (len : Nat) : M Unit := do
  let k ← me
  if isHub (k / 8) then trap .ebad 9
  let t ← getThread k
  if t.lists.length ≥ 4 then trap .ebad 1
  if ((← getCluster (k / 8 / 8)).freeDescr).isNone then trap .ecap 2
  call d target true len
  let n ← makeList { owner := k / 8, maker := some k, ctx := t.kern.ctxid.toNat }
  modMe fun t => { t with lists := t.lists ++ [n] }

/-! ## Branches, jumps, calls -/

/-- Whether a branch condition holds (R59, R106). -/
def condHolds (c : Cond) (x y : Word) : Bool :=
  match c with
  | .eq => x == y
  | .ne => x != y
  | .lt => x.slt y
  | .ge => !x.slt y
  | .ltn => x.ult y
  | .gen => !x.ult y

/-- BR (R106). -/
def doBr (a b : Reg) (c : Cond) (o : BitVec 13) (len : Nat) : M Unit := do
  let x ← readP a
  let y ← readP b
  let pc := (← myThread).pc
  goto (if condHolds c x y then relative pc o else after pc len)

/-- The meaning of `br`. -/
def execBr (a b : Reg) (c : Cond) (o : BitVec 13) (s : State) : Host.Outcome State Fault Refusal := finish (doBr a b c o 4) s

/-- J (R107). -/
def doJ (i : BitVec 21) (_len : Nat) : M Unit := do goto (relative (← myThread).pc i)

/-- The meaning of `j`. -/
def execJ (i : BitVec 21) (s : State) : Host.Outcome State Fault Refusal := finish (doJ i 4) s

/-- JAL (R107). -/
def doJal (d : Reg) (i : BitVec 21) (len : Nat) : M Unit := do
  checkDest d
  call d (relative (← myThread).pc i) false len

/-- The meaning of `jal`. -/
def execJal (d : Reg) (i : BitVec 21) (s : State) : Host.Outcome State Fault Refusal := finish (doJal d i 4) s

/-- CALLC (R107, R184). -/
def doCallc (d : Reg) (i : BitVec 21) (len : Nat) : M Unit := do
  checkDest d
  collectingCall d (relative (← myThread).pc i) len

/-- The meaning of `callc`. -/
def execCallc (d : Reg) (i : BitVec 21) (s : State) : Host.Outcome State Fault Refusal := finish (doCallc d i 4) s

/-- JR (R107). -/
def doJr (a : Reg) (e : Bool) (_len : Nat) : M Unit := do goto (← targetOf (← readG a e))

/-- The meaning of `jr`. -/
def execJr (a : Reg) (e : Bool) (s : State) : Host.Outcome State Fault Refusal := finish (doJr a e 4) s

/-- JALR (R107). -/
def doJalr (d a : Reg) (e : Bool) (len : Nat) : M Unit := do
  let t ← targetOf (← readG a e)
  checkDest d
  call d t false len

/-- The meaning of `jalr`. -/
def execJalr (d a : Reg) (e : Bool) (s : State) : Host.Outcome State Fault Refusal := finish (doJalr d a e 4) s

/-- CALLCR (R185). -/
def doCallcr (d a : Reg) (e : Bool) (len : Nat) : M Unit := do
  let t ← targetOf (← readG a e)
  checkDest d
  collectingCall d t len

/-- The meaning of `callcr`. -/
def execCallcr (d a : Reg) (e : Bool) (s : State) : Host.Outcome State Fault Refusal := finish (doCallcr d a e 4) s

/-- RET (R108): an entry with C closes the innermost list and writes its handle to g3; with nothing left it is ENDACT. -/
def doRet (_len : Nat) : M Unit := do
  match ← peekStack with
  | none => endActivation
  | some (e, take) =>
    if e.getLsbD 63 then
      let t ← myThread
      match t.lists.getLast? with
      | none => trap .ebad 2
      | some d =>
        checkDest 3
        modMyList d fun l => { l with st := .closed }
        let h ← myHandle d
        modMe fun t => { take t with lists := t.lists.dropLast }
        writeG 3 h
        goto (e.setWidth 52)
    else
      modMe take
      goto (e.setWidth 52)

/-- The meaning of `ret`. -/
def execRet (s : State) : Host.Outcome State Fault Refusal := finish (doRet 4) s

/-! ## ALIGN (R85) -/

/-- The launch that holds a core. -/
def State.launchOf (s : State) (who : Nat) : Option Nat := (s.core who).held.map (·.1)

/-- Whether the ALIGN of a thread may end: every other core of the cluster holds a thread of the launch at the same PC, or
no RUNNABLE or PARKED thread of it. -/
def alignMet (s : State) (k : Nat) : Bool :=
  let who := k / 8
  let pc := (s.thread k).pc
  (List.range 8).all fun i =>
    let w := who / 8 * 8 + i
    w == who || isHub who || s.launchOf w != s.launchOf who || s.launchOf who == none ||
      (let ts := (List.range 8).map fun h => s.thread (w * 8 + h)
       ts.any (fun t => t.st != .dormant && t.pc == pc) ||
        ts.all (fun t => match t.st with | .runnable | .parked _ => false | _ => true))

/-- Wakes the threads whose ALIGN may end; it completes when they issue again. -/
def settleAligns (s : State) : State :=
  if s.threads.any fun kt => match kt.2.st with | .parked (.align _) => true | _ => false then
    { s with threads := s.threads.map fun kt =>
        match kt.2.st with
        | .parked (.align _) => if alignMet s kt.1 then (kt.1, { kt.2 with st := .runnable }) else kt
        | _ => kt }
  else s

/-- ALIGN (R85): parks; once woken it completes. -/
def doAlign (len : Nat) : M Unit := do
  let k ← me
  let s ← get
  if (s.thread k).alignAt.isSome then
    modMe fun t => { t with alignAt := none }
    advance len
  else if alignMet s k then advance len
  else
    modMe fun t => { t with alignAt := some s.time }
    park (.align s.time)

/-- The meaning of `align`. -/
def execAlign (s : State) : Host.Outcome State Fault Refusal := finish (doAlign 4) s

/-- 256 cycles have passed since a thread's ALIGN issued (R85). -/
def execAlignTimeout (t : Nat) (s : State) : Host.Outcome State Fault Refusal :=
  .next (s.setThread t ((s.thread t).wakeIf fun r => match r with | .align _ => true | _ => false))

/-! ## ENDACT, YIELD, TRIGGER -/

/-- ENDACT (R110). -/
def doEndact (_len : Nat) : M Unit := endActivation

/-- The meaning of `endact`. -/
def execEndact (s : State) : Host.Outcome State Fault Refusal := finish (doEndact 4) s

/-- YIELD (R109): the thread goes to the back of the core's round robin. -/
def doYield (len : Nat) : M Unit := straight len do
  let k ← me
  modCore (k / 8) fun c => { c with order := c.order.filter (· != k % 8) ++ [k % 8] }

/-- The meaning of `yield`. -/
def execYield (s : State) : Host.Outcome State Fault Refusal := finish (doYield 4) s

/-- TRIGGER (R111, R321): a release at PACKAGE scope; the launch's count rises. -/
def doTrigger (len : Nat) : M Unit := straight len do
  forbidCollecting
  let k ← me
  release k .package
  match (← get).launchOf (k / 8) with
  | none => pure ()
  | some id =>
    modify fun s => match s.launches.find? id with
      | none => s
      | some l => { s with launches := s.launches.put id { l with triggers := l.triggers + 1 } }

/-- The meaning of `trigger`. -/
def execTrigger (s : State) : Host.Outcome State Fault Refusal := finish (doTrigger 4) s

/-! ## RESUME (R94) -/

/-- Reads a parcel in the address space of another thread, as its fetch would (R94). -/
def parcelOf (k : Nat) (pc : BitVec 52) : M Nat := do
  let v := viewOf k (← getThread k)
  let fa := addrWord pc
  let va := pc.toNat
  if isLocal va then trap .page 0x10 fa
  let page ← translate v va { x := true } fa 0
  match page.home va with
  | .phys pa =>
    if (← get).cutOff v.who (homeDie (pa / 64)) then trap .linkabort 1 fa
    match ← serve { kind := .rdh, src := v.source true, pline := pa / 64, mask := byteMask (pa % 64) 2 } with
    | .error e => abortCause e fa 0
    | .ok rep => return lineNat rep.data (pa % 64) 2
  | .remote tag tva => return leNat (← remote (← me) v .load tag tva 2 [] 0 fa 0)

/-- The length of the unit at an address (R48, R94): a REP counts with its follower. -/
def unitLength (k : Nat) (pc : BitVec 52) : M (Nat × Bool) := do
  let p ← parcelOf k pc
  if fld p 10 6 = 0x16 then
    let q ← parcelOf k (after pc 4)
    return (4 + lengthOf q, true)
  else return (lengthOf p, false)

/-- Whether RESUME may name a thread's state (R94). -/
def resumable : RunState → Bool
  | .trapped | .parked .fpx => true
  | _ => false

/-- RESUME (R94). -/
def doResume (d a b : Reg) (e f : Bool) (len : Nat) : M Unit := straight len do
  let x ← readG a e
  let y ← readG b f
  checkDest d
  remoteScope (← me) do
    let k ← me
    let who := bits x 16 3
    let key := who * 8 + bits x 2 0
    let sc := if !isHub who && who < 0x2000 && dieOf who != dieOf (k / 8) then Scope.package else Scope.die
    release k sc
    let t ← getThread key
    if !isDevKernel (k / 8) || who ≥ 0x2000 then writeG d 2
    else if bits y 63 2 ≠ 0 then writeG d 3
    else if !resumable t.st then writeG d 1
    else
      let go := fun (pc : BitVec 52) (keep rep : Bool) => do
        modThread key fun t => { t with
          st := .runnable
          pc := pc
          pipeMark := if keep then t.pipeMark else none
          retry := keep && t.pipeMark.isSome
          arrived := if keep then t.arrived else none
          ctl := if rep then { t.ctl with repcnt := 0 } else t.ctl }
        acquire key sc
      let abort := do
        modThread key fun t => { t with pipeMark := none }
        abortActivation key
      let epc := t.ctl.epc.setWidth 52
      match bits y 1 0 with
      | 0 => go epc true false
      | 1 =>
        let (n, rep) ← unitLength key epc
        go (after epc n) false rep
      | 2 => if t.ctl.utrap = 0 || t.ctl.utrap.getLsbD 0 then abort else go t.ctl.utrap false false
      | _ => abort
      writeG d 0

/-- The meaning of `resume`. -/
def execResume (d a b : Reg) (e f : Bool) (s : State) : Host.Outcome State Fault Refusal := finish (doResume d a b e f 4) s

end Sys2Proof.Machine
end

