-- ==== Sys2Proof/Machine/FloatScalar.lean ====
section
/-! DEFINITION. Scalar floating point (R101 to R105). -/

namespace Sys2Proof.Machine

/-- Floating-point sum (R102). -/
def doFadd (d a b : Reg) (e f w : Bool) (len : Nat) : M Unit :=
  formF2 d a b e f w len fAdd

/-- The meaning of `fadd`. -/
def execFadd (d a b : Reg) (e f w : Bool) (s : State) : Host.Outcome State Fault Refusal :=
  finish (doFadd d a b e f w 4) s

/-- Floating-point difference (R102). -/
def doFsub (d a b : Reg) (e f w : Bool) (len : Nat) : M Unit :=
  formF2 d a b e f w len fSub

/-- The meaning of `fsub`. -/
def execFsub (d a b : Reg) (e f w : Bool) (s : State) : Host.Outcome State Fault Refusal :=
  finish (doFsub d a b e f w 4) s

/-- Floating-point product (R102). -/
def doFmul (d a b : Reg) (e f w : Bool) (len : Nat) : M Unit :=
  formF2 d a b e f w len fMul

/-- The meaning of `fmul`. -/
def execFmul (d a b : Reg) (e f w : Bool) (s : State) : Host.Outcome State Fault Refusal :=
  finish (doFmul d a b e f w 4) s

/-- Floating-point quotient (R102). -/
def doFdiv (d a b : Reg) (e f w : Bool) (len : Nat) : M Unit :=
  formF2 d a b e f w len fDiv

/-- The meaning of `fdiv`. -/
def execFdiv (d a b : Reg) (e f w : Bool) (s : State) : Host.Outcome State Fault Refusal :=
  finish (doFdiv d a b e f w 4) s

/-- Square root (R102). -/
def doFsqrt (d a : Reg) (e w : Bool) (len : Nat) : M Unit :=
  formF1 d a e len fun c x => fSqrt (scalarFmt w) c (fpOperand w x)

/-- The meaning of `fsqrt`. -/
def execFsqrt (d a : Reg) (e w : Bool) (s : State) : Host.Outcome State Fault Refusal :=
  finish (doFsqrt d a e w 4) s

/-- g[a] × g[b] + g[d], one rounding (R102). -/
def doFma (d a b : Reg) (e f w : Bool) (len : Nat) : M Unit :=
  formFma d a b e f w len

/-- The meaning of `fma`. -/
def execFma (d a b : Reg) (e f w : Bool) (s : State) : Host.Outcome State Fault Refusal :=
  finish (doFma d a b e f w 4) s

/-- Floating-point minimum (R103). -/
def doFmin (d a b : Reg) (e f w : Bool) (len : Nat) : M Unit :=
  formF2 d a b e f w len fun fm c x y => fMinMax fm c false x y

/-- The meaning of `fmin`. -/
def execFmin (d a b : Reg) (e f w : Bool) (s : State) : Host.Outcome State Fault Refusal :=
  finish (doFmin d a b e f w 4) s

/-- Floating-point maximum (R103). -/
def doFmax (d a b : Reg) (e f w : Bool) (len : Nat) : M Unit :=
  formF2 d a b e f w len fun fm c x y => fMinMax fm c true x y

/-- The meaning of `fmax`. -/
def execFmax (d a b : Reg) (e f w : Bool) (s : State) : Host.Outcome State Fault Refusal :=
  finish (doFmax d a b e f w 4) s

/-- The sign inverted (R102). -/
def doFneg (d a : Reg) (e w : Bool) (len : Nat) : M Unit :=
  formF1 d a e len fun c x => fSign (scalarFmt w) c false (fpOperand w x)

/-- The meaning of `fneg`. -/
def execFneg (d a : Reg) (e w : Bool) (s : State) : Host.Outcome State Fault Refusal :=
  finish (doFneg d a e w 4) s

/-- The sign cleared (R102). -/
def doFabs (d a : Reg) (e w : Bool) (len : Nat) : M Unit :=
  formF1 d a e len fun c x => fSign (scalarFmt w) c true (fpOperand w x)

/-- The meaning of `fabs`. -/
def execFabs (d a : Reg) (e w : Bool) (s : State) : Host.Outcome State Fault Refusal :=
  finish (doFabs d a e w 4) s

/-- 1 if equal (R102). -/
def doFeq (d a b : Reg) (e f w : Bool) (len : Nat) : M Unit :=
  formFCmp d a b e f w len fEq

/-- The meaning of `feq`. -/
def execFeq (d a b : Reg) (e f w : Bool) (s : State) : Host.Outcome State Fault Refusal :=
  finish (doFeq d a b e f w 4) s

/-- 1 if less (R102). -/
def doFlt (d a b : Reg) (e f w : Bool) (len : Nat) : M Unit :=
  formFCmp d a b e f w len fLt

/-- The meaning of `flt`. -/
def execFlt (d a b : Reg) (e f w : Bool) (s : State) : Host.Outcome State Fault Refusal :=
  finish (doFlt d a b e f w 4) s

/-- 1 if less or equal (R102). -/
def doFle (d a b : Reg) (e f w : Bool) (len : Nat) : M Unit :=
  formFCmp d a b e f w len fLe

/-- The meaning of `fle`. -/
def execFle (d a b : Reg) (e f w : Bool) (s : State) : Host.Outcome State Fault Refusal :=
  finish (doFle d a b e f w 4) s

/-- The class mask (R103). -/
def doFclass (d a : Reg) (e w : Bool) (len : Nat) : M Unit :=
  formF1 d a e len fun _ x => (fClass (scalarFmt w) (fpOperand w x), 0)

/-- The meaning of `fclass`. -/
def execFclass (d a : Reg) (e w : Bool) (s : State) : Host.Outcome State Fault Refusal :=
  finish (doFclass d a e w 4) s

/-- To a signed 64-bit integer in the FPC mode (R35, R102). -/
def doFcvti (d a : Reg) (e w : Bool) (len : Nat) : M Unit :=
  formF1 d a e len fun c x => toInt 64 c.rm ((scalarFmt w).operand c.ftz (fpOperand w x))

/-- The meaning of `fcvti`. -/
def execFcvti (d a : Reg) (e w : Bool) (s : State) : Host.Outcome State Fault Refusal :=
  finish (doFcvti d a e w 4) s

/-- From a signed 64-bit integer (R102). -/
def doFcvtf (d a : Reg) (e w : Bool) (len : Nat) : M Unit :=
  formF1 d a e len fun c x => ofInt (scalarFmt w) c x.toInt

/-- The meaning of `fcvtf`. -/
def execFcvtf (d a : Reg) (e w : Bool) (s : State) : Host.Outcome State Fault Refusal :=
  finish (doFcvtf d a e w 4) s

/-- Between FP64 and FP32: `w` widens FP32 to FP64, exactly; otherwise FP64 is rounded to FP32 (R34, R102). -/
def doFcvtp (d a : Reg) (e w : Bool) (len : Nat) : M Unit :=
  formF1 d a e len fun c x =>
    if w then convert .fp32 .fp64 c (fpOperand false x) else convert .fp64 .fp32 c (fpOperand true x)

/-- The meaning of `fcvtp`. -/
def execFcvtp (d a : Reg) (e w : Bool) (s : State) : Host.Outcome State Fault Refusal :=
  finish (doFcvtp d a e w 4) s

/-- As FCVTI, rounding toward zero (R102). -/
def doFcvtit (d a : Reg) (e w : Bool) (len : Nat) : M Unit :=
  formF1 d a e len fun c x => toInt 64 1 ((scalarFmt w).operand c.ftz (fpOperand w x))

/-- The meaning of `fcvtit`. -/
def execFcvtit (d a : Reg) (e w : Bool) (s : State) : Host.Outcome State Fault Refusal :=
  finish (doFcvtit d a e w 4) s

/-- The float immediate (R104). -/
def doFmovi (d : Reg) (imm : BitVec 20) (len : Nat) : M Unit :=
  formW d len (BitVec.ofNat 64 (imm.toNat * 2 ^ 12))

/-- The meaning of `fmovi`. -/
def execFmovi (d : Reg) (imm : BitVec 20) (s : State) : Host.Outcome State Fault Refusal :=
  finish (doFmovi d imm 4) s

/-- g[d] + the float immediate (R104). -/
def doFaddi (d : Reg) (imm : BitVec 20) (len : Nat) : M Unit :=
  formFDest d len (imm.toNat * 2 ^ 12) fAdd

/-- The meaning of `faddi`. -/
def execFaddi (d : Reg) (imm : BitVec 20) (s : State) : Host.Outcome State Fault Refusal :=
  finish (doFaddi d imm 4) s

/-- g[d] × the float immediate (R104). -/
def doFmuli (d : Reg) (imm : BitVec 20) (len : Nat) : M Unit :=
  formFDest d len (imm.toNat * 2 ^ 12) fMul

/-- The meaning of `fmuli`. -/
def execFmuli (d : Reg) (imm : BitVec 20) (s : State) : Host.Outcome State Fault Refusal :=
  finish (doFmuli d imm 4) s

/-- FP32 g[a] × k[n] + g[d], one rounding (R105). -/
def doFmak (d a : Reg) (k : BitVec 8) (len : Nat) : M Unit :=
  do formFmaLit d a false len (← bankWord k)

/-- The meaning of `fmak`. -/
def execFmak (d a : Reg) (k : BitVec 8) (s : State) : Host.Outcome State Fault Refusal :=
  finish (doFmak d a k 4) s

/-- FP32 g[a] + k[n] (R105). -/
def doFaddk (d a : Reg) (k : BitVec 8) (len : Nat) : M Unit :=
  do formFLit d a false len (← bankWord k) fAdd

/-- The meaning of `faddk`. -/
def execFaddk (d a : Reg) (k : BitVec 8) (s : State) : Host.Outcome State Fault Refusal :=
  finish (doFaddk d a k 4) s

/-- FP32 g[a] × k[n] (R105). -/
def doFmulk (d a : Reg) (k : BitVec 8) (len : Nat) : M Unit :=
  do formFLit d a false len (← bankWord k) fMul

/-- The meaning of `fmulk`. -/
def execFmulk (d a : Reg) (k : BitVec 8) (s : State) : Host.Outcome State Fault Refusal :=
  finish (doFmulk d a k 4) s

/-- The constant-bank word, zero-extended (R105). -/
def doMovk (d : Reg) (k : BitVec 8) (len : Nat) : M Unit :=
  do formW d len (BitVec.ofNat 64 (← bankWord k))

/-- The meaning of `movk`. -/
def execMovk (d : Reg) (k : BitVec 8) (s : State) : Host.Outcome State Fault Refusal :=
  finish (doMovk d k 4) s

end Sys2Proof.Machine
end

