-- ==== Sys2Proof/Machine/Sync.lean ====
section
/-! DEFINITION. Fences, cache control, scratchpad mapping and the reading of completion objects (R130 to R139). -/

namespace Sys2Proof.Machine

/-- A release while not collecting; in collecting mode it performs nothing (R186). -/
def releaseHere (sc : Scope) : M Unit := do
  if !(← collecting) then release (← me) sc

/-- An acquire fence (R131): the loads before it become acquire reads (R164). -/
def acquireHere (sc : Scope) : M Unit := do
  performRead (← myWho)
  acquire (← me) sc

/-- FENCE (R131, R186). -/
def doFence (sc : Scope) (kind : FenceKind) (len : Nat) : M Unit := straight len do
  match kind with
  | .full =>
    releaseHere sc
    acquireHere sc
  | .acquire => acquireHere sc
  | .release => releaseHere sc

/-- The meaning of `fence`. -/
def execFence (sc : Scope) (k : FenceKind) (s : State) : Host.Outcome State Fault Refusal := finish (doFence sc k 4) s

/-- ACQ (R131). -/
def doAcq (sc : Scope) (len : Nat) : M Unit := straight len (acquireHere sc)

/-- The meaning of `acq`. -/
def execAcq (sc : Scope) (s : State) : Host.Outcome State Fault Refusal := finish (doAcq sc 4) s

/-- REL (R131, R186). -/
def doRel (sc : Scope) (len : Nat) : M Unit := straight len do releaseHere sc

/-- The meaning of `rel`. -/
def execRel (sc : Scope) (s : State) : Host.Outcome State Fault Refusal := finish (doRel sc 4) s

/-! ## CLEAN, DROP, PREF (R132) -/

/-- The line that the core's L1 holds under an address of the issuing thread, if any. -/
def heldLine (va : Nat) : M (Option L1Line) := do
  let v ← myView
  if isLocal va then return none else return (← getCore v.who).line? (va / 64) v.space

/-- Writes a line's dirty bytes and the values of its registered words home; copy and registrations stay (R132). -/
def cleanHeld (l : L1Line) : M Unit := do
  let who ← myWho
  writeBack who l (l.dirty &&& ~~~l.regBytes)
  match l.home with
  | .away _ _ => pure ()
  | .here p =>
    let cut := (← get).cutOff who (homeDie p)
    let now ← if cut then pure (some l) else settledLine who l
    match now with
    | none => pure ()
    | some l =>
      if l.reg != 0 then
        clearDirty who l l.regBytes
        if cut then loseMarks l (l.dirty &&& l.regBytes) (some 1)
        else let _ ← serve (lineReq who l p .wbo (l.valid &&& l.regBytes))

/-- CLEAN (R132). -/
def doClean (a : Reg) (e : Bool) (len : Nat) : M Unit := straight len do
  match ← heldLine (vaOf (← readG a e)) with
  | some l => cleanHeld l
  | none => pure ()

/-- The meaning of `clean`. -/
def execClean (a : Reg) (e : Bool) (s : State) : Host.Outcome State Fault Refusal := finish (doClean a e 4) s

/-- DROP (R132). -/
def doDrop (a : Reg) (e : Bool) (len : Nat) : M Unit := straight len do
  let va := vaOf (← readG a e)
  match ← heldLine va with
  | none => pure ()
  | some l =>
    cleanHeld l
    match ← heldLine va with
    | some l' => dropLine (← myWho) false l'
    | none => pure ()

/-- The meaning of `drop`. -/
def execDrop (a : Reg) (e : Bool) (s : State) : Host.Outcome State Fault Refusal := finish (doDrop a e 4) s

/-- Whether the frame that an address of a page lies in lets a side in (R373); a page of another device has none here. -/
def State.mayReach (s : State) (v : View) (t : TlbEntry) (va : Nat) : Bool :=
  match t.target with
  | .phys b =>
    let frame := (b + (va - t.vbase * 2 ^ 18)) / 2 ^ 18
    !s.hasMemory (frame * 2 ^ 18) || (s.custody frame).allows v.side
  | .remote _ _ => true

/-- The page a hint finds without a walk: untranslated memory its side may reach, or a TLB entry with its permissions. -/
def hintPage (v : View) (va : Nat) (w : Bool) : M (Option TlbEntry) := do
  let s ← get
  if untranslated s v then
    if va / 2 ^ 42 = 0 && (s.custody (va / 2 ^ 18)).allows v.side then
      return some { space := v.space, vbase := va / 2 ^ 18, units := 1, target := .phys (va / 2 ^ 18 * 2 ^ 18), w := true,
                    x := true, k := true, trace := false }
    else return none
  else if noTables s v then return none
  else
    return (s.tlbFind v va).filter fun t => !(v.user && t.k) && (!w || t.w) && s.mayReach v t va

/-- PREF (R132): the hardware may ignore the hint, or ask the home for a SELF copy or a sharer copy later (log entry 10). -/
def doPref (a : Reg) (l : Policy) (e : Bool) (len : Nat) : M Unit := straight len do
  let va := vaOf (← readG a e)
  let v ← myView
  match ← choose 2 with
  | 0 => pure ()
  | _ =>
    if isLocal va || l = .own || l = .thru then pure ()
    else match ← hintPage v va (l = .inv) with
      | none => pure ()
      | some page =>
        match page.home (va / 64 * 64) with
        | .phys pa =>
          let req := (acc1 (← me) v (va / 64 * 64) 64 pa page 0 0).req (if l = .inv then .fills else .fillu)
          let s ← get
          match placeReq s req with
          | some r => if s.homeReady r && !s.cutOff v.who (homeDie (pa / 64)) then queueReq req
          | none => pure ()
        | .remote _ _ => pure ()

/-- The meaning of `pref`. -/
def execPref (a : Reg) (l : Policy) (e : Bool) (s : State) : Host.Outcome State Fault Refusal := finish (doPref a l e 4) s

/-! ## SPMAP and SPUNMAP (R133, R135) -/

/-- The operands of SPMAP after their checks: place, length, global start. `none`: status 3. A global range that starts
outside the local window and runs into it is refused in the same way, which the spec does not say (log entry 73). -/
def mapOperands (v : View) (vec : Vec) (regs : CoreRegs) (x y z : Word) : Option (Nat × Nat × Nat) :=
  let loc := vaOf x
  let glob := vaOf y
  let n := bits z 23 0
  let region := loc / 2 ^ 44 % 16
  if n = 0 || n % 64 ≠ 0 || bits z 62 24 ≠ 0 || loc % 64 ≠ 0 || glob % 64 ≠ 0 || !isLocal loc then none
  else if region ≠ 0 && region ≠ 1 && region ≠ 3 then none
  else if (pieces glob n).any fun p => isLocal p.1 then none
  else match localAt regs v.who vec loc n true with
    | .ok l => some (l.place, n, glob)
    | .error _ => none

/-- FINFO of a trap at SPMAP: W = D, ST and AT 0, POL = OWN. No rule gives it (log entry 73). -/
def mapInfo : Word := accessInfo 3 false false 2 false false

/-- The home line of each 64 bytes of the global range, with its page's trace mark, after their checks (R133): W on every
page, and memory of this package behind it, on a die that is not isolated (R157). Where the range is copied in, an
uncorrectable line aborts. Both aborts come before anything is pinned (log entry 73). -/
def mapHomes (v : View) (fill : Bool) (ps : List (Nat × Nat)) : M (List (Nat × Bool)) :=
  ps.foldlM (fun acc p => do
    let fa := BitVec.ofNat 64 p.1
    let page ← translate v p.1 { w := true } fa mapInfo
    match page.home p.1 with
    | .phys pa =>
      if (← get).cutOff v.who (homeDie (pa / 64)) then trap .linkabort 1 fa mapInfo
      if !(← get).hasMemory pa then trap .memabort 2 fa mapInfo
      if fill then
        if ← withheld ((← get).redirect (pa / 64)) (if v.user then v.ctx else 0) then trap .memabort 0 fa mapInfo
      return acc ++ [(pa / 64, page.trace)]
    | .remote _ _ => trap .policy 0 fa mapInfo) []

/-- Recalls each home line and, with FILL, copies its values into its 64 bytes of the local range (R133). -/
def recallHomes (who place : Nat) (fill : Bool) (homes : List (Nat × Bool)) : M Unit := do
  homes.forM fun h => do recallLine who ((← get).redirect h.1) h.2
  if fill then
    homes.zipIdx.forM fun h => do
      let p := (← get).redirect h.1.1
      putBytes (place + 64 * h.2) (lineBytes (← currentLine p ((← get).dirOf p)))

/-- Pins each home line to its 64 bytes of the local range, until a home cannot hold its pins (R133): how many were
pinned. -/
def pinHomes (who place : Nat) (homes : List (Nat × Bool)) : M Nat :=
  homes.foldlM (fun i h => do
    if i.2 then return i
    else if ← pinLine who h.1 (place + 64 * i.1) h.2 then return (i.1 + 1, false)
    else return (i.1, true)) (0, false) >>= fun r => pure r.1

/-- Undoes the pins of the first lines (R133). -/
def unpinHomes (who place n : Nat) (homes : List (Nat × Bool)) : M Unit :=
  (homes.take n).zipIdx.forM fun h => do let _ ← dropPins who h.1.1 (place + 64 * h.2)

/-- SPMAP (R133). -/
def doSpmap (d a b : Reg) (e f : Bool) (len : Nat) : M Unit := straight len do
  let x ← readG a e
  let y ← readG b f
  let z ← readG (b + 1) f
  checkDest d
  forbidCollecting
  let k ← me
  let v ← myView
  let vec := (← myThread).vec
  let who := v.who
  release k .package
  let core ← getCore who
  let ctx := (← myThread).kern.ctxid.toNat
  match mapOperands v vec core.regs x y z with
  | none => writeG d 3
  | some (place, n, glob) =>
    if core.maps.any fun m => m.ctx == ctx && (overlap m.place m.len place n || overlap m.globalVa m.len glob n) then
      writeG d 2
    else if core.maps.length ≥ 8 then writeG d 1
    else
      let homes ← mapHomes v (bits z 63 63 == 1) (pieces glob n)
      recallHomes who place (bits z 63 63 == 1) homes
      let pinned ← pinHomes who place homes
      if pinned < homes.length then
        unpinHomes who place pinned homes
        writeG d 4
      else
        modCore who fun c => { c with maps := c.maps ++
          [{ ctx := ctx, localVa := vaOf x, place := place, len := n, globalVa := glob, plines := homes.map (·.1) }] }
        writeG d 0
  acquire k .package

/-- The meaning of `spmap`. -/
def execSpmap (d a b : Reg) (e f : Bool) (s : State) : Host.Outcome State Fault Refusal := finish (doSpmap d a b e f 4) s

/-- SPUNMAP (R135). -/
def doSpunmap (d a : Reg) (e : Bool) (len : Nat) : M Unit := straight len do
  let x ← readG a e
  checkDest d
  forbidCollecting
  let k ← me
  release k .package
  let who := k / 8
  let ctx := (← myThread).kern.ctxid.toNat
  match (← getCore who).maps.find? (fun m => m.ctx == ctx && m.localVa == vaOf x) with
  | none => writeG d 1
  | some m =>
    modCore who fun c => { c with maps := c.maps.filter (· != m) }
    if m.evicted then writeG d 5
    else
      m.release who
      writeG d 0
  acquire k .package

/-- The meaning of `spunmap`. -/
def execSpunmap (d a : Reg) (e : Bool) (s : State) : Host.Outcome State Fault Refusal := finish (doSpunmap d a e 4) s

/-! ## WAITC and TESTC (R137, R138) -/

/-- FINFO of a fault at WAITC and TESTC (R137). -/
def waitInfo : Word := accessInfo 3 false false 3 true false

/-- Reads a completion object at home or in its region. -/
def readObject (va : Nat) : M (Word × Where) := do
  let fa := BitVec.ofNat 64 va
  let w ← checkScalar va 8 {} false .thru false fa waitInfo
  let x ← loadAt (← me) (← myView) w va 8 .thru fa waitInfo
  return (BitVec.ofNat 64 x, w)

/-- The place whose writing wakes a wait: the word's home, or the scratchpad it is pinned to (R134, R137). -/
def waitPlace (s : State) (w : Where) : Option Nat :=
  match w with
  | .loc p _ => some p
  | .dev _ _ _ => none
  | .mem pa _ =>
    let p := s.redirect (pa / 64)
    match (s.dirOf p).owners.find? (pa % 64 / 4) with
    | some (.pin _ place) => some (place + pa % 4)
    | _ => some (p * 64 + pa % 64)

/-- Whether an object meets a target (R137). -/
def objectMet (w target : Word) : Bool := w.getLsbD 63 || decide (bits target 62 0 ≤ bits w 62 0)

/-- WAITC (R137). An object in another device's memory is read again at the next issue (log entry 17). -/
def doWaitc (d a b : Reg) (e f : Bool) (len : Nat) : M Unit := straight len do
  let x ← readG a e
  let y ← readG b f
  checkDest d
  remoteScope (← me) do
    let (w, place) ← readObject (vaOf x)
    if objectMet w y then
      acquire (← me) place.scope
      produce d w
    else
      match waitPlace (← get) place with
      | some p => park (.waitc p d.toNat)
      | none =>
        let k ← me
        modify fun s => s.dropWaits k
        throw .stall

/-- The meaning of `waitc`. -/
def execWaitc (d a b : Reg) (e f : Bool) (s : State) : Host.Outcome State Fault Refusal := finish (doWaitc d a b e f 4) s

/-- TESTC (R138). -/
def doTestc (d a : Reg) (e : Bool) (len : Nat) : M Unit := straight len do
  let x ← readG a e
  checkDest d
  remoteScope (← me) do
    let (w, place) ← readObject (vaOf x)
    acquire (← me) place.scope
    writeG d w

/-- The meaning of `testc`. -/
def execTestc (d a : Reg) (e : Bool) (s : State) : Host.Outcome State Fault Refusal := finish (doTestc d a e 4) s

end Sys2Proof.Machine
end

