-- ==== Sys2Proof/Machine/System.lean ====
section
/-! DEFINITION. Control registers, ECALL, TRAPI and ERET (R29 to R31, R73, R121, R181, R345 to R350, R358). -/

namespace Sys2Proof.Machine

/-! ## Reading (R73, R348) -/

/-- A bit mask as a register value. -/
def ones (n lo : Nat) : Word := BitVec.ofNat 64 ((2 ^ n - 1) * 2 ^ lo)

/-- Bits of FPC that exist (R29). -/
def fpcMask : Word := 0x1F7

/-- RSCNT (R72). -/
def rscnt (t : Thread) : Word := BitVec.ofNat 64 (t.rstack.length + t.ctl.spilled.toNat * 2 ^ 16)

/-- ERRDBL (R404): double faults of the die's device-kernel core, and those of the hub cores. -/
def errdbl (s : State) (die : Nat) : Word :=
  BitVec.ofNat 64 ((if die = 4 then 0 else (s.die die).regs.errdbl.toNat) + (s.die 4).regs.errdbl.toNat * 2 ^ 32)

/-- FCUCNT (R377). -/
def fcucnt (s : State) : Word := BitVec.ofNat 64 (s.fcu.overruns + s.fcu.dropped * 2 ^ 32)

/-- Control registers of the user range (R73). -/
def readUser (s : State) (k n : Nat) : Word :=
  let who := k / 8
  let t := s.thread k
  let c := s.core who
  match n with
  | 0x000 => BitVec.ofNat 64 who
  | 0x001 => BitVec.ofNat 64 (k % 8)
  | 0x002 => t.kern.ctxid.setWidth 64
  | 0x003 => BitVec.ofNat 64 s.time
  | 0x010 => t.ctl.fpc
  | 0x011 => t.ctl.fpf
  | 0x012 => t.ctl.fpsup
  | 0x020 => BitVec.ofNat 64 t.vec.vlen
  | 0x021 => t.ctl.repcnt.setWidth 64
  | 0x022 => t.ctl.rsptr.setWidth 64
  | 0x023 => BitVec.ofNat 64 t.lists.length
  | 0x024 => BitVec.ofNat 64 c.regs.ecaplim
  | 0x025 => BitVec.ofNat 64 (if isHub who then 0 else (s.cluster (who / 8)).used who)
  | 0x026 => rscnt t
  | 0x027 => t.ctl.engflt
  | 0x028 => t.ctl.engaddr
  | 0x030 => t.ctl.cause
  | 0x031 => t.ctl.epc
  | 0x032 => t.ctl.faddr
  | 0x033 => t.ctl.finfo
  | 0x034 => t.ctl.utrap.setWidth 64
  | _ => 0

/-- Control registers of the kernel range that a thread or core holds (R72, R117, R286, R345, R358). -/
def readCore (s : State) (k n : Nat) : Word :=
  let t := s.thread k
  let r := (s.core (k / 8)).regs
  match n with
  | 0x100 => if t.kern.kmode then 1 else 0
  | 0x101 => t.kern.kvec
  | 0x102 => t.kern.kepc
  | 0x103 => t.kern.kstatus.setWidth 64
  | 0x104 => t.kern.stktop
  | 0x105 => t.kern.rstop
  | 0x106 => t.kern.kirq
  | 0x107 => r.kptroot
  | 0x112 => r.cspbase
  | 0x113 => r.cspsize
  | 0x114 => r.clsbase
  | 0x115 => r.clssize
  | 0x116 => r.allocbase
  | 0x119 => BitVec.ofNat 64 (t.kern.qstat.toNat + residents s (dieOf (k / 8)) % 32 * 4)
  | 0x11B => t.kern.ctxstat.setWidth 64
  | _ => if 0x120 ≤ n ∧ n ≤ 0x12F then r.cls (n - 0x120) else 0

/-- Control registers of a die and of the package (R121, R181, R340, R369, R377, R389, R401 to R404, R409, R412). -/
def readDie (s : State) (who n : Nat) : Word :=
  let die := dieOf who
  let r := (s.die die).regs
  match n with
  | 0x110 => r.ctxroot
  | 0x111 => r.l2mode
  | 0x11D => r.migobj
  | 0x11E => BitVec.ofNat 64 (s.die die).mig.stat
  | 0x11F => r.swpool
  | 0x130 => if isHub who then s.fcu.ringHost else s.fcu.ringDevice
  | 0x131 => fcucnt s
  | 0x140 => pwrWord s
  | 0x150 => r.tracectl
  | 0x17D => r.devtag
  | 0x17E => r.domtab
  | 0x180 => r.errce
  | 0x181 => r.errue
  | 0x182 => r.errpipe
  | 0x183 => r.errkill
  | 0x184 => r.errstore
  | 0x185 => r.retbase
  | 0x186 => r.killres
  | 0x187 => errdbl s die
  | 0x190 => s.boot.rdycore
  | 0x191 => s.boot.rdymem
  | 0x192 => s.boot.rdylink
  | 0x193 => s.boot.rdyeng
  | 0x194 => s.boot.bootstat
  | _ =>
    if 0x160 ≤ n ∧ n ≤ 0x16F then linkstat s (n - 0x160)
    else if 0x170 ≤ n ∧ n ≤ 0x179 then rimstat s (n - 0x170)
    else 0

/-- A number that `readDie` holds; the other kernel numbers are a thread's or a core's. -/
def ofDie (n : Nat) : Bool :=
  n == 0x110 || n == 0x111 || (decide (0x11D ≤ n) && decide (n ≤ 0x11F)) || decide (0x130 ≤ n)

/-- The value of a control register (R73, R348); a number with no assignment reads as 0. -/
def readCr (s : State) (k n : Nat) : Word :=
  if n < 0x100 then readUser s k n
  else if ofDie n then readDie s (k / 8) n
  else readCore s k n

/-- CRR (R348). -/
def doCrr (d : Reg) (n : BitVec 12) (len : Nat) : M Unit := straight len do
  checkDest d
  writeG d (readCr (← get) (← me) n.toNat)

/-- The meaning of `crr`. -/
def execCrr (d : Reg) (n : BitVec 12) (s : State) : Host.Outcome State Fault Refusal := finish (doCrr d n 4) s

/-! ## Writing (R348) -/

/-- Changes a thread's user control registers. -/
def modCtl (k : Nat) (f : Ctl → Ctl) : M Unit := modThread k fun t => { t with ctl := f t.ctl }

/-- Changes a thread's kernel control registers. -/
def modKern (k : Nat) (f : Kern → Kern) : M Unit := modThread k fun t => { t with kern := f t.kern }

/-- Changes a core's registers. -/
def modRegs (who : Nat) (f : CoreRegs → CoreRegs) : M Unit := modCore who fun c => { c with regs := f c.regs }

/-- A CRW to FPF replaces the flags (R30, R31); earlier instructions of the thread have set theirs. -/
def writeFpf (k : Nat) (v : Word) : M Unit := modCtl k fun c => { c with fpf := v &&& ones 6 0 }

/-- The meaning of `fpfWrite`. -/
def execFpfWrite (t : Nat) (v : Word) (s : State) : Host.Outcome State Fault Refusal := agentStep (writeFpf t v) s

/-- A CRW to CTXID in KERNEL mode (R358). -/
def writeCtxid (k : Nat) (v : Word) : M Unit := modKern k fun c => { c with ctxid := v.setWidth 16 }

/-- The meaning of `ctxidWrite`. -/
def execCtxidWrite (t : Nat) (v : Word) (s : State) : Host.Outcome State Fault Refusal := agentStep (writeCtxid t v) s

/-- The meaning of `kptrootWrite`. -/
def execKptrootWrite (t : Nat) (v : Word) (s : State) : Host.Outcome State Fault Refusal := agentStep (writeKptroot (t / 8) v) s

/-- A CRW to L2MODE (R121): ignored for a malformed word, or while a context that is RUNNING or STOPPING holds a core of
the die. The L2 holds nothing that its homes do not (log entry 23). -/
def writeL2mode (die : Nat) (v : Word) : M Unit := do
  if bits v 63 3 ≠ 0 || (bits v 2 1 ≠ 0 && !v.getLsbD 0) then pure ()
  else if ← contextOn (← get) die then pure ()
  else modDieRegs die fun r => { r with l2mode := v }

/-- The meaning of `l2modeWrite`. -/
def execL2modeWrite (t : Nat) (v : Word) (s : State) : Host.Outcome State Fault Refusal :=
  agentStep (writeL2mode (dieOf (t / 8)) v) s

/-- A CRW to TRACECTL (R181): ignored for a reserved bit; EN rising resets every SEQ. Its release, which may trap, comes
before the change (R5), with the entries of what it performs; its acquire follows. -/
def writeTracectl (k : Nat) (v : Word) : M Unit := do
  let die := dieOf (k / 8)
  release k .package
  if bits v 23 2 ≠ 0 || bits v 63 42 ≠ 0 then pure ()
  else
    let rises := v.getLsbD 0 && !(← getDie die).regs.tracectl.getLsbD 0
    modDie die fun d => { d with regs := { d.regs with tracectl := v }, traceSeq := if rises then [] else d.traceSeq }
  acquire k .package

/-- The meaning of `tracectlWrite`. -/
def execTracectlWrite (t : Nat) (v : Word) (s : State) : Host.Outcome State Fault Refusal := agentStep (writeTracectl t v) s

/-- Writes a control register of the user range (R29, R73, R86, R194, R232). -/
def writeUser (k n : Nat) (v : Word) : M Unit :=
  match n with
  | 0x002 => writeCtxid k v
  | 0x010 => modCtl k fun c => { c with fpc := v &&& fpcMask }
  | 0x011 => writeFpf k v
  | 0x012 => modCtl k fun c => { c with fpsup := v &&& (ones 18 0 ||| ones 1 63) }
  | 0x021 => modCtl k fun c => { c with repcnt := v.setWidth 8 }
  | 0x022 => modCtl k fun c => { c with rsptr := v.setWidth 52 }
  | 0x024 => modRegs (k / 8) fun r => { r with ecaplim := min v.toNat 8192 }
  | 0x030 => modCtl k fun c => { c with cause := v &&& ones 16 0 }
  | 0x031 => modCtl k fun c => { c with epc := v &&& ones 52 0 }
  | 0x032 => modCtl k fun c => { c with faddr := v }
  | 0x033 => modCtl k fun c => { c with finfo := v }
  | 0x034 => modCtl k fun c => { c with utrap := v.setWidth 52 }
  | _ => pure ()

/-- Writes a control register of the kernel range that a thread or core holds (R72, R117, R286, R333, R342, R345). RSTOP keeps
bits 2:0 as written, and a spill from there raises MISALIGN (R86; log entry 76). CSPBASE to CLSSIZE keep the bits above
their fields, which make the region's size 0 (R117). -/
def writeCoreCr (k n : Nat) (v : Word) : M Unit :=
  let who := k / 8
  match n with
  | 0x100 => modKern k fun c => { c with kmode := v.getLsbD 0 }
  | 0x101 => modKern k fun c => { c with kvec := v &&& ones 52 0 }
  | 0x102 => modKern k fun c => { c with kepc := v &&& ones 52 0 }
  | 0x103 => modKern k fun c => { c with kstatus := v.setWidth 4 }
  | 0x104 => modKern k fun c => { c with stktop := v }
  | 0x105 => modKern k fun c => { c with rstop := v &&& ones 52 0 }
  | 0x107 => writeKptroot who v
  | 0x112 => modRegs who fun r => { r with cspbase := v }
  | 0x113 => modRegs who fun r => { r with cspsize := v }
  | 0x114 => modRegs who fun r => { r with clsbase := v }
  | 0x115 => modRegs who fun r => { r with clssize := v }
  | 0x116 => modRegs who fun r => { r with allocbase := v &&& allocMask }
  | 0x118 => writeQcmd k v
  | 0x11A => writeCtxcmd k v
  | 0x11C => writeMigcmd k v
  | _ =>
    if h : 0x120 ≤ n ∧ n < 0x130 then
      modRegs who fun r => { r with classes := r.classes.set (n - 0x120) v (by omega) }
    else pure ()

/-- Writes a control register of a die or of the package (R121, R181, R340, R369, R370, R377, R389, R401, R402). -/
def writeDieCr (k n : Nat) (v : Word) : M Unit :=
  let die := dieOf (k / 8)
  match n with
  | 0x110 => modDieRegs die fun r => { r with ctxroot := v &&& ones 42 0 }
  | 0x111 => writeL2mode die v
  | 0x11D => modDieRegs die fun r => { r with migobj := v &&& ones 52 0 }
  | 0x11F => modDieRegs die fun r => { r with swpool := v &&& ones 46 18 }
  | 0x130 => writeRing (if isHub (k / 8) then .host else .device) v
  | 0x150 => writeTracectl k v
  | 0x17C => writePortcmd v
  | 0x17D => modDieRegs die fun r => { r with devtag := v &&& ones 8 0 }
  | 0x17E => modDieRegs die fun r => { r with domtab := v &&& ones 42 0 }
  | 0x185 => modDieRegs die fun r => { r with retbase := v &&& ones 25 17 }
  | 0x186 => writeKillres die v
  | _ => pure ()

/-- Writes a control register under its own rules; a number with no assignment ignores the write (R348). -/
def writeCr (k n : Nat) (v : Word) : M Unit :=
  if n < 0x100 then writeUser k n v
  else if ofDie n then writeDieCr k n v
  else writeCoreCr k n v

/-- CRW (R348): PRIV for a read-only register, before the source is read (R67). -/
def doCrw (a : Reg) (n : BitVec 12) (len : Nat) : M Unit := straight len do
  let t ← myThread
  if readOnly n.toNat t.kern.kmode then
    trap .priv 0 (addrWord t.pc) (illInfo (0x9C000001 + a.toNat * 2 ^ 16 + n.toNat * 16) 0 false false)
  let x ← readP a
  writeCr (← me) n.toNat x

/-- The meaning of `crw`. -/
def execCrw (a : Reg) (n : BitVec 12) (s : State) : Host.Outcome State Fault Refusal := finish (doCrw a n 4) s

/-! ## ECALL, TRAPI and ERET (R349, R350) -/

/-- ECALL (R349). -/
def doEcall (a : Reg) (sub : BitVec 8) (_len : Nat) : M Unit := do
  let x ← readP a
  trap .ecall sub.toNat 0 x

/-- The meaning of `ecall`. -/
def execEcall (a : Reg) (sub : BitVec 8) (s : State) : Host.Outcome State Fault Refusal := finish (doEcall a sub 4) s

/-- TRAPI (R349). -/
def doTrapi (sub : BitVec 8) (_len : Nat) : M Unit := trap .trapi sub.toNat

/-- The meaning of `trapi`. -/
def execTrapi (sub : BitVec 8) (s : State) : Host.Outcome State Fault Refusal := finish (doTrapi sub 4) s

/-- Returns from the local vector: PC, M and IE come back (R350). -/
def Thread.leaveVector (t : Thread) : Thread :=
  { t with
    pc := t.kern.kepc.setWidth 52
    kern := { t.kern with
      kmode := t.kern.kstatus.getLsbD 0
      kstatus := (t.kern.kstatus &&& 0xD) ||| (if t.kern.kstatus.getLsbD 2 then 2 else 0) } }

/-- ERET (R350): earlier instructions complete first. -/
def doEret (_len : Nat) : M Unit := do
  let k ← me
  if (← get).allocating k then throw .stall
  let t ← myThread
  if t.kern.kepc.getLsbD 0 then trap .misalign 0 t.kern.kepc
  modMe fun t => t.settle.leaveVector

/-- The meaning of `eret`. -/
def execEret (s : State) : Host.Outcome State Fault Refusal := finish (doEret 4) s

end Sys2Proof.Machine
end

