-- ==== Sys2Proof/Machine/VectorMemory.lean ====
section
/-! DEFINITION. Vector memory instructions (R34, R36, R39, R118, R188, R225 to R231). -/

namespace Sys2Proof.Machine

/-! ## Elements and lanes (R36) -/

/-- The floating-point format of a code that has one. -/
def codeFmt : Nat → Fmt
  | 0x02 => .bf16 | 0x03 => .fp16 | 0x04 => .e4m3 | 0x05 => .e5m2 | 0x0C => .fp64 | _ => .fp32

/-- Memory to lane: lane bits and flags. -/
def laneOf (code : Nat) (c : Ctrl) (x : Nat) : Nat × Nat :=
  match code with
  | 0x02 | 0x03 | 0x04 | 0x05 => widen (codeFmt code) x
  | 0x06 => (((BitVec.ofNat 8 x).signExtend 32).toNat, 0)
  | 0x07 => (((BitVec.ofNat 16 x).signExtend 32).toNat, 0)
  | 0x0C => convert .fp64 .fp32 c x
  | _ => (x, 0)

/-- A lane saturated to `w` signed bits. -/
def saturate (w : Nat) (x : BitVec 32) : Nat :=
  let v := x.toInt
  let lo : Int := -(2 ^ (w - 1) : Nat)
  let hi : Int := (2 ^ (w - 1) : Nat) - 1
  (BitVec.ofInt w (if v < lo then lo else if hi < v then hi else v)).toNat

/-- Lane to memory: element bits and flags. -/
def elementOf (code : Nat) (c : Ctrl) (x : BitVec 32) : Nat × Nat :=
  match code with
  | 0x02 | 0x03 | 0x04 | 0x05 => convert .fp32 (codeFmt code) c x.toNat
  | 0x06 => (saturate 8 x, 0)
  | 0x07 => (saturate 16 x, 0)
  | 0x0C => Fmt.fp64.ofVal .nearest (Fmt.fp32.val x.toNat)
  | _ => (x.toNat, 0)

/-- Formats that a load accepts; Q4N for VLD alone (R226). -/
def loadAccepts (q4 : Bool) (code : Nat) : Bool := decide (code ≤ 7) || code == 0x0C || (q4 && code == 8)

/-! ## The accesses of a lane (R226, R228) -/

/-- The locations that a lane reads or writes, in the order of their checks: address and bytes. -/
abbrev LaneAccess := List (Nat × Nat)

/-- The three locations of a Q4N element `e` at a base (R226). -/
def q4Access (base e : Nat) : LaneAccess :=
  [(base, 4), ((base + 4 + e / 64) % 2 ^ 52, 1), ((base + 512 + e / 2) % 2 ^ 52, 1)]

/-- FINFO of a lane (R228). -/
def laneInfo (n : Nat) (store : Bool) (pol : Policy) (lane code : Nat) : Word :=
  accessInfo (if code = 8 then 0 else widthCode n) store false pol.code false false
    ||| BitVec.ofNat 64 (2 ^ 9 + lane % 256 * 2 ^ 10 + code * 2 ^ 18)

/-- What a vector memory instruction does for its lanes: each active lane with its locations. -/
structure LanePlan where
  code : Nat
  esize : Nat
  pol : Policy
  store : Bool
  lanes : List (Nat × LaneAccess)
  deriving DecidableEq, Repr

/-- FINFO of one lane of a plan. -/
def LanePlan.info (p : LanePlan) (lane : Nat) : Word := laneInfo p.esize p.store p.pol lane p.code

/-- What a plan's accesses need of a page (R364; log entry 20). -/
def LanePlan.need (p : LanePlan) : Need := { w := p.store || p.pol = .inv || p.pol = .own }

/-- MISALIGN of a lane (R228). -/
def checkAligned (p : LanePlan) (lane : Nat) (acc : LaneAccess) : M Unit :=
  match acc.head? with
  | some (va, _) =>
    if va % (if p.code = 8 then 64 else p.esize) ≠ 0 then trap .misalign 0 (BitVec.ofNat 64 va) (p.info lane) else pure ()
  | none => pure ()

/-- The checks of one location after its alignment: its place. -/
def placeOf (p : LanePlan) (lane : Nat) (va n : Nat) : M Where := do
  let v ← myView
  let vec := (← myThread).vec
  let fa := BitVec.ofNat 64 va
  let fi := p.info lane
  if !isLocal va then
    match ← l1Hit v va n p.need p.pol p.store with
    | some w => return w
    | none => resolve v vec va n p.need p.store p.pol false fa fi
  else resolve v vec va n p.need p.store p.pol false fa fi

/-- All checks of a lane (R228): the places of its locations. -/
def checkLane (p : LanePlan) (lane : Nat) (acc : LaneAccess) : M (List Where) := do
  checkAligned p lane acc
  acc.mapM fun x => placeOf p lane x.1 x.2

/-- Loads one location of a lane, under the entries of collecting mode (R189). -/
def loadPlace (p : LanePlan) (lane va n : Nat) (w : Where) : M Nat := do
  let k ← me
  let v ← myView
  let fa := BitVec.ofNat 64 va
  let fi := p.info lane
  if !isLocal va && (← collecting) then
    collectedLoad va n fun a m => loadAt k v (w.shift va a) a m p.pol fa fi
  else loadAt k v w va n p.pol fa fi

/-- The value of a lane from what its locations hold: lane bits and flags. -/
def laneValue (p : LanePlan) (c : Ctrl) (acc : LaneAccess) (e : Nat) (xs : List Nat) : Nat × Nat :=
  if p.code = 8 then
    match acc, xs with
    | _ :: _ :: _ :: _, [sup, scale, byte] =>
      let (v, fl) := q4value sup scale (if e % 2 = 0 then byte % 16 else byte / 16)
      let r := Fmt.fp32.ofVal ⟨c.rm, false⟩ v
      (r.1, r.2 ||| fl)
    | _, _ => (0, 0)
  else laneOf p.code c (xs.headD 0)

/-- Performs the loads of checked lanes and writes them (R228, R229). `elem` is the element index of a Q4N lane. -/
def loadLanes (d : Reg) (p : LanePlan) (elem : Nat → Nat) (places : List (Nat × LaneAccess × List Where)) : M Unit := do
  let c ← sampleFpc
  let rs ← places.mapM fun x => do
    let xs ← (x.2.1.zip x.2.2).mapM fun y => loadPlace p x.1 y.1.1 y.1.2 y.2
    return (x.1, laneValue p c x.2.1 (elem x.1) xs)
  modVec fun v => v.setLanes d (rs.map fun r => (r.1, BitVec.ofNat 32 r.2.1))
  raiseLanes (rs.map fun r => (r.1, r.2.2))

/-- A vector load (R228). -/
def vectorLoad (d : Reg) (p : LanePlan) (elem : Nat → Nat) : M Unit := do remoteScope (← me) do
  let places ← p.lanes.mapM fun l => do return (l.1, l.2, ← checkLane p l.1 l.2)
  loadLanes d p elem places

/-- Whether a checked store meets memory at home (R124; log entry 23). -/
def checkPresent (w : Where) (fa fi : Word) : M Unit := do
  match w with
  | .mem pa _ => if !(← get).hasMemory pa then trap .memabort 2 fa fi
  | _ => pure ()

/-- A vector store (R188, R228, R229): lanes in order, so that a higher lane's element comes later. -/
def vectorStore (d : Reg) (p : LanePlan) : M Unit := do remoteScope (← me) do
  let k ← me
  let v ← myView
  let vec := (← myThread).vec
  let c ← sampleFpc
  let value := fun (lane : Nat) => elementOf p.code c (vec.lane d lane)
  if ← collecting then
    p.lanes.forM fun l => l.2.forM fun x => do
      let fa := BitVec.ofNat 64 x.1
      checkAligned p l.1 l.2
      if isLocal x.1 then trap .ebad 4
      let _ ← placeOf p l.1 x.1 x.2
      record (storeEntry x.1 x.2 p.pol (value l.1).1) fa (p.info l.1)
  else
    let places ← p.lanes.mapM fun l => do return (l.1, l.2, ← checkLane p l.1 l.2)
    places.forM fun l => (l.2.1.zip l.2.2).forM fun x => checkPresent x.2 (BitVec.ofNat 64 x.1.1) (p.info l.1)
    places.forM fun l => (l.2.1.zip l.2.2).forM fun x =>
      storeAt k v x.2 x.1.1 x.1.2 p.pol (value l.1).1 false (BitVec.ofNat 64 x.1.1) (p.info l.1)
  raiseLanes (p.lanes.map fun l => (l.1, (value l.1).2))

/-! ## VLD, VST, VLDS, VSTS, VSCAT (R226) -/

/-- Address of an element: base plus a signed byte offset, modulo 2^52. -/
def elemVa (base : Word) (off : Int) : Nat := (BitVec.ofNat 52 (vaOf base) + BitVec.ofInt 52 off).toNat

/-- The plan of an instruction whose lane `i` accesses one element at `va i`. -/
def planOf (w : Word) (pol : Policy) (store : Bool) (lanes : List Nat) (va : Nat → Nat) : LanePlan :=
  let n := elemBytes (fmtOf w)
  { code := fmtOf w, esize := n, pol := pol, store := store, lanes := lanes.map fun i => (i, [(va i, n)]) }

/-- FORMAT at issue (R227). -/
def checkVecFmt (q4 : Bool) (w : Word) : M Unit := checkFat (loadAccepts q4) w (BitVec.ofNat 64 (vaOf w))

/-- VLD (R226). -/
def doVld (p : Bool) (d a x : Reg) (l : Policy) (m : BitVec 3) (e : Bool) (len : Nat) : M Unit := straight len do
  let w ← readIn p a e
  let off := (← readIn p x e).toInt
  checkVecFmt true w
  let lanes := (← myThread).vec.active m
  if fmtOf w = 8 then
    if lanes.any fun i => off + i < 0 || off + i > 16383 then
      trap .format 4 (BitVec.ofNat 64 (vaOf w)) 8
    let elem := fun (i : Nat) => (off + i).toNat
    let p : LanePlan := { code := 8, esize := 1, pol := l, store := false,
                          lanes := lanes.map fun i => (i, q4Access (vaOf w) (elem i)) }
    vectorLoad d p elem
  else vectorLoad d (planOf w l false lanes fun i => elemVa w ((off + i) * elemBytes (fmtOf w))) fun _ => 0

/-- The meaning of `vld`. -/
def execVld (p : Bool) (d a x : Reg) (l : Policy) (m : BitVec 3) (e : Bool) (s : State) : Host.Outcome State Fault Refusal :=
  finish (doVld p d a x l m e 4) s

/-- VST (R226). -/
def doVst (p : Bool) (d a x : Reg) (l : Policy) (m : BitVec 3) (e : Bool) (len : Nat) : M Unit := straight len do
  let w ← readIn p a e
  let off := (← readIn p x e).toInt
  checkVecFmt false w
  vectorStore d (planOf w l true ((← myThread).vec.active m) fun i => elemVa w ((off + i) * elemBytes (fmtOf w)))

/-- The meaning of `vst`. -/
def execVst (p : Bool) (d a x : Reg) (l : Policy) (m : BitVec 3) (e : Bool) (s : State) : Host.Outcome State Fault Refusal :=
  finish (doVst p d a x l m e 4) s

/-- VLDS (R226). -/
def doVlds (p : Bool) (d a x : Reg) (l : Policy) (m : BitVec 3) (e : Bool) (len : Nat) : M Unit := straight len do
  let w ← readIn p a e
  let step := (← readIn p x e).toInt
  checkVecFmt false w
  vectorLoad d (planOf w l false ((← myThread).vec.active m) fun i => elemVa w (i * step)) fun _ => 0

/-- The meaning of `vlds`. -/
def execVlds (p : Bool) (d a x : Reg) (l : Policy) (m : BitVec 3) (e : Bool) (s : State) : Host.Outcome State Fault Refusal :=
  finish (doVlds p d a x l m e 4) s

/-- VSTS (R226). -/
def doVsts (p : Bool) (d a x : Reg) (l : Policy) (m : BitVec 3) (e : Bool) (len : Nat) : M Unit := straight len do
  let w ← readIn p a e
  let step := (← readIn p x e).toInt
  checkVecFmt false w
  vectorStore d (planOf w l true ((← myThread).vec.active m) fun i => elemVa w (i * step))

/-- The meaning of `vsts`. -/
def execVsts (p : Bool) (d a x : Reg) (l : Policy) (m : BitVec 3) (e : Bool) (s : State) : Host.Outcome State Fault Refusal :=
  finish (doVsts p d a x l m e 4) s

/-- Address of a gathered or scattered element: the index is lane `i` of v[d+1], signed (R226). -/
def gatherVa (v : Vec) (w : Word) (d : Reg) (i : Nat) : Nat := elemVa w ((v.lane (d + 1) i).toInt * elemBytes (fmtOf w))

/-- VSCAT (R226). -/
def doVscat (p : Bool) (d a : Reg) (l : Policy) (m : BitVec 3) (e : Bool) (len : Nat) : M Unit := straight len do
  let w ← readIn p a e
  checkVecFmt false w
  let v := (← myThread).vec
  vectorStore d (planOf w l true (v.active m) (gatherVa v w d))

/-- The meaning of `vscat`. -/
def execVscat (p : Bool) (d a : Reg) (l : Policy) (m : BitVec 3) (e : Bool) (s : State) : Host.Outcome State Fault Refusal :=
  finish (doVscat p d a l m e 4) s

/-! ## VGATH (R230) -/

/-- Whether no TLB entry translates an element (R230). An untranslated or local address needs none. -/
def misses (s : State) (v : View) (va : Nat) : Bool := !isLocal va && !untranslated s v && (s.tlbFind v va).isNone

/-- Starts a background walk for a page, if none runs (R230). -/
def startWalk (v : View) (va : Nat) : M Unit := do
  let k ← me
  modify fun s =>
    if s.walks.any fun w => w.space == v.space && w.va / 2 ^ 18 == va / 2 ^ 18 then s
    else { s with walks := s.walks ++ [{ thread := k, space := v.space, va := va }] }

/-- The translations kept for a thread's gather become ordinary entries (R230). -/
def unkeep (k : Nat) : M Unit :=
  modCluster (k / 64) fun c => { c with tlb := c.tlb.map fun t => if t.kept = some k then { t with kept := none } else t }

/-- VGATH (R226, R230). -/
def doVgath (p : Bool) (d a : Reg) (l : Policy) (m : BitVec 3) (nf e : Bool) (len : Nat) : M Unit := straight len do
  let w ← readIn p a e
  checkVecFmt false w
  let k ← me
  let vec := (← myThread).vec
  let p := planOf w l false (vec.active m) (gatherVa vec w d)
  if !nf then vectorLoad d p fun _ => 0
  else
    let v ← myView
    remoteScope k do
      p.lanes.forM fun x => do
        checkAligned p x.1 x.2
        x.2.forM fun y => if isLocal y.1 then do let _ ← placeOf p x.1 y.1 y.2 else pure ()
      let s ← get
      let missed := p.lanes.filter fun x => x.2.any fun y => misses s v y.1
      missed.forM fun x => x.2.forM fun y => startWalk v y.1
      let found := p.lanes.filter fun x => !x.2.any fun y => misses s v y.1
      let places ← found.mapM fun x => do return (x.1, x.2, ← checkLane p x.1 x.2)
      loadLanes d p (fun _ => 0) places
      modVec fun v => v.setMask m (maskOf (missed.map (·.1)))
  unkeep k

/-- The meaning of `vgath`. -/
def execVgath (p : Bool) (d a : Reg) (l : Policy) (m : BitVec 3) (nf e : Bool) (s : State) :
    Host.Outcome State Fault Refusal := finish (doVgath p d a l m nf e 4) s

/-! ## VLDL and VSTL (R226, R231) -/

/-- Local-window address of byte `o` of lane `i`'s slice. -/
def sliceVa (i o : Nat) : Nat := 0xF * 2 ^ 48 + 2 * 2 ^ 44 + (i * 0x400 + o) % 2 ^ 44

/-- The checks of VLDL and VSTL for a lane (R228). -/
def checkSlice (i o : Nat) (store : Bool) : M Unit := do
  let fa := BitVec.ofNat 64 (sliceVa i o)
  let fi := laneInfo 4 store .self i 0
  if o % 4 ≠ 0 then trap .misalign 0 fa fi
  if o ≥ 1024 || isHub (← myWho) then trap .page 0x10 fa fi

/-- VLDL. -/
def doVldl (p : Bool) (d a x : Reg) (m : BitVec 3) (e : Bool) (len : Nat) : M Unit := straight len do
  let o := ((← readIn p a e) + (← readIn p x e)).toNat
  let k ← me
  let t ← getThread k
  let lanes := t.vec.active m
  lanes.forM fun i => checkSlice i o false
  let rs ← lanes.mapM fun i => do
    let place := lanePlace (k / 8) t.vec i o
    if ← localWithheld place 4 (k / 8) (if t.kern.kmode then 0 else t.kern.ctxid.toNat) then
      trap .memabort 0 (BitVec.ofNat 64 (sliceVa i o)) (laneInfo 4 false .self i 0)
    return (i, BitVec.ofNat 32 (leNat (← takeBytes place 4)))
  modVec fun v => v.setLanes d rs

/-- The meaning of `vldl`. -/
def execVldl (p : Bool) (d a x : Reg) (m : BitVec 3) (e : Bool) (s : State) : Host.Outcome State Fault Refusal :=
  finish (doVldl p d a x m e 4) s

/-- VSTL: refused while collecting (R186). -/
def doVstl (p : Bool) (d a x : Reg) (m : BitVec 3) (e : Bool) (len : Nat) : M Unit := straight len do
  let o := ((← readIn p a e) + (← readIn p x e)).toNat
  let k ← me
  if ← collecting then trap .ebad 4
  let v := (← myThread).vec
  let lanes := v.active m
  lanes.forM fun i => checkSlice i o true
  lanes.forM fun i => putBytes (lanePlace (k / 8) v i o) (leBytes 4 (v.lane d i).toNat)

/-- The meaning of `vstl`. -/
def execVstl (p : Bool) (d a x : Reg) (m : BitVec 3) (e : Bool) (s : State) : Host.Outcome State Fault Refusal :=
  finish (doVstl p d a x m e 4) s

end Sys2Proof.Machine
end

