-- ==== Sys2Proof/Machine/WordInt.lean ====
section
/-! DEFINITION. 32-bit integer instructions of major 0x02 (R21, R22, R97). -/

namespace Sys2Proof.Machine

/-- A function of the low words, its 32-bit result sign-extended (R21, R97). -/
def onLow (op : BitVec 32 → BitVec 32 → BitVec 32) (x y : Word) : Word :=
  (op (x.extractLsb' 0 32) (y.extractLsb' 0 32)).signExtend 64

/-- 32-bit sum (R97). -/
def doAddw (d a b : Reg) (e f : Bool) (len : Nat) : M Unit :=
  formR d a b e f len (onLow fun x y => x + y)

/-- The meaning of `addw`. -/
def execAddw (d a b : Reg) (e f : Bool) (s : State) : Host.Outcome State Fault Refusal :=
  finish (doAddw d a b e f 4) s

/-- 32-bit difference (R97). -/
def doSubw (d a b : Reg) (e f : Bool) (len : Nat) : M Unit :=
  formR d a b e f len (onLow fun x y => x - y)

/-- The meaning of `subw`. -/
def execSubw (d a b : Reg) (e f : Bool) (s : State) : Host.Outcome State Fault Refusal :=
  finish (doSubw d a b e f 4) s

/-- Low 32 bits of the product (R97). -/
def doMulw (d a b : Reg) (e f : Bool) (len : Nat) : M Unit :=
  formR d a b e f len (onLow fun x y => x * y)

/-- The meaning of `mulw`. -/
def execMulw (d a b : Reg) (e f : Bool) (s : State) : Host.Outcome State Fault Refusal :=
  finish (doMulw d a b e f 4) s

/-- 32-bit signed quotient (R22, R97). -/
def doDivw (d a b : Reg) (e f : Bool) (len : Nat) : M Unit :=
  formRLong d a b e f len (onLow fun x y => quotS 32 x y)

/-- The meaning of `divw`. -/
def execDivw (d a b : Reg) (e f : Bool) (s : State) : Host.Outcome State Fault Refusal :=
  finish (doDivw d a b e f 4) s

/-- 32-bit unsigned quotient (R22, R97). -/
def doDivnw (d a b : Reg) (e f : Bool) (len : Nat) : M Unit :=
  formRLong d a b e f len (onLow fun x y => quotU 32 x y)

/-- The meaning of `divnw`. -/
def execDivnw (d a b : Reg) (e f : Bool) (s : State) : Host.Outcome State Fault Refusal :=
  finish (doDivnw d a b e f 4) s

/-- 32-bit signed remainder (R22, R97). -/
def doRemw (d a b : Reg) (e f : Bool) (len : Nat) : M Unit :=
  formRLong d a b e f len (onLow fun x y => remS 32 x y)

/-- The meaning of `remw`. -/
def execRemw (d a b : Reg) (e f : Bool) (s : State) : Host.Outcome State Fault Refusal :=
  finish (doRemw d a b e f 4) s

/-- 32-bit unsigned remainder (R22, R97). -/
def doRemnw (d a b : Reg) (e f : Bool) (len : Nat) : M Unit :=
  formRLong d a b e f len (onLow fun x y => remU 32 x y)

/-- The meaning of `remnw`. -/
def execRemnw (d a b : Reg) (e f : Bool) (s : State) : Host.Outcome State Fault Refusal :=
  finish (doRemnw d a b e f 4) s

/-- 32-bit shift left by b[4:0] (R97). -/
def doSllw (d a b : Reg) (e f : Bool) (len : Nat) : M Unit :=
  formR d a b e f len (onLow fun x y => x <<< (y.toNat % 32))

/-- The meaning of `sllw`. -/
def execSllw (d a b : Reg) (e f : Bool) (s : State) : Host.Outcome State Fault Refusal :=
  finish (doSllw d a b e f 4) s

/-- 32-bit shift right, zeros in (R97). -/
def doSrlw (d a b : Reg) (e f : Bool) (len : Nat) : M Unit :=
  formR d a b e f len (onLow fun x y => x >>> (y.toNat % 32))

/-- The meaning of `srlw`. -/
def execSrlw (d a b : Reg) (e f : Bool) (s : State) : Host.Outcome State Fault Refusal :=
  finish (doSrlw d a b e f 4) s

/-- 32-bit shift right, copies of bit 31 in (R97). -/
def doSraw (d a b : Reg) (e f : Bool) (len : Nat) : M Unit :=
  formR d a b e f len (onLow fun x y => x.sshiftRight (y.toNat % 32))

/-- The meaning of `sraw`. -/
def execSraw (d a b : Reg) (e f : Bool) (s : State) : Host.Outcome State Fault Refusal :=
  finish (doSraw d a b e f 4) s

end Sys2Proof.Machine
end

