-- ==== Sys2Proof/Machine/Follower.lean ====
section
/-! DEFINITION. Instructions performed from a dictionary parcel or under a repeat prefix (R60, R61, R66, R88 to R91). -/

namespace Sys2Proof.Machine

/-- Performs an instruction of one word whose unit is `len` bytes long. Literal-class instructions, REP and D16 are never
reached from here (R61, R88), and agents' moves are no instructions. -/
def perform (i : Instr) (len : Nat) : M Unit :=
  match i with
  | .add p d a b e f => doAdd p d a b e f len
  | .sub p d a b e f => doSub p d a b e f len
  | .mul d a b e f => doMul d a b e f len
  | .mulh d a b e f => doMulh d a b e f len
  | .mulhn d a b e f => doMulhn d a b e f len
  | .div d a b e f => doDiv d a b e f len
  | .divn d a b e f => doDivn d a b e f len
  | .rem d a b e f => doRem d a b e f len
  | .remn d a b e f => doRemn d a b e f len
  | .and p d a b e f => doAnd p d a b e f len
  | .or p d a b e f => doOr p d a b e f len
  | .xor p d a b e f => doXor p d a b e f len
  | .andn p d a b e f => doAndn p d a b e f len
  | .sll p d a b e f => doSll p d a b e f len
  | .srl p d a b e f => doSrl p d a b e f len
  | .sra p d a b e f => doSra p d a b e f len
  | .rol d a b e f => doRol d a b e f len
  | .min d a b e f => doMin d a b e f len
  | .max d a b e f => doMax d a b e f len
  | .minn d a b e f => doMinn d a b e f len
  | .maxn d a b e f => doMaxn d a b e f len
  | .slt d a b e f => doSlt d a b e f len
  | .sltn d a b e f => doSltn d a b e f len
  | .seq d a b e f => doSeq d a b e f len
  | .clz d a e => doClz d a e len
  | .ctz d a e => doCtz d a e len
  | .popc d a e => doPopc d a e len
  | .padd p d a b e f => doPadd p d a b e f len
  | .pdiff d a b e f => doPdiff d a b e f len
  | .fatset p d a b e f => doFatset p d a b e f len
  | .fatget p d a e => doFatget p d a e len
  | .addw d a b e f => doAddw d a b e f len
  | .subw d a b e f => doSubw d a b e f len
  | .mulw d a b e f => doMulw d a b e f len
  | .divw d a b e f => doDivw d a b e f len
  | .divnw d a b e f => doDivnw d a b e f len
  | .remw d a b e f => doRemw d a b e f len
  | .remnw d a b e f => doRemnw d a b e f len
  | .sllw d a b e f => doSllw d a b e f len
  | .srlw d a b e f => doSrlw d a b e f len
  | .sraw d a b e f => doSraw d a b e f len
  | .addi p d a e i => doAddi p d a e i len
  | .andi p d a e i => doAndi p d a e i len
  | .ori p d a e i => doOri p d a e i len
  | .xori p d a e i => doXori p d a e i len
  | .slli p d a e n => doSlli p d a e n len
  | .srli p d a e n => doSrli p d a e n len
  | .srai p d a e n => doSrai p d a e n len
  | .roli p d a e n => doRoli p d a e n len
  | .slti d a e i => doSlti d a e i len
  | .sltni d a e i => doSltni d a e i len
  | .paddi p d a e i => doPaddi p d a e i len
  | .movi d i => doMovi d i len
  | .adr d i => doAdr d i len
  | .movl _ _ => pure ()
  | .movlz _ _ => pure ()
  | .movlh _ _ _ _ => pure ()
  | .addl _ _ _ _ => pure ()
  | .fmal _ _ _ _ => pure ()
  | .faddl _ _ _ _ => pure ()
  | .fmull _ _ _ _ => pure ()
  | .fmovi d imm => doFmovi d imm len
  | .faddi d imm => doFaddi d imm len
  | .fmuli d imm => doFmuli d imm len
  | .fadd d a b e f w => doFadd d a b e f w len
  | .fsub d a b e f w => doFsub d a b e f w len
  | .fmul d a b e f w => doFmul d a b e f w len
  | .fdiv d a b e f w => doFdiv d a b e f w len
  | .fsqrt d a e w => doFsqrt d a e w len
  | .fma d a b e f w => doFma d a b e f w len
  | .fmin d a b e f w => doFmin d a b e f w len
  | .fmax d a b e f w => doFmax d a b e f w len
  | .fneg d a e w => doFneg d a e w len
  | .fabs d a e w => doFabs d a e w len
  | .feq d a b e f w => doFeq d a b e f w len
  | .flt d a b e f w => doFlt d a b e f w len
  | .fle d a b e f w => doFle d a b e f w len
  | .fclass d a e w => doFclass d a e w len
  | .fcvti d a e w => doFcvti d a e w len
  | .fcvtf d a e w => doFcvtf d a e w len
  | .fcvtp d a e w => doFcvtp d a e w len
  | .fcvtit d a e w => doFcvtit d a e w len
  | .fmak d a k => doFmak d a k len
  | .faddk d a k => doFaddk d a k len
  | .fmulk d a k => doFmulk d a k len
  | .movk d k => doMovk d k len
  | .br a b c o => doBr a b c o len
  | .j i => doJ i len
  | .jal d i => doJal d i len
  | .callc d i => doCallc d i len
  | .jr a e => doJr a e len
  | .jalr d a e => doJalr d a e len
  | .ret => doRet len
  | .align => doAlign len
  | .endact => doEndact len
  | .yield => doYield len
  | .trigger => doTrigger len
  | .resume d a b e f => doResume d a b e f len
  | .rep _ _ _ _ => pure ()
  | .ld p d a l w e o => doLd p d a l w e o len
  | .st p d a l w e o => doSt p d a l w e o len
  | .ldx p d a b e f l w => doLdx p d a b e f l w len
  | .stx p d a b e f l w => doStx p d a b e f l w len
  | .ldacq p d a e l w => doLdacq p d a e l w len
  | .strel p a b e f l w => doStrel p a b e f l w len
  | .aadd d a b e f w o => doAadd d a b e f w o len
  | .aand d a b e f w o => doAand d a b e f w o len
  | .aor d a b e f w o => doAor d a b e f w o len
  | .axor d a b e f w o => doAxor d a b e f w o len
  | .amin d a b e f w o => doAmin d a b e f w o len
  | .amax d a b e f w o => doAmax d a b e f w o len
  | .aminn d a b e f w o => doAminn d a b e f w o len
  | .amaxn d a b e f w o => doAmaxn d a b e f w o len
  | .aswap d a b e f w o => doAswap d a b e f w o len
  | .acas d a b e f w o => doAcas d a b e f w o len
  | .afadd d a b e f o => doAfadd d a b e f o len
  | .fence sc k => doFence sc k len
  | .acq sc => doAcq sc len
  | .rel sc => doRel sc len
  | .clean a e => doClean a e len
  | .drop a e => doDrop a e len
  | .pref a l e => doPref a l e len
  | .spmap d a b e f => doSpmap d a b e f len
  | .spunmap d a e => doSpunmap d a e len
  | .waitc d a b e f => doWaitc d a b e f len
  | .testc d a e => doTestc d a e len
  | .ecat d a b e f => doEcat d a b e f len
  | .efilt d a b e f => doEfilt d a b e f len
  | .efiltx d a b e f => doEfiltx d a b e f len
  | .ereb a b e f => doEreb a b e f len
  | .eapply a b e f => doEapply a b e f len
  | .eapplyO a b e f => doEapplyO a b e f len
  | .edrop a e => doEdrop a e len
  | .einfo d a b e f => doEinfo d a b e f len
  | .espill d a b e f => doEspill d a b e f len
  | .eload d a e => doEload d a e len
  | .callcr d a e => doCallcr d a e len
  | .send d a b e f => doSend d a b e f len
  | .sendr d a b e f => doSendr d a b e f len
  | .tsend d a b e f => doTsend d a b e f len
  | .put d a b e f => doPut d a b e f len
  | .puth d a b e f => doPuth d a b e f len
  | .recv d a e => doRecv d a e len
  | .msgfree d a e => doMsgfree d a e len
  | .chstat d a b e f => doChstat d a b e f len
  | .alloc d a e => doAlloc d a e len
  | .free a b e f => doFree a b e f len
  | .copy d a b e f => doCopy d a b e f len
  | .copys d a b e f => doCopys d a b e f len
  | .ginfo d a b e f => doGinfo d a b e f len
  | .gmcast d a b e f => doGmcast d a b e f len
  | .gred d a b e f => doGred d a b e f len
  | .gset d a b e f => doGset d a b e f len
  | .barcfg d a b e f => doBarcfg d a b e f len
  | .bararr d a e => doBararr d a e len
  | .barwait d a e => doBarwait d a e len
  | .bararw d a e => doBararw d a e len
  | .barq d a b e f => doBarq d a b e f len
  | .vadd d a b m => doVadd d a b m len
  | .vsub d a b m => doVsub d a b m len
  | .vmul d a b m => doVmul d a b m len
  | .vmin d a b m => doVmin d a b m len
  | .vmax d a b m => doVmax d a b m len
  | .vminn d a b m => doVminn d a b m len
  | .vmaxn d a b m => doVmaxn d a b m len
  | .vand d a b m => doVand d a b m len
  | .vor d a b m => doVor d a b m len
  | .vxor d a b m => doVxor d a b m len
  | .vsll d a b m => doVsll d a b m len
  | .vsrl d a b m => doVsrl d a b m len
  | .vsra d a b m => doVsra d a b m len
  | .vcmpeq d a b m => doVcmpeq d a b m len
  | .vcmplt d a b m => doVcmplt d a b m len
  | .vcmpltn d a b m => doVcmpltn d a b m len
  | .vfadd d a b m => doVfadd d a b m len
  | .vfsub d a b m => doVfsub d a b m len
  | .vfmul d a b m => doVfmul d a b m len
  | .vffma d a b m => doVffma d a b m len
  | .vfmin d a b m => doVfmin d a b m len
  | .vfmax d a b m => doVfmax d a b m len
  | .vfneg d a m => doVfneg d a m len
  | .vfabs d a m => doVfabs d a m len
  | .vfeq d a b m => doVfeq d a b m len
  | .vflt d a b m => doVflt d a b m len
  | .vfle d a b m => doVfle d a b m len
  | .vfdiv d a b m => doVfdiv d a b m len
  | .vexp2 d a m => doVexp2 d a m len
  | .vlog2 d a m => doVlog2 d a m len
  | .vrcp d a m => doVrcp d a m len
  | .vrsqrt d a m => doVrsqrt d a m len
  | .vbcast d a m => doVbcast d a m len
  | .vext d a b => doVext d a b len
  | .vidx d m => doVidx d m len
  | .vsel d a b m => doVsel d a b m len
  | .vperm d a b m => doVperm d a b m len
  | .vcvtfi d a m => doVcvtfi d a m len
  | .vcvtif d a m => doVcvtif d a m len
  | .vrsum d a m => doVrsum d a m len
  | .vfrsum d a m => doVfrsum d a m len
  | .vfrmax d a m => doVfrmax d a m len
  | .mand d a b => doMand d a b len
  | .mor d a b => doMor d a b len
  | .mnot d a => doMnot d a len
  | .mpop d a => doMpop d a len
  | .mset d a => doMset d a len
  | .vld p d a x l m e => doVld p d a x l m e len
  | .vst p d a x l m e => doVst p d a x l m e len
  | .vlds p d a x l m e => doVlds p d a x l m e len
  | .vsts p d a x l m e => doVsts p d a x l m e len
  | .vgath p d a l m nf e => doVgath p d a l m nf e len
  | .vscat p d a l m e => doVscat p d a l m e len
  | .vldl p d a x m e => doVldl p d a x m e len
  | .vstl p d a x m e => doVstl p d a x m e len
  | .vclaim d a e => doVclaim d a e len
  | .vrel => doVrel len
  | .vlen d => doVlen d len
  | .mzero c => doMzero c len
  | .mweave a b c set => doMweave a b c set len
  | .mweaves d a b c set => doMweaves d a b c set len
  | .mread d a c m => doMread d a c m len
  | .bload d a b => doBload d a b len
  | .mstat d a => doMstat d a len
  | .msave a c => doMsave a c len
  | .mrestore a c => doMrestore a c len
  | .crr d n => doCrr d n len
  | .crw a n => doCrw a n len
  | .ecall a sub => doEcall a sub len
  | .eret => doEret len
  | .trapi sub => doTrapi sub len
  | .tlbi d a => doTlbi d a len
  | .gstop d a => doGstop d a len
  | .gresume d a => doGresume d a len
  | .dict d a => doDict d a len
  | .kload d a => doKload d a len
  | .pwrset d a => doPwrset d a len
  | .killcore d a => doKillcore d a len
  | .foffer d a b e f => doFoffer d a b e f len
  | .faccept d a b e f => doFaccept d a b e f len
  | .flend d a b e f => doFlend d a b e f len
  | .frecall d a b e f => doFrecall d a b e f len
  | .freturn d a b e f => doFreturn d a b e f len
  | .fquery d a b e f => doFquery d a b e f len
  | .d16 _ => pure ()
  | .fpfWrite _ _ => pure ()
  | .l2modeWrite _ _ => pure ()
  | .tracectlWrite _ _ => pure ()
  | .kptrootWrite _ _ => pure ()
  | .ctxidWrite _ _ => pure ()
  | .killresWrite _ _ => pure ()
  | .swapin _ _ _ _ => pure ()
  | .swapout _ _ _ => pure ()
  | .restart _ _ _ => pure ()
  | .thaw _ _ _ => pure ()
  | .create _ _ => pure ()
  | .start _ _ => pure ()
  | .reset _ _ => pure ()
  | .destroy _ _ => pure ()
  | .evict _ _ => pure ()
  | .migrationGo _ _ _ => pure ()
  | .migrationEnd _ => pure ()
  | .portTrain _ => pure ()
  | .portDown _ => pure ()
  | .resultWriteback _ => pure ()
  | .alignTimeout _ => pure ()
  | .messageArrival _ => pure ()
  | .activationBind _ => pure ()
  | .systemMessageDelivery _ => pure ()
  | .interruptEntry _ => pure ()
  | .fillu _ => pure ()
  | .fills _ => pure ()
  | .upg _ => pure ()
  | .getm _ => pure ()
  | .ext _ => pure ()
  | .regw _ => pure ()
  | .rdh _ => pure ()
  | .wrh _ => pure ()
  | .atom _ => pure ()
  | .wbs _ => pure ()
  | .wbo _ => pure ()
  | .dereg _ => pure ()
  | .leave _ => pure ()
  | .l1Invalidation _ => pure ()
  | .homeAcknowledgement _ => pure ()
  | .forwardedAccess _ => pure ()
  | .backgroundCleaner _ _ => pure ()
  | .pageWalk _ => pure ()
  | .migrationLineCopy _ => pure ()
  | .copyComplete _ => pure ()
  | .copysComplete _ => pure ()
  | .putPlacement _ => pure ()
  | .eapplyComplete _ => pure ()
  | .gmcastComplete _ => pure ()
  | .gredReduction _ _ => pure ()
  | .allocServe _ => pure ()
  | .freeEngine _ => pure ()
  | .tlbiComplete _ => pure ()
  | .bloadComplete _ => pure ()
  | .commit _ _ => pure ()
  | .sequencerTake _ => pure ()
  | .rowStep _ => pure ()
  | .barrierWatchdog _ _ => pure ()
  | .launchBinding _ => pure ()
  | .stageEnd _ _ => pure ()
  | .launchDone _ => pure ()
  | .queueEntryTake _ => pure ()
  | .launchCommand _ => pure ()
  | .waitCommand _ => pure ()
  | .signalCommand _ => pure ()
  | .copyCommand _ => pure ()
  | .nopCommand _ => pure ()
  | .queueWaitMet _ _ => pure ()
  | .gangStopSaveDone _ => pure ()
  | .recallDeadline _ => pure ()
  | .revocationComplete _ => pure ()
  | .linkTrainingDone _ _ => pure ()
  | .laneLost _ => pure ()
  | .linkFailure _ => pure ()
  | .linkRequest _ => pure ()
  | .linkResponse _ _ _ => pure ()
  | .linkTimeout _ => pure ()
  | .packageReset => pure ()
  | .functionReady _ => pure ()
  | .thermalTrip _ => pure ()
  | .spdmRequest _ => pure ()

/-- Majors that no follower may have (R88). -/
def repForbidden (w : Nat) : Bool :=
  let m := fld w 26 6
  m == 0x0C || (decide (0x12 ≤ m) && decide (m ≤ 0x17)) || (decide (0x26 ≤ m) && decide (m ≤ 0x28))

/-! ## D16 (R60, R61) -/

/-- The parcel of a dictionary index. -/
def dictParcel (i : BitVec 10) : Nat := 0xE000 + i.toNat * 8

/-- Reads and decodes a dictionary word: DICTWORD, then the ILL of the word in place (R60, R61, R66). Answers the
instruction and FINFO. `at'` is where FADDR points, `repf` that a REP stands before it. -/
def dictInstr (i : BitVec 10) (at' : BitVec 52) (repf : Bool) : M (Nat × Instr × Word) := do
  let w ← dictWord i
  let info := illInfo w (dictParcel i) true repf
  if dictForbidden w then illAt at' .dictword info
  else if repf && repForbidden w then illAt at' .undef info
  else match decodeOn (← myOffer) w 0 with
    | .error e => illAt at' e info
    | .ok j => return (w, j, info)

/-- D16 (R60): the dictionary word at its index, as if it stood at the parcel. -/
def doD16 (i : BitVec 10) (len : Nat) : M Unit := do
  let pc := (← myThread).pc
  let (_, j, info) ← dictInstr i pc false
  if barred j (← inKernel) then trap .priv 0 (addrWord pc) info
  perform j len

/-- The meaning of `d16`. -/
def execD16 (i : BitVec 10) (s : State) : Host.Outcome State Fault Refusal := finish (doD16 i 2) s

/-! ## REP (R88 to R91) -/

/-- The lowest bits of the register fields d, a and b of a word by its format, where the format has them (R53, R89). -/
def strideFields (w : Nat) : List (Option Nat) :=
  let m := fld w 26 6
  let fn := fld w 0 8
  if m == 0x1C && (fn ≤ 2 || fn == 5) then [none, if fn == 5 then some 15 else none, none]
  else if m == 0x01 || m == 0x02 || m == 0x10 || (decide (0x1A ≤ m) && decide (m ≤ 0x1F)) || m == 0x24 || m == 0x25 then
    [some 20, some 15, some 10]
  else if (decide (0x03 ≤ m) && decide (m ≤ 0x09)) || m == 0x18 || m == 0x19 || m == 0x29 then [some 20, some 15, none]
  else if m == 0x0A || m == 0x0B || (decide (0x0D ≤ m) && decide (m ≤ 0x0F)) then [some 21, none, none]
  else if m == 0x11 then [some 21, some 16, none]
  else if decide (0x20 ≤ m) && decide (m ≤ 0x23) then [some 21, some 16, some 11]
  else [none, none, none]

/-- Replaces the five bits of a field. -/
def setField (w lo v : Nat) : Nat := w - fld w lo 5 * 2 ^ lo + v % 32 * 2 ^ lo

/-- Whether a word with a field's value replaced breaks a zero field. -/
def zeroBroken (w lo v : Nat) : Bool :=
  match decodeWord (setField w lo v) 0 with
  | .error .zfield => true
  | _ => false

/-- A vector compare, whose mask destination is not strided (R89). -/
def isCompare (w : Nat) : Bool :=
  let fn := fld w 0 8
  (fld w 26 6 == 0x20 && decide (0x0D ≤ fn)) || (fld w 26 6 == 0x21 && (fn == 8 || fn == 9 || fn == 10))

/-- The field that a stride applies to, if the follower uses one there (R89). -/
def strideAt (w k : Nat) : Option Nat :=
  match (strideFields w).getD k none with
  | none => none
  | some lo => if zeroBroken w lo 1 || (k == 0 && isCompare w) then none else some lo

/-- The highest register that a field may name: 7 for a mask register. -/
def fieldTop (w lo : Nat) : Nat := if zeroBroken w lo 8 then 7 else 31

/-- The strides of a REP, for d, a and b. -/
def strides (sd sa sb : BitVec 3) : List Nat := [sd.toNat, sa.toNat, sb.toNat]

/-- The word of instance `i` (R89). -/
def instanceWord (w : Nat) (st : List Nat) (i : Nat) : Nat :=
  st.zipIdx.foldl (fun x p => match strideAt w p.2 with
    | some lo => setField x lo (fld w lo 5 + i * p.1)
    | none => x) w

/-- A nonzero stride that applies to nothing. -/
def strideUnused (w : Nat) (st : List Nat) : Bool := st.zipIdx.any fun p => p.1 != 0 && (strideAt w p.2).isNone

/-- A field of instance `n - 1` beyond its registers, or its pair beyond g31 (R89). -/
def strideBeyond (w : Nat) (st : List Nat) (n : Nat) : Bool :=
  (st.zipIdx.any fun p => match strideAt w p.2 with
    | some lo => decide (fieldTop w lo < fld w lo 5 + (n - 1) * p.1)
    | none => false) ||
  (match decodeWord (instanceWord w st (n - 1)) 0 with | .error .pair => true | _ => false)

/-- The follower of a REP at `at'`, checked in the order of R66: its word, its instruction, its length, and FINFO. -/
def follower (at' : BitVec 52) : M (Nat × Instr × Nat × Word) := do
  let (w, lit, len) ← fetchInstr at'
  if len = 2 then
    match decodeParcel w with
    | .ok (.d16 i) =>
      let (d, j, info) ← dictInstr i at' true
      return (d, j, 2, info)
    | .error e => illAt at' e (illInfo 0 w true true)
    | .ok _ => illAt at' .undef (illInfo 0 w true true)
  else
    let info := illInfo w 0 false true
    if repForbidden w then illAt at' .undef info
    match decodeOn (← myOffer) w lit with
    | .error e => illAt at' e info
    | .ok j => return (w, j, 4, info)

/-- Performs one instance with the PC at the follower; where it does not complete, the PC is the REP's again, and its trap
is REPX (R91). -/
def repInstance (pc : BitVec 52) (m : M Unit) : M Unit := fun s =>
  match (do modMe fun t => { t with pc := after pc 4 }; m : M Unit) s with
  | .ok _ s' => .ok () s'
  | .error e s' =>
    let back := s'.setThread s'.run.cur { s'.thread s'.run.cur with pc := pc }
    match e with
    | .trap t => .error (.trap { t with cause := .repx, sub := t.cause.code }) back
    | e => .error e back

/-- The fields that a REP's strides step, all checked before any instance (R66, R67, R89): the unit. A check that fails
leaves REPCNT 0 (R67, R88). -/
def checkRep (n : BitVec 8) (sd sa sb : BitVec 3) (rw : Nat) : M RepUnit := do
  let pc := (← myThread).pc
  let at' := after pc 4
  let (w, f, len, info) ← follower at'
  let st := strides sd sa sb
  if strideUnused w st then illAt pc .zfield (illInfo rw 0 false false)
  if strideBeyond w st n.toNat then illAt pc .reprange (illInfo rw 0 false false)
  if barred f (← inKernel) then trap .priv 0 (addrWord at') info
  return { count := n, sd := sd, sa := sa, sb := sb, word := w, len := len }

/-- The unit that a REP runs: the one under way, or a new one, whose checks come before its first instance (R67, R91). -/
def repUnit (n : BitVec 8) (sd sa sb : BitVec 3) (rw : Nat) : M RepUnit := do
  match (← myThread).rep with
  | some u => return u
  | none => repChecks (checkRep n sd sa sb rw)

/-- Ends the unit: the PC moves past it with REPCNT 0 (R89). -/
def repDone (t : Thread) (pc : BitVec 52) : Thread := { t with pc := pc, rep := none, ctl := { t.ctl with repcnt := 0 } }

/-- REP (R88 to R91): one instance; the loop goes on at the REP, with REPCNT instances done, until `n` are (log entry 13). -/
def doRep (n : BitVec 8) (sd sa sb : BitVec 3) (rw : Nat) : M Unit := do
  remoteScope (← me) do
  let pc := (← myThread).pc
  if n = 0 then
    let (_, _, len) ← fetchInstr (after pc 4)
    modMe fun t => { t with pc := after pc (4 + len) }
  else
    let u ← repUnit n sd sa sb rw
    let next := after pc (4 + u.len)
    let i := (← myThread).ctl.repcnt.toNat
    if n.toNat ≤ i then modMe fun t => repDone t next
    else
      modMe fun t => { t with rep := some u }
      match decodeWord (instanceWord u.word (strides sd sa sb) i) 0 with
      | .error e => repChecks (illAt pc e (illInfo rw 0 false false))
      | .ok j =>
        repInstance pc (perform j u.len)
        if i + 1 < n.toNat then modMe fun t => { t with pc := pc, ctl := { t.ctl with repcnt := BitVec.ofNat 8 (i + 1) } }
        else modMe fun t => repDone t t.pc

/-- The meaning of `rep`. -/
def execRep (n : BitVec 8) (sd sa sb : BitVec 3) (s : State) : Host.Outcome State Fault Refusal :=
  finish (doRep n sd sa sb (fmtP 0x16 n.toNat sd.toNat sa.toNat sb.toNat 0)) s

end Sys2Proof.Machine
end

