-- ==== Sys2Proof/Machine/Dispatch.lean ====
section
/-! DEFINITION. One arm for each constructor of `Instr`: the call of its meaning. -/

namespace Sys2Proof.Machine

/-- The meaning of an instruction or of an agent's step. -/
def exec (i : Instr) (s : State) : Host.Outcome State Fault Refusal :=
  match i with
  | .add p d a b e f => Sys2Proof.Machine.execAdd p d a b e f s
  | .sub p d a b e f => Sys2Proof.Machine.execSub p d a b e f s
  | .mul d a b e f => Sys2Proof.Machine.execMul d a b e f s
  | .mulh d a b e f => Sys2Proof.Machine.execMulh d a b e f s
  | .mulhn d a b e f => Sys2Proof.Machine.execMulhn d a b e f s
  | .div d a b e f => Sys2Proof.Machine.execDiv d a b e f s
  | .divn d a b e f => Sys2Proof.Machine.execDivn d a b e f s
  | .rem d a b e f => Sys2Proof.Machine.execRem d a b e f s
  | .remn d a b e f => Sys2Proof.Machine.execRemn d a b e f s
  | .and p d a b e f => Sys2Proof.Machine.execAnd p d a b e f s
  | .or p d a b e f => Sys2Proof.Machine.execOr p d a b e f s
  | .xor p d a b e f => Sys2Proof.Machine.execXor p d a b e f s
  | .andn p d a b e f => Sys2Proof.Machine.execAndn p d a b e f s
  | .sll p d a b e f => Sys2Proof.Machine.execSll p d a b e f s
  | .srl p d a b e f => Sys2Proof.Machine.execSrl p d a b e f s
  | .sra p d a b e f => Sys2Proof.Machine.execSra p d a b e f s
  | .rol d a b e f => Sys2Proof.Machine.execRol d a b e f s
  | .min d a b e f => Sys2Proof.Machine.execMin d a b e f s
  | .max d a b e f => Sys2Proof.Machine.execMax d a b e f s
  | .minn d a b e f => Sys2Proof.Machine.execMinn d a b e f s
  | .maxn d a b e f => Sys2Proof.Machine.execMaxn d a b e f s
  | .slt d a b e f => Sys2Proof.Machine.execSlt d a b e f s
  | .sltn d a b e f => Sys2Proof.Machine.execSltn d a b e f s
  | .seq d a b e f => Sys2Proof.Machine.execSeq d a b e f s
  | .clz d a e => Sys2Proof.Machine.execClz d a e s
  | .ctz d a e => Sys2Proof.Machine.execCtz d a e s
  | .popc d a e => Sys2Proof.Machine.execPopc d a e s
  | .padd p d a b e f => Sys2Proof.Machine.execPadd p d a b e f s
  | .pdiff d a b e f => Sys2Proof.Machine.execPdiff d a b e f s
  | .fatset p d a b e f => Sys2Proof.Machine.execFatset p d a b e f s
  | .fatget p d a e => Sys2Proof.Machine.execFatget p d a e s
  | .addw d a b e f => Sys2Proof.Machine.execAddw d a b e f s
  | .subw d a b e f => Sys2Proof.Machine.execSubw d a b e f s
  | .mulw d a b e f => Sys2Proof.Machine.execMulw d a b e f s
  | .divw d a b e f => Sys2Proof.Machine.execDivw d a b e f s
  | .divnw d a b e f => Sys2Proof.Machine.execDivnw d a b e f s
  | .remw d a b e f => Sys2Proof.Machine.execRemw d a b e f s
  | .remnw d a b e f => Sys2Proof.Machine.execRemnw d a b e f s
  | .sllw d a b e f => Sys2Proof.Machine.execSllw d a b e f s
  | .srlw d a b e f => Sys2Proof.Machine.execSrlw d a b e f s
  | .sraw d a b e f => Sys2Proof.Machine.execSraw d a b e f s
  | .addi p d a e imm => Sys2Proof.Machine.execAddi p d a e imm s
  | .andi p d a e imm => Sys2Proof.Machine.execAndi p d a e imm s
  | .ori p d a e imm => Sys2Proof.Machine.execOri p d a e imm s
  | .xori p d a e imm => Sys2Proof.Machine.execXori p d a e imm s
  | .slli p d a e n => Sys2Proof.Machine.execSlli p d a e n s
  | .srli p d a e n => Sys2Proof.Machine.execSrli p d a e n s
  | .srai p d a e n => Sys2Proof.Machine.execSrai p d a e n s
  | .roli p d a e n => Sys2Proof.Machine.execRoli p d a e n s
  | .slti d a e imm => Sys2Proof.Machine.execSlti d a e imm s
  | .sltni d a e imm => Sys2Proof.Machine.execSltni d a e imm s
  | .paddi p d a e imm => Sys2Proof.Machine.execPaddi p d a e imm s
  | .movi d imm => Sys2Proof.Machine.execMovi d imm s
  | .adr d imm => Sys2Proof.Machine.execAdr d imm s
  | .movl d lit => Sys2Proof.Machine.execMovl d lit s
  | .movlz d lit => Sys2Proof.Machine.execMovlz d lit s
  | .movlh d a e lit => Sys2Proof.Machine.execMovlh d a e lit s
  | .addl d a e lit => Sys2Proof.Machine.execAddl d a e lit s
  | .fmal d a e lit => Sys2Proof.Machine.execFmal d a e lit s
  | .faddl d a e lit => Sys2Proof.Machine.execFaddl d a e lit s
  | .fmull d a e lit => Sys2Proof.Machine.execFmull d a e lit s
  | .fmovi d imm => Sys2Proof.Machine.execFmovi d imm s
  | .faddi d imm => Sys2Proof.Machine.execFaddi d imm s
  | .fmuli d imm => Sys2Proof.Machine.execFmuli d imm s
  | .fadd d a b e f sc => Sys2Proof.Machine.execFadd d a b e f sc s
  | .fsub d a b e f sc => Sys2Proof.Machine.execFsub d a b e f sc s
  | .fmul d a b e f sc => Sys2Proof.Machine.execFmul d a b e f sc s
  | .fdiv d a b e f sc => Sys2Proof.Machine.execFdiv d a b e f sc s
  | .fsqrt d a e sc => Sys2Proof.Machine.execFsqrt d a e sc s
  | .fma d a b e f sc => Sys2Proof.Machine.execFma d a b e f sc s
  | .fmin d a b e f sc => Sys2Proof.Machine.execFmin d a b e f sc s
  | .fmax d a b e f sc => Sys2Proof.Machine.execFmax d a b e f sc s
  | .fneg d a e sc => Sys2Proof.Machine.execFneg d a e sc s
  | .fabs d a e sc => Sys2Proof.Machine.execFabs d a e sc s
  | .feq d a b e f sc => Sys2Proof.Machine.execFeq d a b e f sc s
  | .flt d a b e f sc => Sys2Proof.Machine.execFlt d a b e f sc s
  | .fle d a b e f sc => Sys2Proof.Machine.execFle d a b e f sc s
  | .fclass d a e sc => Sys2Proof.Machine.execFclass d a e sc s
  | .fcvti d a e sc => Sys2Proof.Machine.execFcvti d a e sc s
  | .fcvtf d a e sc => Sys2Proof.Machine.execFcvtf d a e sc s
  | .fcvtp d a e sc => Sys2Proof.Machine.execFcvtp d a e sc s
  | .fcvtit d a e sc => Sys2Proof.Machine.execFcvtit d a e sc s
  | .fmak d a k => Sys2Proof.Machine.execFmak d a k s
  | .faddk d a k => Sys2Proof.Machine.execFaddk d a k s
  | .fmulk d a k => Sys2Proof.Machine.execFmulk d a k s
  | .movk d k => Sys2Proof.Machine.execMovk d k s
  | .br a b c o => Sys2Proof.Machine.execBr a b c o s
  | .j imm => Sys2Proof.Machine.execJ imm s
  | .jal d imm => Sys2Proof.Machine.execJal d imm s
  | .callc d imm => Sys2Proof.Machine.execCallc d imm s
  | .jr a e => Sys2Proof.Machine.execJr a e s
  | .jalr d a e => Sys2Proof.Machine.execJalr d a e s
  | .ret => Sys2Proof.Machine.execRet s
  | .align => Sys2Proof.Machine.execAlign s
  | .endact => Sys2Proof.Machine.execEndact s
  | .yield => Sys2Proof.Machine.execYield s
  | .trigger => Sys2Proof.Machine.execTrigger s
  | .resume d a b e f => Sys2Proof.Machine.execResume d a b e f s
  | .rep n d a b => Sys2Proof.Machine.execRep n d a b s
  | .ld p d a l w e o => Sys2Proof.Machine.execLd p d a l w e o s
  | .st p d a l w e o => Sys2Proof.Machine.execSt p d a l w e o s
  | .ldx p d a b e f l w => Sys2Proof.Machine.execLdx p d a b e f l w s
  | .stx p d a b e f l w => Sys2Proof.Machine.execStx p d a b e f l w s
  | .ldacq p d a e l w => Sys2Proof.Machine.execLdacq p d a e l w s
  | .strel p a b e f l w => Sys2Proof.Machine.execStrel p a b e f l w s
  | .aadd d a b e f sc o => Sys2Proof.Machine.execAadd d a b e f sc o s
  | .aand d a b e f sc o => Sys2Proof.Machine.execAand d a b e f sc o s
  | .aor d a b e f sc o => Sys2Proof.Machine.execAor d a b e f sc o s
  | .axor d a b e f sc o => Sys2Proof.Machine.execAxor d a b e f sc o s
  | .amin d a b e f sc o => Sys2Proof.Machine.execAmin d a b e f sc o s
  | .amax d a b e f sc o => Sys2Proof.Machine.execAmax d a b e f sc o s
  | .aminn d a b e f sc o => Sys2Proof.Machine.execAminn d a b e f sc o s
  | .amaxn d a b e f sc o => Sys2Proof.Machine.execAmaxn d a b e f sc o s
  | .aswap d a b e f sc o => Sys2Proof.Machine.execAswap d a b e f sc o s
  | .acas d a b e f sc o => Sys2Proof.Machine.execAcas d a b e f sc o s
  | .afadd d a b e f o => Sys2Proof.Machine.execAfadd d a b e f o s
  | .fence sc k => Sys2Proof.Machine.execFence sc k s
  | .acq sc => Sys2Proof.Machine.execAcq sc s
  | .rel sc => Sys2Proof.Machine.execRel sc s
  | .clean a e => Sys2Proof.Machine.execClean a e s
  | .drop a e => Sys2Proof.Machine.execDrop a e s
  | .pref a l e => Sys2Proof.Machine.execPref a l e s
  | .spmap d a b e f => Sys2Proof.Machine.execSpmap d a b e f s
  | .spunmap d a e => Sys2Proof.Machine.execSpunmap d a e s
  | .waitc d a b e f => Sys2Proof.Machine.execWaitc d a b e f s
  | .testc d a e => Sys2Proof.Machine.execTestc d a e s
  | .ecat d a b e f => Sys2Proof.Machine.execEcat d a b e f s
  | .efilt d a b e f => Sys2Proof.Machine.execEfilt d a b e f s
  | .efiltx d a b e f => Sys2Proof.Machine.execEfiltx d a b e f s
  | .ereb a b e f => Sys2Proof.Machine.execEreb a b e f s
  | .eapply a b e f => Sys2Proof.Machine.execEapply a b e f s
  | .eapplyO a b e f => Sys2Proof.Machine.execEapplyO a b e f s
  | .edrop a e => Sys2Proof.Machine.execEdrop a e s
  | .einfo d a b e f => Sys2Proof.Machine.execEinfo d a b e f s
  | .espill d a b e f => Sys2Proof.Machine.execEspill d a b e f s
  | .eload d a e => Sys2Proof.Machine.execEload d a e s
  | .callcr d a e => Sys2Proof.Machine.execCallcr d a e s
  | .send d a b e f => Sys2Proof.Machine.execSend d a b e f s
  | .sendr d a b e f => Sys2Proof.Machine.execSendr d a b e f s
  | .tsend d a b e f => Sys2Proof.Machine.execTsend d a b e f s
  | .put d a b e f => Sys2Proof.Machine.execPut d a b e f s
  | .puth d a b e f => Sys2Proof.Machine.execPuth d a b e f s
  | .recv d a e => Sys2Proof.Machine.execRecv d a e s
  | .msgfree d a e => Sys2Proof.Machine.execMsgfree d a e s
  | .chstat d a b e f => Sys2Proof.Machine.execChstat d a b e f s
  | .alloc d a e => Sys2Proof.Machine.execAlloc d a e s
  | .free a b e f => Sys2Proof.Machine.execFree a b e f s
  | .copy d a b e f => Sys2Proof.Machine.execCopy d a b e f s
  | .copys d a b e f => Sys2Proof.Machine.execCopys d a b e f s
  | .ginfo d a b e f => Sys2Proof.Machine.execGinfo d a b e f s
  | .gmcast d a b e f => Sys2Proof.Machine.execGmcast d a b e f s
  | .gred d a b e f => Sys2Proof.Machine.execGred d a b e f s
  | .gset d a b e f => Sys2Proof.Machine.execGset d a b e f s
  | .barcfg d a b e f => Sys2Proof.Machine.execBarcfg d a b e f s
  | .bararr d a e => Sys2Proof.Machine.execBararr d a e s
  | .barwait d a e => Sys2Proof.Machine.execBarwait d a e s
  | .bararw d a e => Sys2Proof.Machine.execBararw d a e s
  | .barq d a b e f => Sys2Proof.Machine.execBarq d a b e f s
  | .vadd d a b m => Sys2Proof.Machine.execVadd d a b m s
  | .vsub d a b m => Sys2Proof.Machine.execVsub d a b m s
  | .vmul d a b m => Sys2Proof.Machine.execVmul d a b m s
  | .vmin d a b m => Sys2Proof.Machine.execVmin d a b m s
  | .vmax d a b m => Sys2Proof.Machine.execVmax d a b m s
  | .vminn d a b m => Sys2Proof.Machine.execVminn d a b m s
  | .vmaxn d a b m => Sys2Proof.Machine.execVmaxn d a b m s
  | .vand d a b m => Sys2Proof.Machine.execVand d a b m s
  | .vor d a b m => Sys2Proof.Machine.execVor d a b m s
  | .vxor d a b m => Sys2Proof.Machine.execVxor d a b m s
  | .vsll d a b m => Sys2Proof.Machine.execVsll d a b m s
  | .vsrl d a b m => Sys2Proof.Machine.execVsrl d a b m s
  | .vsra d a b m => Sys2Proof.Machine.execVsra d a b m s
  | .vcmpeq d a b m => Sys2Proof.Machine.execVcmpeq d a b m s
  | .vcmplt d a b m => Sys2Proof.Machine.execVcmplt d a b m s
  | .vcmpltn d a b m => Sys2Proof.Machine.execVcmpltn d a b m s
  | .vfadd d a b m => Sys2Proof.Machine.execVfadd d a b m s
  | .vfsub d a b m => Sys2Proof.Machine.execVfsub d a b m s
  | .vfmul d a b m => Sys2Proof.Machine.execVfmul d a b m s
  | .vffma d a b m => Sys2Proof.Machine.execVffma d a b m s
  | .vfmin d a b m => Sys2Proof.Machine.execVfmin d a b m s
  | .vfmax d a b m => Sys2Proof.Machine.execVfmax d a b m s
  | .vfneg d a m => Sys2Proof.Machine.execVfneg d a m s
  | .vfabs d a m => Sys2Proof.Machine.execVfabs d a m s
  | .vfeq d a b m => Sys2Proof.Machine.execVfeq d a b m s
  | .vflt d a b m => Sys2Proof.Machine.execVflt d a b m s
  | .vfle d a b m => Sys2Proof.Machine.execVfle d a b m s
  | .vfdiv d a b m => Sys2Proof.Machine.execVfdiv d a b m s
  | .vexp2 d a m => Sys2Proof.Machine.execVexp2 d a m s
  | .vlog2 d a m => Sys2Proof.Machine.execVlog2 d a m s
  | .vrcp d a m => Sys2Proof.Machine.execVrcp d a m s
  | .vrsqrt d a m => Sys2Proof.Machine.execVrsqrt d a m s
  | .vbcast d a m => Sys2Proof.Machine.execVbcast d a m s
  | .vext d a b => Sys2Proof.Machine.execVext d a b s
  | .vidx d m => Sys2Proof.Machine.execVidx d m s
  | .vsel d a b m => Sys2Proof.Machine.execVsel d a b m s
  | .vperm d a b m => Sys2Proof.Machine.execVperm d a b m s
  | .vcvtfi d a m => Sys2Proof.Machine.execVcvtfi d a m s
  | .vcvtif d a m => Sys2Proof.Machine.execVcvtif d a m s
  | .vrsum d a m => Sys2Proof.Machine.execVrsum d a m s
  | .vfrsum d a m => Sys2Proof.Machine.execVfrsum d a m s
  | .vfrmax d a m => Sys2Proof.Machine.execVfrmax d a m s
  | .mand d a b => Sys2Proof.Machine.execMand d a b s
  | .mor d a b => Sys2Proof.Machine.execMor d a b s
  | .mnot d a => Sys2Proof.Machine.execMnot d a s
  | .mpop d a => Sys2Proof.Machine.execMpop d a s
  | .mset d a => Sys2Proof.Machine.execMset d a s
  | .vld p d a x l m e => Sys2Proof.Machine.execVld p d a x l m e s
  | .vst p d a x l m e => Sys2Proof.Machine.execVst p d a x l m e s
  | .vlds p d a x l m e => Sys2Proof.Machine.execVlds p d a x l m e s
  | .vsts p d a x l m e => Sys2Proof.Machine.execVsts p d a x l m e s
  | .vgath p d a l m nf e => Sys2Proof.Machine.execVgath p d a l m nf e s
  | .vscat p d a l m e => Sys2Proof.Machine.execVscat p d a l m e s
  | .vldl p d a x m e => Sys2Proof.Machine.execVldl p d a x m e s
  | .vstl p d a x m e => Sys2Proof.Machine.execVstl p d a x m e s
  | .vclaim d a e => Sys2Proof.Machine.execVclaim d a e s
  | .vrel => Sys2Proof.Machine.execVrel s
  | .vlen d => Sys2Proof.Machine.execVlen d s
  | .mzero c => Sys2Proof.Machine.execMzero c s
  | .mweave a b c set => Sys2Proof.Machine.execMweave a b c set s
  | .mweaves d a b c set => Sys2Proof.Machine.execMweaves d a b c set s
  | .mread d a c m => Sys2Proof.Machine.execMread d a c m s
  | .bload d a b => Sys2Proof.Machine.execBload d a b s
  | .mstat d a => Sys2Proof.Machine.execMstat d a s
  | .msave a c => Sys2Proof.Machine.execMsave a c s
  | .mrestore a c => Sys2Proof.Machine.execMrestore a c s
  | .crr d n => Sys2Proof.Machine.execCrr d n s
  | .crw a n => Sys2Proof.Machine.execCrw a n s
  | .ecall a sc => Sys2Proof.Machine.execEcall a sc s
  | .eret => Sys2Proof.Machine.execEret s
  | .trapi sc => Sys2Proof.Machine.execTrapi sc s
  | .tlbi d a => Sys2Proof.Machine.execTlbi d a s
  | .gstop d a => Sys2Proof.Machine.execGstop d a s
  | .gresume d a => Sys2Proof.Machine.execGresume d a s
  | .dict d a => Sys2Proof.Machine.execDict d a s
  | .kload d a => Sys2Proof.Machine.execKload d a s
  | .pwrset d a => Sys2Proof.Machine.execPwrset d a s
  | .killcore d a => Sys2Proof.Machine.execKillcore d a s
  | .foffer d a b e f => Sys2Proof.Machine.execFoffer d a b e f s
  | .faccept d a b e f => Sys2Proof.Machine.execFaccept d a b e f s
  | .flend d a b e f => Sys2Proof.Machine.execFlend d a b e f s
  | .frecall d a b e f => Sys2Proof.Machine.execFrecall d a b e f s
  | .freturn d a b e f => Sys2Proof.Machine.execFreturn d a b e f s
  | .fquery d a b e f => Sys2Proof.Machine.execFquery d a b e f s
  | .d16 imm => Sys2Proof.Machine.execD16 imm s
  | .fpfWrite t v => Sys2Proof.Machine.execFpfWrite t v s
  | .l2modeWrite t v => Sys2Proof.Machine.execL2modeWrite t v s
  | .tracectlWrite t v => Sys2Proof.Machine.execTracectlWrite t v s
  | .kptrootWrite t v => Sys2Proof.Machine.execKptrootWrite t v s
  | .ctxidWrite t v => Sys2Proof.Machine.execCtxidWrite t v s
  | .killresWrite t v => Sys2Proof.Machine.execKillresWrite t v s
  | .swapin t ctx q prio => Sys2Proof.Machine.execSwapin t ctx q prio s
  | .swapout t ctx q => Sys2Proof.Machine.execSwapout t ctx q s
  | .restart t ctx q => Sys2Proof.Machine.execRestart t ctx q s
  | .thaw t ctx q => Sys2Proof.Machine.execThaw t ctx q s
  | .create t ctx => Sys2Proof.Machine.execCreate t ctx s
  | .start t ctx => Sys2Proof.Machine.execStart t ctx s
  | .reset t ctx => Sys2Proof.Machine.execReset t ctx s
  | .destroy t ctx => Sys2Proof.Machine.execDestroy t ctx s
  | .evict t ctx => Sys2Proof.Machine.execEvict t ctx s
  | .migrationGo t old new => Sys2Proof.Machine.execMigrationGo t old new s
  | .migrationEnd t => Sys2Proof.Machine.execMigrationEnd t s
  | .portTrain port => Sys2Proof.Machine.execPortTrain port s
  | .portDown port => Sys2Proof.Machine.execPortDown port s
  | .resultWriteback t => Sys2Proof.Machine.execResultWriteback t s
  | .alignTimeout t => Sys2Proof.Machine.execAlignTimeout t s
  | .messageArrival k => Sys2Proof.Machine.execMessageArrival k s
  | .activationBind who => Sys2Proof.Machine.execActivationBind who s
  | .systemMessageDelivery k => Sys2Proof.Machine.execSystemMessageDelivery k s
  | .interruptEntry who => Sys2Proof.Machine.execInterruptEntry who s
  | .fillu k => Sys2Proof.Machine.execFillu k s
  | .fills k => Sys2Proof.Machine.execFills k s
  | .upg k => Sys2Proof.Machine.execUpg k s
  | .getm k => Sys2Proof.Machine.execGetm k s
  | .ext k => Sys2Proof.Machine.execExt k s
  | .regw k => Sys2Proof.Machine.execRegw k s
  | .rdh k => Sys2Proof.Machine.execRdh k s
  | .wrh k => Sys2Proof.Machine.execWrh k s
  | .atom k => Sys2Proof.Machine.execAtom k s
  | .wbs k => Sys2Proof.Machine.execWbs k s
  | .wbo k => Sys2Proof.Machine.execWbo k s
  | .dereg k => Sys2Proof.Machine.execDereg k s
  | .leave k => Sys2Proof.Machine.execLeave k s
  | .l1Invalidation k => Sys2Proof.Machine.execL1Invalidation k s
  | .homeAcknowledgement k => Sys2Proof.Machine.execHomeAcknowledgement k s
  | .forwardedAccess k => Sys2Proof.Machine.execForwardedAccess k s
  | .backgroundCleaner who k => Sys2Proof.Machine.execBackgroundCleaner who k s
  | .pageWalk k => Sys2Proof.Machine.execPageWalk k s
  | .migrationLineCopy die => Sys2Proof.Machine.execMigrationLineCopy die s
  | .copyComplete k => Sys2Proof.Machine.execCopyComplete k s
  | .copysComplete k => Sys2Proof.Machine.execCopysComplete k s
  | .putPlacement k => Sys2Proof.Machine.execPutPlacement k s
  | .eapplyComplete k => Sys2Proof.Machine.execEapplyComplete k s
  | .gmcastComplete k => Sys2Proof.Machine.execGmcastComplete k s
  | .gredReduction die group => Sys2Proof.Machine.execGredReduction die group s
  | .allocServe k => Sys2Proof.Machine.execAllocServe k s
  | .freeEngine k => Sys2Proof.Machine.execFreeEngine k s
  | .tlbiComplete k => Sys2Proof.Machine.execTlbiComplete k s
  | .bloadComplete k => Sys2Proof.Machine.execBloadComplete k s
  | .commit die k => Sys2Proof.Machine.execCommit die k s
  | .sequencerTake cl => Sys2Proof.Machine.execSequencerTake cl s
  | .rowStep cl => Sys2Proof.Machine.execRowStep cl s
  | .barrierWatchdog die bar => Sys2Proof.Machine.execBarrierWatchdog die bar s
  | .launchBinding id => Sys2Proof.Machine.execLaunchBinding id s
  | .stageEnd id stage => Sys2Proof.Machine.execStageEnd id stage s
  | .launchDone id => Sys2Proof.Machine.execLaunchDone id s
  | .queueEntryTake die => Sys2Proof.Machine.execQueueEntryTake die s
  | .launchCommand die => Sys2Proof.Machine.execLaunchCommand die s
  | .waitCommand die => Sys2Proof.Machine.execWaitCommand die s
  | .signalCommand die => Sys2Proof.Machine.execSignalCommand die s
  | .copyCommand die => Sys2Proof.Machine.execCopyCommand die s
  | .nopCommand die => Sys2Proof.Machine.execNopCommand die s
  | .queueWaitMet die k => Sys2Proof.Machine.execQueueWaitMet die k s
  | .gangStopSaveDone ctx => Sys2Proof.Machine.execGangStopSaveDone ctx s
  | .recallDeadline frame => Sys2Proof.Machine.execRecallDeadline frame s
  | .revocationComplete frame => Sys2Proof.Machine.execRevocationComplete frame s
  | .linkTrainingDone link lanes => Sys2Proof.Machine.execLinkTrainingDone link lanes s
  | .laneLost link => Sys2Proof.Machine.execLaneLost link s
  | .linkFailure link => Sys2Proof.Machine.execLinkFailure link s
  | .linkRequest r => Sys2Proof.Machine.execLinkRequest r s
  | .linkResponse id status data => Sys2Proof.Machine.execLinkResponse id status data s
  | .linkTimeout id => Sys2Proof.Machine.execLinkTimeout id s
  | .packageReset => Sys2Proof.Machine.execPackageReset s
  | .functionReady f => Sys2Proof.Machine.execFunctionReady f s
  | .thermalTrip die => Sys2Proof.Machine.execThermalTrip die s
  | .spdmRequest r => Sys2Proof.Machine.execSpdmRequest r s

end Sys2Proof.Machine
end

