-- ==== Sys2Proof/Machine/Policy.lean ====
section
/-! DEFINITION. Which agent moves when the run supplies no move (log entry 3): the moves that wait to be made, in turn with
the threads that may issue (R69, R76, R109, R412, R414). -/

namespace Sys2Proof.Machine

/-! ## Who may move -/

/-- A die whose cores, sequencers and engines run (R410, R412, R414): its clusters have come up; the hub die always runs. -/
def State.dieRuns (s : State) (die : Nat) : Bool :=
  die == 4 || (s.boot.rdycore.getLsbD die && ((s.die die).regs.power == .p0 || (s.die die).regs.power == .p1))

/-- Whether a thread may issue (R69, R346, R400, R412). -/
def State.mayIssue (s : State) (k : Nat) : Bool :=
  let c := s.core (k / 8)
  (s.thread k).st == .runnable && !c.killed && !c.halted && s.dieRuns (dieOf (k / 8))

/-- Priority of a thread: its activation's class priority (R76). -/
def issuePrio (t : Thread) : Nat := match t.act with | some a => a.prio | none => 0

/-- Whether a RUNNABLE thread of the core has a higher priority: the core issues from that one (R76). A thread whose
instruction waits for an agent holds nobody back. -/
def State.outranked (s : State) (k : Nat) : Bool :=
  (List.range 8).any fun h =>
    let x := k / 8 * 8 + h
    s.mayIssue x && !s.run.stalled.contains x && decide (issuePrio (s.thread k) < issuePrio (s.thread x))

/-- Whether a RUNNABLE thread of the same priority comes before a thread in the core's round robin (R76). A thread whose
instruction waits for an agent holds nobody back. -/
def State.outOfTurn (s : State) (k : Nat) : Bool :=
  ((s.core (k / 8)).order.takeWhile (· != k % 8)).any fun h =>
    let x := k / 8 * 8 + h
    s.mayIssue x && !s.run.stalled.contains x && issuePrio (s.thread k) == issuePrio (s.thread x)

/-- The die on which an engine's thread is; 4 where there is no such engine. -/
def State.engineDie (s : State) (id : Nat) : Nat :=
  match s.engines.find? fun e => e.id == id with
  | some e => dieOf (e.thread / 8)
  | none => 4

/-- The die whose halt halts a move (R412, R414): cores, sequencers, engines and front ends stop with their die; homes,
L1s answering homes, the FCU, the links and bring-up go on. -/
def moverDie (s : State) : Instr → Nat
  | .resultWriteback t | .alignTimeout t => dieOf (t / 8)
  | .activationBind w | .interruptEntry w | .backgroundCleaner w _ => dieOf w
  | .copyComplete k | .copysComplete k | .putPlacement k | .eapplyComplete k | .gmcastComplete k | .allocServe k
  | .freeEngine k | .tlbiComplete k | .bloadComplete k => s.engineDie k
  | .gredReduction d _ | .commit d _ | .migrationLineCopy d | .barrierWatchdog d _ => d.toNat
  | .sequencerTake cl | .rowStep cl => cl / 256
  | .launchBinding id | .stageEnd id _ | .launchDone id => match s.launch? id with | some l => l.die | none => 4
  | .queueEntryTake d | .launchCommand d | .waitCommand d | .signalCommand d | .copyCommand d | .nopCommand d
  | .queueWaitMet d _ => d.toNat
  | .gangStopSaveDone ctx => match s.stopping.find? ctx.toNat with | some x => dieOf (x.thread / 8) | none => 4
  | _ => 4

/-- Whether a row of the table is a move of an agent of its own: not an instruction, and not what a CRW does in passing. -/
def agentMove : Instr → Bool
  | .resultWriteback _ | .alignTimeout _ | .messageArrival _ | .activationBind _ | .systemMessageDelivery _
  | .interruptEntry _ | .fillu _ | .fills _ | .upg _ | .getm _ | .ext _ | .regw _ | .rdh _ | .wrh _ | .atom _ | .wbs _
  | .wbo _ | .dereg _ | .leave _ | .l1Invalidation _ | .homeAcknowledgement _ | .forwardedAccess _
  | .backgroundCleaner _ _ | .pageWalk _ | .migrationLineCopy _ | .copyComplete _ | .copysComplete _ | .putPlacement _
  | .eapplyComplete _ | .gmcastComplete _ | .gredReduction _ _ | .allocServe _ | .freeEngine _ | .tlbiComplete _
  | .bloadComplete _ | .commit _ _ | .sequencerTake _ | .rowStep _ | .barrierWatchdog _ _ | .launchBinding _
  | .stageEnd _ _ | .launchDone _ | .queueEntryTake _ | .launchCommand _ | .waitCommand _ | .signalCommand _
  | .copyCommand _ | .nopCommand _ | .queueWaitMet _ _ | .gangStopSaveDone _ | .recallDeadline _ | .revocationComplete _
  | .linkTrainingDone _ _ | .laneLost _ | .linkFailure _ | .linkRequest _ | .linkResponse _ _ _ | .linkTimeout _
  | .packageReset | .functionReady _ | .thermalTrip _ | .spdmRequest _ => true
  | _ => false

/-! ## Moves that wait to be made -/

/-- A move: the die whose halt holds it back, 4 for none, and its meaning. -/
abbrev Move := Nat × (State → Host.Outcome State Fault Refusal)

/-- The event of a queued request at its home. -/
def reqEvent (k : Nat) : ReqKind → State → Host.Outcome State Fault Refusal
  | .fillu => execFillu k | .fills => execFills k | .upg => execUpg k | .getm => execGetm k | .ext => execExt k
  | .regw => execRegw k | .rdh => execRdh k | .wrh => execWrh k | .atom => execAtom k | .wbs => execWbs k
  | .wbo => execWbo k | .dereg => execDereg k | .leave => execLeave k

/-- The event that ends an engine's operation. -/
def engineEnd (e : Engine) : State → Host.Outcome State Fault Refusal :=
  match e.op with
  | .copy _ _ _ | .qcopy _ _ _ _ _ => execCopyComplete e.id
  | .copys _ _ => execCopysComplete e.id
  | .put _ _ _ _ _ _ => execPutPlacement e.id
  | .bload _ _ _ _ => execBloadComplete e.id
  | .eapply _ _ _ => execEapplyComplete e.id
  | .gmcast _ _ _ _ _ _ => execGmcastComplete e.id
  | .gadd die group => execGredReduction (BitVec.ofNat 2 die) (BitVec.ofNat 8 group)
  | .alloc _ _ => execAllocServe e.id
  | .free _ _ => execFreeEngine e.id
  | .tlbi _ _ _ _ => execTlbiComplete e.id

/-- Indexes of a list. -/
def indexes {α : Type} (l : List α) : List Nat := List.range l.length

/-- Moves of threads, messages and homes. -/
def coreMoves (s : State) : List Move :=
  (s.threads.filter fun t => !t.2.results.isEmpty).map (fun t => (dieOf (t.1 / 8), execResultWriteback t.1)) ++
  (indexes s.flights).map (fun k => (4, execMessageArrival k)) ++
  (indexes s.sysmsgs).map (fun k => (4, execSystemMessageDelivery k)) ++
  (s.cores.filter fun c => c.2.inbox.pending.any fun p =>
    (turnedAway s c.1 p).isSome || (bindable s c.1 p && (s.dormantThread c.1).isSome)).map
      (fun c => (dieOf c.1, execActivationBind c.1)) ++
  s.homes.reqs.zipIdx.map (fun r => (4, reqEvent r.2 r.1.kind)) ++
  (indexes s.homes.invals).map (fun k => (4, execL1Invalidation k)) ++
  (indexes s.homes.acks).map (fun k => (4, execHomeAcknowledgement k)) ++
  (indexes s.walks).map (fun k => (4, execPageWalk k))

/-- Moves of engines, groups, arbiters and sequencers. -/
def engineMoves (s : State) : List Move :=
  s.engines.map (fun e => (dieOf (e.thread / 8), engineEnd e)) ++
  s.dies.flatMap (fun d =>
    let n := BitVec.ofNat 2 d.1
    let here := fun (f : State → Host.Outcome State Fault Refusal) => (d.1, f)
    ((d.2.groups.filter fun g => !g.2.reds.isEmpty).map fun g => here (execGredReduction n (BitVec.ofNat 8 g.1))) ++
    ((indexes d.2.awaiting).map fun k => here (execCommit n k)) ++
    ((d.2.bars.filter fun b => b.2.st == .filling && b.2.paused.isNone && decide (b.2.deadline ≤ s.time)).map fun b =>
      here (execBarrierWatchdog n (BitVec.ofNat 9 b.1))) ++
    (if d.2.mig.st == .running then [here (execMigrationLineCopy n)] else [])) ++
  s.clusters.flatMap fun c =>
    match c.2.weave.queue with
    | [] => []
    | g :: _ => match g.st with
      | .queued => [(c.1 / 256, execSequencerTake c.1)]
      | .running => [(c.1 / 256, execRowStep c.1)]
      | .stopped => []

/-- The event of a command in hand (R326). -/
def commandMove (kind : Nat) (die : BitVec 2) : State → Host.Outcome State Fault Refusal :=
  match kind with
  | 1 => execLaunchCommand die
  | 2 => execWaitCommand die
  | 3 => execSignalCommand die
  | 4 => execCopyCommand die
  | _ => execNopCommand die

/-- Moves of front ends and contexts. -/
def frontMoves (s : State) : List Move :=
  s.launches.flatMap (fun l =>
    let here := fun (f : State → Host.Outcome State Fault Refusal) => (l.2.die, f)
    match l.2.st with
    | .queued | .binding | .releasing => [here (execLaunchBinding l.1)]
    | .running | .draining => ((indexes l.2.stages).map fun i => here (execStageEnd l.1 i)) ++ [here (execLaunchDone l.1)]
    | _ => []) ++
  s.dies.flatMap (fun d =>
    let n := BitVec.ofNat 2 d.1
    let here := fun (f : State → Host.Outcome State Fault Refusal) => (d.1, f)
    (if (queueOrder s d.1).isEmpty then [] else [here (execQueueEntryTake n)]) ++
    d.2.queues.flatMap fun q =>
      match q.2.st, q.2.inHand with
      | .active, some c => [here (commandMove c.kind n)]
      | .waiting, _ => [here (execQueueWaitMet n q.1)]
      | _, _ => []) ++
  s.stopping.map fun x => (dieOf (x.2.thread / 8), execGangStopSaveDone (BitVec.ofNat 16 x.1))

/-- Moves of the custody unit, the links and bring-up; training links come up on 8 lanes. -/
def unitMoves (s : State) : List Move :=
  s.fcu.records.flatMap (fun r =>
    match r.2.st with
    | .recalling => if r.2.deadline.toNat ≤ s.time then [(4, execRecallDeadline (BitVec.ofNat 24 r.1))] else []
    | .revoking => [(4, execRevocationComplete (BitVec.ofNat 24 r.1))]
    | _ => []) ++
  (s.links.waits.filter fun w => w.answer.isNone && decide (w.sent + 10 ^ 8 ≤ s.time)).map (fun w => (4, execLinkTimeout w.id)) ++
  ((List.range 36).filter fun l => s.link l == .training).map (fun l => (4, execLinkTrainingDone l 8)) ++
  (((List.range 9).map ReadyFn.core ++ (List.range 12).map ReadyFn.mem ++ (List.range 14).map ReadyFn.eng).filter
    (canRise s)).map fun f => (4, execFunctionReady f)

/-- Every move that waits to be made and that no halted die holds back. -/
def waitingMoves (s : State) : List Move :=
  (coreMoves s ++ engineMoves s ++ frontMoves s ++ unitMoves s).filter fun m => s.dieRuns m.1

/-! ## The default choice -/

/-- The thread of a core that issues next: the first in round-robin order of those that no other outranks (R76). -/
def nextOfCore (s : State) (who : Nat) : Option Nat :=
  ((s.core who).order.map fun h => who * 8 + h).find? fun k => s.mayIssue k && !s.outranked k

/-- The threads that the cores would issue from. -/
def issuers (s : State) : List Nat :=
  ((s.threads.filter fun t => s.mayIssue t.1).map fun t => t.1 / 8).eraseDups.filterMap (nextOfCore s)

/-- What the default choice names: a waiting move's meaning, or a thread that issues. -/
inductive Choice where
  | move (f : State → Host.Outcome State Fault Refusal)
  | thread (k : Nat)

/-- The choice made when the run supplies no move: waiting moves and issuing threads take turns, each in rotation. -/
def choice (s : State) : Option Choice :=
  let evs := waitingMoves s
  let ths := issuers s
  let n := s.run.clock / 2
  let ev := (evs[n % evs.length]?).map fun m => Choice.move m.2
  let th := (ths[n % ths.length]?).map Choice.thread
  if s.run.clock % 2 = 0 then ev.orElse fun _ => th else th.orElse fun _ => ev

end Sys2Proof.Machine
end

