-- ==== Sys2Proof/Machine/Issue.lean ====
section
/-! DEFINITION. What surrounds an instruction in a step: the passing of time, the thread that issues, checker mismatches, and
the placing of an instruction for a first step (R76, R109, R346, R395, R396). -/

namespace Sys2Proof.Machine

/-- The thread whose instruction is run. -/
def State.focus (s : State) (k : Nat) : State :=
  { s with run := { s.run with cur := k, stalled := s.run.stalled.filter (· != k) } }

/-- The rest of the run's moves. -/
def State.withAgenda (s : State) (l : List Act) : State := { s with run := { s.run with agenda := l } }

/-- TIME moves on by the run's next interval, 1 ns by default (log entry 5), and the model's clock by one. -/
def State.ticked (s : State) : State :=
  { s with
    time := s.time + s.run.lapse.headD 1
    run := { s.run with clock := s.run.clock + 1, lapse := s.run.lapse.tail } }

/-- TIME moves on; ALIGNs that it completes wake; error messages that can go are sent (R85, R281). -/
def State.settled (s : State) : State :=
  let s' := settleAligns s.ticked
  if s'.errmsgs.isEmpty then s'
  else match settleErrors s' with
    | .ok _ s'' => s''
    | .error _ s'' => s''

/-- A thread's turn passes to the core's other threads (R76). -/
def State.rotated (s : State) (k : Nat) : State :=
  let c := s.core (k / 8)
  s.setCore (k / 8) { c with order := c.order.erase (k % 8) ++ [k % 8] }

/-- A thread issues an instruction (R75, R396): its activation has started, and the retry mark of the instruction at its PC is
cleared. -/
def State.begun (s : State) (k : Nat) : State :=
  let t := s.thread k
  let marked := t.pipeMark == some t.pc.toNat
  s.setThread k { t with pipeMark := if marked then none else t.pipeMark, retry := t.retry && !marked, doing := none
                         act := t.act.map fun a => { a with started := true } }

/-- A thread whose instruction waits for an agent keeps the instruction, and issues it again as it was fetched (log entry
17). -/
def State.holding (s : State) (k : Nat) (i : Instr) : State :=
  if s.run.stalled.contains k then s.setThread k { s.thread k with doing := some i } else s

/-- The same for the outcome of an instruction. -/
def held (k : Nat) (i : Instr) : Host.Outcome State Fault Refusal → Host.Outcome State Fault Refusal
  | .next s => .next (s.holding k i)
  | r => r

/-- A checker mismatch that waits for a thread's next instruction (R395): unit and lane. -/
def State.mismatchOf (s : State) (k : Nat) : Option (Nat × Nat) := (s.run.pipe.find? fun p => p.1 == k).map (·.2)

/-- Removes the first mismatch that waits for a thread. -/
def State.mismatchDone (s : State) (k : Nat) : State :=
  match s.run.pipe.find? fun p => p.1 == k with
  | some p => { s with run := { s.run with pipe := s.run.pipe.erase p } }
  | none => s

/-- Whether an instruction's arithmetic is done by vector lanes (R395). -/
def onLanes : Instr → Bool
  | .vadd _ _ _ _ | .vsub _ _ _ _ | .vmul _ _ _ _ | .vmin _ _ _ _ | .vmax _ _ _ _ | .vminn _ _ _ _ | .vmaxn _ _ _ _
  | .vand _ _ _ _ | .vor _ _ _ _ | .vxor _ _ _ _ | .vsll _ _ _ _ | .vsrl _ _ _ _ | .vsra _ _ _ _ | .vcmpeq _ _ _ _
  | .vcmplt _ _ _ _ | .vcmpltn _ _ _ _ | .vfadd _ _ _ _ | .vfsub _ _ _ _ | .vfmul _ _ _ _ | .vffma _ _ _ _
  | .vfmin _ _ _ _ | .vfmax _ _ _ _ | .vfneg _ _ _ | .vfabs _ _ _ | .vfeq _ _ _ _ | .vflt _ _ _ _ | .vfle _ _ _ _
  | .vfdiv _ _ _ _ | .vexp2 _ _ _ | .vlog2 _ _ _ | .vrcp _ _ _ | .vrsqrt _ _ _ | .vbcast _ _ _ | .vext _ _ _
  | .vidx _ _ | .vsel _ _ _ _ | .vperm _ _ _ _ | .vcvtfi _ _ _ | .vcvtif _ _ _ | .vrsum _ _ _ | .vfrsum _ _ _
  | .vfrmax _ _ _ | .vld _ _ _ _ _ _ _ | .vst _ _ _ _ _ _ _ | .vlds _ _ _ _ _ _ _ | .vsts _ _ _ _ _ _ _
  | .vgath _ _ _ _ _ _ _ | .vscat _ _ _ _ _ _ | .vldl _ _ _ _ _ _ | .vstl _ _ _ _ _ _ => true
  | _ => false

/-- The instruction whose unit mismatches: of a REP its next instance, of a parcel the word that the dictionary gives. -/
def checkedInstr : Instr → M Instr
  | .rep n sd sa sb => do
    if n = 0 then return .rep n sd sa sb
    let u ← repUnit n sd sa sb (fmtP 0x16 n.toNat sd.toNat sa.toNat sb.toNat 0)
    match decodeWord (instanceWord u.word (strides sd sa sb) (← myThread).ctl.repcnt.toNat) 0 with
    | .ok j => return j
    | .error _ => return .rep n sd sa sb
  | .d16 i => do return (← dictInstr i (← myThread).pc false).2.1
  | i => return i

/-- A checker disagrees with its unit (R395, R396): PIPE, as REPX under a REP; a mismatch of the instruction that RESUME retries
kills the core. FINFO names the lane, 0 for a scalar unit. -/
def checkerTrap (k : Nat) (i : Instr) (unit lane : Nat) (s : State) : Host.Outcome State Fault Refusal :=
  let t := s.thread k
  let rep := match i with | .rep n _ _ _ => n != 0 | _ => false
  let count : M Unit := do
    modify fun s => s.mismatchDone k
    modDieRegs (dieOf (k / 8)) fun r => { r with errpipe := satInc64 r.errpipe }
  if t.retry && t.pipeMark == some t.pc.toNat then
    agentStep (do count; killCore (k / 8) Cause.pipe.code false) s
  else finish (do
    let vec := onLanes (← checkedInstr i)
    count
    throw (.trap { cause := if rep then .repx else .pipe, sub := if rep then Cause.pipe.code else unit % 5,
                   finfo := if vec then BitVec.ofNat 64 (lane % 256) else 0 })) s

/-- The state with bytes where thread 0 of core 0 fetches: the thread is RUNNABLE in KERNEL mode at address 0, untranslated,
and no other thread of the core comes before it; the memory, the clusters and the custody unit have come up, the frame is
the device side's; the next move is the thread's. -/
def State.placed (s : State) (bytes : List Byte) : State :=
  let t := s.thread 0
  let c := s.core 0
  let d := s.die 0
  let s := s.setCluster 0 { s.cluster 0 with code := (s.cluster 0).code.filter (·.pline != 0) }
  let s := s.setThread 0 { t with st := .runnable, pc := 0, rep := none, doing := none, waiting := none
                                  kern := { t.kern with kmode := true } }
  let s := s.setCore 0 { c with killed := false, halted := false, irqs := [], order := 0 :: c.order.erase 0
                                regs := { c.regs with kptroot := 0 } }
  let s := s.setDie 0 { d with regs := { d.regs with power := .p0 }, isolated := false }
  { s with
    mem := s.mem.setBytes 0 ((bytes ++ List.replicate 8 0).take 8)
    bad := s.bad.filter (· != 0)
    latent := s.latent.filter (· != 0)
    fcu := { s.fcu with records := s.fcu.records.put 0 { st := .owned, owner := some .device } }
    boot := { s.boot with rdymem := s.boot.rdymem ||| 1, rdycore := s.boot.rdycore ||| 0x101 }
    errmsgs := []
    run := { s.run with agenda := [.issue 0], pipe := [], stalled := s.run.stalled ++ (List.range 8).tail } }

end Sys2Proof.Machine
end

