-- ==== Sys2Proof/Machine/Step.lean ====
section
/-! DEFINITION. The step: time passes, then one agent moves (R76, R346, R395, R396; log entries 3 and 5). -/

namespace Sys2Proof.Machine

/-- What one thread's issue comes to: nothing where it is not the thread's turn (R76), an interrupt, a checker's trap, a fetch or
decode trap, or the instruction: the one that is under way, or the one at its PC. -/
def issue (k : Nat) (s : State) : Host.Outcome State Fault Refusal :=
  if !knownThread k then .fault .noSuchThread
  else
    let s := s.focus k
    if !s.mayIssue k || s.outranked k || s.outOfTurn k then .next s
    else
    let s := s.rotated k
    if k % 8 == 0 && s.interruptible (k / 8) then execInterruptEntry (k / 8) s
    else match (s.thread k).doing with
    | some i => held k i (exec i (s.begun k))
    | none =>
      match fetchDecode s with
      | .error e s' => finish (throw e) s'
      | .ok i s' =>
        match s'.mismatchOf k with
        | some (unit, lane) => checkerTrap k i unit lane s'
        | none => held k i (exec i (s'.begun k))

/-- One move of an agent. -/
def act (a : Act) (s : State) : Host.Outcome State Fault Refusal :=
  match a with
  | .issue k => issue k s
  | .upset u => agentStep (applyUpset u) s
  | .event i => if agentMove i && i.wf && s.dieRuns (moverDie s i) then exec i s else .next s

/-- One step: time passes, waits that it ends are ended, and the next move is made: the run's, or the default choice. -/
def step (s : State) : Host.Outcome State Fault Refusal :=
  let s := s.settled
  match s.run.agenda with
  | a :: rest => act a (s.withAgenda rest)
  | [] => match choice s with
    | some (.move f) => f s
    | some (.thread k) => issue k s
    | none => .next s

/-- The state with an instruction's bytes where the next step fetches: thread 0 of core 0, in KERNEL mode and untranslated,
is about to issue (log entry 8). -/
def State.withFetchWord (s : State) (nbits w : Nat) : State := s.placed (tableBytes nbits w)

end Sys2Proof.Machine
end

