-- ==== Sys2Proof/Safety.lean ====
section
/-! DEFINITION. What claims mean by a safe step and a canonical state. -/

namespace Sys2Proof.Machine

/-- The memory is in canonical form: addresses strictly rising, no byte listed that reads as an unlisted one. -/
def State.canonical (s : State) : Prop := Memory.wf s.mem = true

/-- The step stops for no reason: it answers a next state. -/
def safeStep (s : State) : Prop := ∃ t, step s = .next t

/-- A run of `n` steps that never stops. -/
def safeRun : Nat → State → Prop
  | 0, _ => True
  | n + 1, s => ∃ t, step s = .next t ∧ safeRun n t

end Sys2Proof.Machine
end

