-- ==== Sys2Proof/Certificates/Slice0/Obligations.lean ====
section
/-! DEFINITION. The statements. Helper definitions stand under `Sys2Proof.Claims`; each says in the words of the spec what a
state or a value is, and a statement is one `def Obligations.<Name> : Prop`. Throughout, the issuing thread of a state is
`cur s`, and `quiet s` says that no exception report is held back in it, as at the end of every instruction. -/

namespace Sys2Proof.Claims
open Sys2Proof.Machine

/-- The thread that issues. -/
def cur (s : State) : Thread := s.thread s.run.cur

/-- A register of the issuing thread that is not empty: an instruction may write it at once (R79). -/
abbrev free (s : State) (r : Reg) : Prop := (cur s).isEmpty r = false

/-- A register that an instruction of the access pipe (`p`) or the execute pipe can read: it is not empty, and its latest
result is not one of the other pipe, which may be outstanding still (R57, R78). -/
abbrev ready (p : Bool) (s : State) (r : Reg) : Prop := free s r ∧ (cur s).crosses p r = false

/-- A register that an instruction of the execute pipe can read. -/
abbrev full (s : State) (r : Reg) : Prop := ready false s r

/-- No exception report is held back. -/
abbrev quiet (s : State) : Prop := (cur s).fpx = none

/-- The value of a register of the issuing thread; g0 reads as zero. -/
def g (s : State) (r : Reg) : Word := (cur s).reg r

/-- A thread after a straight instruction: `v` in register `d` (nowhere, for g0), full, as a result of pipe `p` if there is
one, and the PC `len` bytes further on, modulo 2^52. -/
def wroteT (t : Thread) (p : Option Bool) (len : Nat) (d : Reg) (v : Word) : Thread :=
  let bit := (1 : BitVec 32) <<< d.toNat
  let mark := fun (q : Bool) (m : BitVec 32) =>
    if d = 0 then m else if p = some q then (m &&& ~~~bit) ||| bit else m &&& ~~~bit
  { t with
    g := if d = 0 then t.g else t.g.set d.toNat v
    empty := if d = 0 then t.empty else t.empty &&& ~~~bit
    fromAccess := mark true t.fromAccess
    fromExecute := mark false t.fromExecute
    pc := t.pc + BitVec.ofNat 52 len }

/-- The state that differs from `s` in the issuing thread alone, by a register that pipe `p` wrote and the PC. -/
def wroteBy (p : Bool) (s : State) (len : Nat) (d : Reg) (v : Word) : State :=
  s.setThread s.run.cur (wroteT (cur s) (some p) len d v)

/-- The same for an instruction of the execute pipe. -/
def wrote (s : State) (len : Nat) (d : Reg) (v : Word) : State := wroteBy false s len d v

/-- The state that differs from `s` in the issuing thread's PC alone. -/
def moved (s : State) (len : Nat) : State :=
  s.setThread s.run.cur { cur s with pc := (cur s).pc + BitVec.ofNat 52 len }

/-- 1 or 0. -/
def one (c : Prop) [Decidable c] : Word := if c then 1 else 0

/-- The state after a long-latency result (R78): the oracle's next number says whether it is written at once or stands
outstanding, its register empty, until a write-back. -/
def produced (s : State) (len : Nat) (d : Reg) (v : Word) : State :=
  let s' := { s with run := { s.run with oracle := s.run.oracle.tail } }
  if s.run.oracle.headD 0 % 2 = 1 then s'.setThread s.run.cur (wroteT (cur s) none len d v)
  else s'.setThread s.run.cur
    { cur s with
      empty := if d = 0 then (cur s).empty else (cur s).empty ||| ((1 : BitVec 32) <<< d.toNat)
      results := if d = 0 then (cur s).results else (cur s).results ++ [(d.toNat, v)]
      pc := (cur s).pc + BitVec.ofNat 52 len }

end Sys2Proof.Claims

open Sys2Proof Sys2Proof.Machine Sys2Proof.Claims

/-- R58, R96: what every integer instruction of major 0x01 but the divisions writes, in the pipe it issues to, and that it
writes nothing else. -/
def Sys2Proof.Claims.IntegerResults : Prop :=
  ∀ (s : State) (d a b : Reg) (p e f : Bool), quiet s → ready p s a → ready p s b → free s d →
    let x := g s a
    let y := g s b
    exec (.add p d a b e f) s = .next (wroteBy p s 4 d (BitVec.ofNat 64 (x.toNat + y.toNat))) ∧
    exec (.sub p d a b e f) s = .next (wroteBy p s 4 d (BitVec.ofInt 64 (x.toInt - y.toInt))) ∧
    exec (.and p d a b e f) s = .next (wroteBy p s 4 d (x &&& y)) ∧
    exec (.or p d a b e f) s = .next (wroteBy p s 4 d (x ||| y)) ∧
    exec (.xor p d a b e f) s = .next (wroteBy p s 4 d (x ^^^ y)) ∧
    exec (.andn p d a b e f) s = .next (wroteBy p s 4 d (x &&& ~~~y)) ∧
    exec (.sll p d a b e f) s = .next (wroteBy p s 4 d (BitVec.ofNat 64 (x.toNat * 2 ^ (y.toNat % 64)))) ∧
    exec (.srl p d a b e f) s = .next (wroteBy p s 4 d (BitVec.ofNat 64 (x.toNat / 2 ^ (y.toNat % 64)))) ∧
    exec (.sra p d a b e f) s = .next (wroteBy p s 4 d (BitVec.ofInt 64 (x.toInt.fdiv (2 ^ (y.toNat % 64))))) ∧
    exec (.padd p d a b e f) s = .next (wroteBy p s 4 d
      (BitVec.ofNat 64 (x.toNat / 2 ^ 52 * 2 ^ 52 + (x.toNat + y.toNat) % 2 ^ 52))) ∧
    exec (.fatset p d a b e f) s = .next (wroteBy p s 4 d
      (BitVec.ofNat 64 (y.toNat % 2 ^ 12 * 2 ^ 52 + x.toNat % 2 ^ 52))) ∧
    exec (.fatget p d a e) s = .next (wroteBy p s 4 d (BitVec.ofNat 64 (x.toNat / 2 ^ 52))) ∧
    (p = false →
     exec (.mul d a b e f) s = .next (wrote s 4 d (BitVec.ofNat 64 (x.toNat * y.toNat))) ∧
     exec (.mulh d a b e f) s = .next (wrote s 4 d (BitVec.ofInt 64 ((x.toInt * y.toInt).fdiv (2 ^ 64)))) ∧
     exec (.mulhn d a b e f) s = .next (wrote s 4 d (BitVec.ofNat 64 (x.toNat * y.toNat / 2 ^ 64))) ∧
     exec (.rol d a b e f) s =
       .next (wrote s 4 d (BitVec.ofNat 64 (x.toNat * 2 ^ (y.toNat % 64) + x.toNat / 2 ^ (64 - y.toNat % 64)))) ∧
     exec (.min d a b e f) s = .next (wrote s 4 d (BitVec.ofInt 64 (min x.toInt y.toInt))) ∧
     exec (.max d a b e f) s = .next (wrote s 4 d (BitVec.ofInt 64 (max x.toInt y.toInt))) ∧
     exec (.minn d a b e f) s = .next (wrote s 4 d (BitVec.ofNat 64 (min x.toNat y.toNat))) ∧
     exec (.maxn d a b e f) s = .next (wrote s 4 d (BitVec.ofNat 64 (max x.toNat y.toNat))) ∧
     exec (.slt d a b e f) s = .next (wrote s 4 d (one (x.toInt < y.toInt))) ∧
     exec (.sltn d a b e f) s = .next (wrote s 4 d (one (x.toNat < y.toNat))) ∧
     exec (.seq d a b e f) s = .next (wrote s 4 d (one (x = y))) ∧
     exec (.pdiff d a b e f) s = .next (wrote s 4 d
       (BitVec.ofInt 64 (Int.bmod ((x.toNat % 2 ^ 52 : Nat) - (y.toNat % 2 ^ 52 : Nat) : Int) (2 ^ 52)))) ∧
     (∃ n : Nat, exec (.clz d a e) s = .next (wrote s 4 d (BitVec.ofNat 64 n)) ∧ n ≤ 64 ∧ x.toNat < 2 ^ (64 - n) ∧
       (n < 64 → 2 ^ (63 - n) ≤ x.toNat)) ∧
     (∃ n : Nat, exec (.ctz d a e) s = .next (wrote s 4 d (BitVec.ofNat 64 n)) ∧ n ≤ 64 ∧ x.toNat % 2 ^ n = 0 ∧
       (n < 64 → x.toNat / 2 ^ n % 2 = 1)) ∧
     exec (.popc d a e) s =
       .next (wrote s 4 d (BitVec.ofNat 64 (((List.range 64).map fun i => x.toNat / 2 ^ i % 2).sum))))

/-- R22 and R96: the divisions at 64 bits, a zero divisor and the overflow case among them. -/
def Sys2Proof.Claims.DivisionResults : Prop :=
  ∀ (s : State) (d a b : Reg) (e f : Bool), quiet s → full s a → full s b → free s d →
    let x := g s a
    let y := g s b
    exec (.div d a b e f) s =
      .next (produced s 4 d (if y = 0 then BitVec.allOnes 64 else BitVec.ofInt 64 (x.toInt.tdiv y.toInt))) ∧
    exec (.divn d a b e f) s =
      .next (produced s 4 d (if y = 0 then BitVec.allOnes 64 else BitVec.ofNat 64 (x.toNat / y.toNat))) ∧
    exec (.rem d a b e f) s =
      .next (produced s 4 d (if y = 0 then x else BitVec.ofInt 64 (x.toInt - x.toInt.tdiv y.toInt * y.toInt))) ∧
    exec (.remn d a b e f) s =
      .next (produced s 4 d (if y = 0 then x else BitVec.ofNat 64 (x.toNat - x.toNat / y.toNat * y.toNat)))

/-- R21 and R97: the 32-bit instructions compute on the low words and sign-extend their result. -/
def Sys2Proof.Claims.WordResults : Prop :=
  ∀ (s : State) (d a b : Reg) (e f : Bool), quiet s → full s a → full s b → free s d →
    let x : BitVec 32 := (g s a).setWidth 32
    let y : BitVec 32 := (g s b).setWidth 32
    let sx := fun (v : BitVec 32) => BitVec.ofInt 64 v.toInt
    exec (.addw d a b e f) s = .next (wrote s 4 d (sx (BitVec.ofNat 32 (x.toNat + y.toNat)))) ∧
    exec (.subw d a b e f) s = .next (wrote s 4 d (sx (BitVec.ofInt 32 (x.toInt - y.toInt)))) ∧
    exec (.mulw d a b e f) s = .next (wrote s 4 d (sx (BitVec.ofNat 32 (x.toNat * y.toNat)))) ∧
    exec (.sllw d a b e f) s = .next (wrote s 4 d (sx (BitVec.ofNat 32 (x.toNat * 2 ^ (y.toNat % 32))))) ∧
    exec (.srlw d a b e f) s = .next (wrote s 4 d (sx (BitVec.ofNat 32 (x.toNat / 2 ^ (y.toNat % 32))))) ∧
    exec (.sraw d a b e f) s = .next (wrote s 4 d (sx (BitVec.ofInt 32 (x.toInt.fdiv (2 ^ (y.toNat % 32)))))) ∧
    exec (.divw d a b e f) s = .next (produced s 4 d
      (sx (if y = 0 then BitVec.allOnes 32 else BitVec.ofInt 32 (x.toInt.tdiv y.toInt)))) ∧
    exec (.divnw d a b e f) s = .next (produced s 4 d
      (sx (if y = 0 then BitVec.allOnes 32 else BitVec.ofNat 32 (x.toNat / y.toNat)))) ∧
    exec (.remw d a b e f) s = .next (produced s 4 d
      (sx (if y = 0 then x else BitVec.ofInt 32 (x.toInt - x.toInt.tdiv y.toInt * y.toInt)))) ∧
    exec (.remnw d a b e f) s = .next (produced s 4 d
      (sx (if y = 0 then x else BitVec.ofNat 32 (x.toNat - x.toNat / y.toNat * y.toNat))))

/-- R98, R99 and R100: what the immediate, PC-relative and literal integer instructions write. -/
def Obligations.ImmediateResults : Prop :=
  ∀ (s : State) (d a : Reg) (p e : Bool) (i : BitVec 14) (n : BitVec 6) (j : BitVec 21) (lit : BitVec 32),
    quiet s → ready p s a → free s d →
    let x := g s a
    exec (.addi p d a e i) s = .next (wroteBy p s 4 d (BitVec.ofInt 64 (x.toInt + i.toInt))) ∧
    exec (.andi p d a e i) s = .next (wroteBy p s 4 d (x &&& BitVec.ofNat 64 i.toNat)) ∧
    exec (.ori p d a e i) s = .next (wroteBy p s 4 d (x ||| BitVec.ofNat 64 i.toNat)) ∧
    exec (.xori p d a e i) s = .next (wroteBy p s 4 d (x ^^^ BitVec.ofNat 64 i.toNat)) ∧
    exec (.slli p d a e n) s = .next (wroteBy p s 4 d (BitVec.ofNat 64 (x.toNat * 2 ^ n.toNat))) ∧
    exec (.srli p d a e n) s = .next (wroteBy p s 4 d (BitVec.ofNat 64 (x.toNat / 2 ^ n.toNat))) ∧
    exec (.srai p d a e n) s = .next (wroteBy p s 4 d (BitVec.ofInt 64 (x.toInt.fdiv (2 ^ n.toNat)))) ∧
    exec (.roli p d a e n) s =
      .next (wroteBy p s 4 d (BitVec.ofNat 64 (x.toNat * 2 ^ n.toNat + x.toNat / 2 ^ (64 - n.toNat)))) ∧
    exec (.paddi p d a e i) s = .next (wroteBy p s 4 d
      (BitVec.ofNat 64 (x.toNat / 2 ^ 52 * 2 ^ 52 + (x.toNat + (BitVec.ofInt 64 i.toInt).toNat) % 2 ^ 52))) ∧
    (p = false →
     exec (.slti d a e i) s = .next (wrote s 4 d (one (x.toInt < i.toInt))) ∧
     exec (.sltni d a e i) s = .next (wrote s 4 d (one (x.toNat < (BitVec.ofInt 64 i.toInt).toNat))) ∧
     exec (.movi d j) s = .next (wrote s 4 d (BitVec.ofInt 64 j.toInt)) ∧
     exec (.adr d j) s = .next (wrote s 4 d
       (BitVec.ofNat 64 (BitVec.ofInt 52 ((cur s).pc.toNat + 2 * j.toInt)).toNat)) ∧
     exec (.movl d lit) s = .next (wrote s 8 d (BitVec.ofInt 64 lit.toInt)) ∧
     exec (.movlz d lit) s = .next (wrote s 8 d (BitVec.ofNat 64 lit.toNat)) ∧
     exec (.movlh d a e lit) s = .next (wrote s 8 d (BitVec.ofNat 64 (lit.toNat * 2 ^ 32 + x.toNat % 2 ^ 32))) ∧
     exec (.addl d a e lit) s = .next (wrote s 8 d (BitVec.ofInt 64 (x.toInt + lit.toInt))))


namespace Sys2Proof.Claims
open Sys2Proof.Machine

/-- The rounding mode and FTZ of FPC (R29). -/
def mode (s : State) : Ctrl := ⟨(cur s).ctl.fpc.toNat % 4, (cur s).ctl.fpc.getLsbD 2⟩

/-- The flags that FPC enables, in FPF bit order (R29, R30). -/
def enables (s : State) : Nat := (cur s).ctl.fpc.toNat / 16 % 32

/-- An FP64 operand is a whole register, an FP32 operand its bits 31:0 (R23). -/
def opnd (dbl : Bool) (x : Word) : Nat := if dbl then x.toNat else x.toNat % 2 ^ 32

/-- A word of the issuing core's constant bank (R62). -/
def bank (s : State) (k : BitVec 8) : Nat := ((s.core (s.run.cur / 8)).bank.get k.toNat 0).toNat

/-- What a scalar floating-point instruction comes to (R100 to R105): its length, its destination, and the result with the
flags it raises; `none` for every other instruction. The operations are those of R26 to R28 and R103 in the format that the
instruction selects, under the FPC that is sampled at issue (R31). -/
def fpOf (s : State) (i : Instr) : Option (Nat × Reg × Nat × Nat) :=
  let c := mode s
  let fm := fun (w : Bool) => if w then Fmt.fp64 else Fmt.fp32
  let two := fun (d a b : Reg) (w : Bool) (op : Fmt → Ctrl → Nat → Nat → Nat × Nat) =>
    some (4, d, op (fm w) c (opnd w (g s a)) (opnd w (g s b)))
  let cmp := fun (d a b : Reg) (w : Bool) (op : Fmt → Ctrl → Nat → Nat → Bool × Nat) =>
    let r := op (fm w) c (opnd w (g s a)) (opnd w (g s b))
    some (4, d, (if r.1 then 1 else 0), r.2)
  let lit := fun (len : Nat) (d a : Reg) (x : Nat) (op : Fmt → Ctrl → Nat → Nat → Nat × Nat) =>
    some (len, d, op .fp32 c (opnd false (g s a)) x)
  match i with
  | .fadd d a b _ _ w => two d a b w fAdd
  | .fsub d a b _ _ w => two d a b w fSub
  | .fmul d a b _ _ w => two d a b w fMul
  | .fdiv d a b _ _ w => two d a b w fDiv
  | .fmin d a b _ _ w => two d a b w fun f c => fMinMax f c false
  | .fmax d a b _ _ w => two d a b w fun f c => fMinMax f c true
  | .fsqrt d a _ w => some (4, d, fSqrt (fm w) c (opnd w (g s a)))
  | .fneg d a _ w => some (4, d, fSign (fm w) c false (opnd w (g s a)))
  | .fabs d a _ w => some (4, d, fSign (fm w) c true (opnd w (g s a)))
  | .fma d a b _ _ w => some (4, d, fFma (fm w) c (opnd w (g s a)) (opnd w (g s b)) (opnd w (g s d)))
  | .feq d a b _ _ w => cmp d a b w fEq
  | .flt d a b _ _ w => cmp d a b w fLt
  | .fle d a b _ _ w => cmp d a b w fLe
  | .fclass d a _ w => some (4, d, fClass (fm w) (opnd w (g s a)), 0)
  | .fcvti d a _ w => some (4, d, toInt 64 c.rm ((fm w).operand c.ftz (opnd w (g s a))))
  | .fcvtit d a _ w => some (4, d, toInt 64 1 ((fm w).operand c.ftz (opnd w (g s a))))
  | .fcvtf d a _ w => some (4, d, ofInt (fm w) c (g s a).toInt)
  | .fcvtp d a _ w =>
    some (4, d, if w then convert .fp32 .fp64 c (opnd false (g s a)) else convert .fp64 .fp32 c (opnd true (g s a)))
  | .fmovi d imm => some (4, d, imm.toNat * 2 ^ 12, 0)
  | .faddi d imm => lit 4 d d (imm.toNat * 2 ^ 12) fAdd
  | .fmuli d imm => lit 4 d d (imm.toNat * 2 ^ 12) fMul
  | .fmak d a k => lit 4 d a (bank s k) fun f c x y => fFma f c x y (opnd false (g s d))
  | .faddk d a k => lit 4 d a (bank s k) fAdd
  | .fmulk d a k => lit 4 d a (bank s k) fMul
  | .movk d k => some (4, d, bank s k, 0)
  | .fmal d a _ l => lit 8 d a l.toNat fun f c x y => fFma f c x y (opnd false (g s d))
  | .faddl d a _ l => lit 8 d a l.toNat fAdd
  | .fmull d a _ l => lit 8 d a l.toNat fMul
  | _ => none

/-- The registers that a scalar floating-point instruction reads. -/
def fpReads : Instr → List Reg
  | .fma d a b _ _ _ => [d, a, b]
  | .fadd _ a b _ _ _ | .fsub _ a b _ _ _ | .fmul _ a b _ _ _ | .fdiv _ a b _ _ _ | .fmin _ a b _ _ _
  | .fmax _ a b _ _ _ | .feq _ a b _ _ _ | .flt _ a b _ _ _ | .fle _ a b _ _ _ => [a, b]
  | .fmak d a _ | .fmal d a _ _ => [d, a]
  | .fsqrt _ a _ _ | .fneg _ a _ _ | .fabs _ a _ _ | .fclass _ a _ _ | .fcvti _ a _ _ | .fcvtit _ a _ _
  | .fcvtf _ a _ _ | .fcvtp _ a _ _ | .faddk _ a _ | .fmulk _ a _ | .faddl _ a _ _ | .fmull _ a _ _ => [a]
  | .faddi d _ | .fmuli d _ => [d]
  | _ => []

/-- The issuing thread after a floating-point instruction: the result written, its flags ORed into FPF, the PC moved on. -/
def fpWroteT (t : Thread) (len : Nat) (d : Reg) (r : Nat × Nat) : Thread :=
  { wroteT t (some false) len d (BitVec.ofNat 64 r.1) with ctl := { t.ctl with fpf := t.ctl.fpf ||| BitVec.ofNat 64 (r.2 % 64) } }

end Sys2Proof.Claims

/-- R30, R31, R57, R101 to R105: a scalar floating-point instruction that raises no enabled flag writes its result and sets
its flags in FPF, and changes nothing else. -/
def Obligations.FloatResults : Prop :=
  ∀ (s : State) (i : Instr) (len : Nat) (d : Reg) (r : Nat × Nat), fpOf s i = some (len, d, r) →
    (∀ q ∈ fpReads i, full s q) → free s d → quiet s → r.2 &&& enables s = 0 →
    exec i s = .next (s.setThread s.run.cur (fpWroteT (cur s) len d r))

/-- R33, R233 and R92: a scalar floating-point instruction of a thread whose traps do not enter the local vector raises an
enabled flag: it completes with its default result and its flags, records CAUSE 0x19 with the lowest enabled flag raised,
EPC the next instruction, FADDR its own address and FINFO the flags; it sends one message, and the thread parks with reason
FPX. -/
def Sys2Proof.Claims.FloatExceptionParks : Prop :=
  ∀ (s : State) (i : Instr) (len : Nat) (d : Reg) (r : Nat × Nat), fpOf s i = some (len, d, r) →
    (∀ q ∈ fpReads i, full s q) → free s d → quiet s → localVector s.run.cur (cur s) = false → r.2 &&& enables s ≠ 0 →
    ∃ t m, exec i s = .next t ∧ t.sysmsgs = s.sysmsgs ++ [m] ∧ m.src = s.run.cur / 8 ∧
      (∃ low : Nat, low < 5 ∧ (r.2 &&& enables s).testBit low = true ∧
        (∀ j, j < low → (r.2 &&& enables s).testBit j = false) ∧
        (cur t).ctl.cause = BitVec.ofNat 64 (0x19 + low * 2 ^ 8)) ∧
      (cur t).st = .parked .fpx ∧ (cur t).ctl.epc = (BitVec.setWidth 64 ((cur s).pc + BitVec.ofNat 52 len)) ∧
      (cur t).pc = (cur s).pc + BitVec.ofNat 52 len ∧ (cur t).ctl.faddr = BitVec.setWidth 64 (cur s).pc ∧
      (cur t).ctl.finfo = BitVec.ofNat 64 (r.2 % 32 + (r.2 &&& enables s) * 2 ^ 5) ∧
      (cur t).ctl.fpf = (cur s).ctl.fpf ||| BitVec.ofNat 64 (r.2 % 64) ∧
      (cur t).g = (wroteT (cur s) (some false) len d (BitVec.ofNat 64 r.1)).g ∧
      t.mem = s.mem ∧ t.cores = s.cores ∧ t.dies = s.dies

/-- R425 and R346: on a thread whose traps enter the local vector the instruction completes the same way and the thread then
enters the vector, with KEPC the next instruction; no message is sent. -/
def Sys2Proof.Claims.FloatExceptionEntersVector : Prop :=
  ∀ (s : State) (i : Instr) (len : Nat) (d : Reg) (r : Nat × Nat), fpOf s i = some (len, d, r) →
    (∀ q ∈ fpReads i, full s q) → free s d → quiet s → localVector s.run.cur (cur s) = true → r.2 &&& enables s ≠ 0 →
    (cur s).kern.kvec ≠ 0 → (cur s).kern.kvec.getLsbD 0 = false →
    ∃ t, exec i s = .next t ∧ t.sysmsgs = s.sysmsgs ∧ (cur t).ctl.cause.toNat % 256 = 0x19 ∧
      (cur t).pc = BitVec.setWidth 52 (cur s).kern.kvec ∧
      (cur t).kern.kepc = BitVec.setWidth 64 ((cur s).pc + BitVec.ofNat 52 len) ∧ (cur t).ctl.epc = (cur t).kern.kepc ∧
      (cur t).kern.kmode = true ∧ (cur t).kern.kstatus.getLsbD 0 = (cur s).kern.kmode ∧
      (cur t).kern.kstatus.getLsbD 1 = false ∧ (cur t).kern.kstatus.getLsbD 2 = (cur s).kern.kstatus.getLsbD 1 ∧
      (cur t).kern.kstatus.getLsbD 3 = false ∧
      (cur t).ctl.fpf = (cur s).ctl.fpf ||| BitVec.ofNat 64 (r.2 % 64) ∧
      (cur t).g = (wroteT (cur s) (some false) len d (BitVec.ofNat 64 r.1)).g


namespace Sys2Proof.Claims
open Sys2Proof.Machine

/-- An instruction is carried by an operation on a later state: where the operation completes with a value and a state in
which the same thread issues and nothing is held back, the instruction answers the next state that `next` names. -/
def carriedFrom {α : Type} (from' s : State) (i : Instr) (m : M α) (next : α → State → State) : Prop :=
  ∀ (a : α) (t : State), m from' = .ok a t → t.run.cur = s.run.cur → quiet t → exec i s = .next (next a t)

/-- An instruction is carried by an operation on the state it issues in. -/
def carried {α : Type} (s : State) (i : Instr) (m : M α) (next : α → State → State) : Prop := carriedFrom s s i m next

/-- The state that differs from `s` in the issuing thread's PC alone. -/
def jumped (s : State) (pc : BitVec 52) : State := s.setThread s.run.cur { cur s with pc := pc }

/-- A branch or jump target: `n` parcels from the instruction, modulo 2^52 (R54, R106, R107). -/
def target (s : State) (n : Int) : BitVec 52 := BitVec.ofInt 52 ((cur s).pc.toNat + 2 * n)

/-- The conditions of R59: LTN and GEN compare unsigned. -/
def holds (c : Cond) (x y : Word) : Prop :=
  match c with
  | .eq => x = y | .ne => x ≠ y | .lt => x.toInt < y.toInt | .ge => y.toInt ≤ x.toInt
  | .ltn => x.toNat < y.toNat | .gen => y.toNat ≤ x.toNat

/-- The address of the next instruction as a register value (R107). -/
def link (s : State) (len : Nat) : Word := BitVec.setWidth 64 ((cur s).pc + BitVec.ofNat 52 len)

/-- The state after a call: the link in `d`, the PC at the target. -/
def called (t : State) (d : Reg) (l : Word) (pc : BitVec 52) : State :=
  t.setThread t.run.cur { wroteT (cur t) (some false) 0 d l with pc := pc }

/-- The lists of the issuing thread's cluster. -/
def cluster (s : State) : Cluster := s.cluster (s.run.cur / 8 / 8)

/-- The low `n` bytes of a register, lowest first. -/
def lowBytes (n : Nat) (x : Word) : List Byte := (List.range n).map fun i => BitVec.ofNat 8 (x.toNat / 2 ^ (8 * i))

/-- The issuing thread after a trap that takes the path of R92: its outstanding results are written, the trap registers hold
the cause, its own address, and the two words, and it is TRAPPED. -/
def trappedT (t : Thread) (cause : Nat) (faddr finfo : Word) : Thread :=
  { t.settle with
    st := .trapped
    rep := none
    fpx := none
    pipeMark := none
    retry := false
    doing := none
    ctl := { t.ctl with cause := BitVec.ofNat 64 cause, epc := BitVec.setWidth 64 t.pc, faddr := faddr, finfo := finfo } }

/-- The state after such a trap: the thread, and one message of 32 bytes to class 15 of the die's device kernel. -/
def trapped (s : State) (cause : Nat) (faddr finfo : Word) : State :=
  let k := s.run.cur
  let payload := lowBytes 2 (BitVec.ofNat 64 (k / 8)) ++ lowBytes 1 (BitVec.ofNat 64 (k % 8)) ++ [0] ++
    lowBytes 2 (BitVec.ofNat 64 (cur s).kern.ctxid.toNat) ++ lowBytes 2 (BitVec.ofNat 64 cause) ++
    lowBytes 8 (BitVec.setWidth 64 (cur s).pc) ++ lowBytes 8 faddr ++ lowBytes 8 finfo
  let t := s.setThread k (trappedT (cur s) cause faddr finfo)
  { t with sysmsgs := t.sysmsgs ++ [{ src := k / 8, dst := dieOf (k / 8) * 2048, pool := 15, cls := 15, place := none,
                                      header := 0, bytes := payload, origin := .core (k / 8) }] }

/-- The issuing thread after an entry at the local vector (R346). -/
def vectoredT (t : Thread) (cause : Nat) (faddr finfo : Word) : Thread :=
  { t.settle with
    pc := BitVec.setWidth 52 t.kern.kvec
    rep := none
    fpx := none
    pipeMark := none
    retry := false
    doing := none
    ctl := { t.ctl with cause := BitVec.ofNat 64 cause, epc := BitVec.setWidth 64 t.pc, faddr := faddr, finfo := finfo }
    kern := { t.kern with
      kepc := BitVec.setWidth 64 t.pc
      kmode := true
      kstatus := BitVec.ofNat 4 ((if t.kern.kmode then 1 else 0) + (if t.kern.kstatus.getLsbD 1 then 4 else 0)) } }

/-- An instruction raises a trap (R92, R346): by the thread's mode and core it is TRAPPED with one message sent, or it enters
the local vector; nothing else changes. -/
def raises (s : State) (i : Instr) (cause : Nat) (faddr finfo : Word) : Prop :=
  s.allocating s.run.cur = false →
    (localVector s.run.cur (cur s) = false → exec i s = .next (trapped s cause faddr finfo)) ∧
    (localVector s.run.cur (cur s) = true → (cur s).kern.kvec ≠ 0 → (cur s).kern.kvec.getLsbD 0 = false →
      exec i s = .next (s.setThread s.run.cur (vectoredT (cur s) cause faddr finfo)))

/-- A thread of the package that no launch has started (R407, R408). -/
def fresh (k : Nat) : Thread := Thread.fresh k

/-- Reduces a bit vector's signed or unsigned reading of a loaded number to a register (R59, R122). -/
def extended (w : LoadWidth) (x : Nat) : Word :=
  match w with
  | .s8 => BitVec.ofInt 64 (Int.bmod x (2 ^ 8))
  | .s16 => BitVec.ofInt 64 (Int.bmod x (2 ^ 16))
  | .s32 => BitVec.ofInt 64 (Int.bmod x (2 ^ 32))
  | _ => BitVec.ofNat 64 x

end Sys2Proof.Claims

/-- R54, R57, R59, R106, R107: branches and jumps set the PC, modulo 2^52, and change nothing else; a branch whose source is
empty parks its thread; JR to an odd address raises MISALIGN with FADDR the target.
Where it rests on the model's own choices: that `a` is the one reported where both sources are empty is log entry 40. -/
def Obligations.JumpResults : Prop :=
  ∀ (s : State) (a b : Reg) (e : Bool) (c : Cond) (o : BitVec 13) (j : BitVec 21), quiet s →
    (full s a → full s b → holds c (g s a) (g s b) → exec (.br a b c o) s = .next (jumped s (target s o.toInt))) ∧
    (full s a → full s b → ¬ holds c (g s a) (g s b) → exec (.br a b c o) s = .next (jumped s ((cur s).pc + 4))) ∧
    (¬ free s a → exec (.br a b c o) s = .next (s.setThread s.run.cur { cur s with st := .parked (.empty a.toNat) })) ∧
    (full s a → ¬ free s b →
      exec (.br a b c o) s = .next (s.setThread s.run.cur { cur s with st := .parked (.empty b.toNat) })) ∧
    exec (.j j) s = .next (jumped s (target s j.toInt)) ∧
    (full s a → (g s a).getLsbD 0 = false → exec (.jr a e) s = .next (jumped s (BitVec.ofNat 52 (g s a).toNat))) ∧
    (full s a → (g s a).getLsbD 0 = true →
      raises s (.jr a e) 0x04 (BitVec.ofNat 64 ((g s a).toNat % 2 ^ 52)) 0)

/-- R86 and R107: a call on a return stack with fewer than 8 entries on chip puts the link on top, writes it to the
destination and jumps; a full stack spills its oldest entry first. -/
def Sys2Proof.Claims.CallResults : Prop :=
  ∀ (s : State) (d a : Reg) (e : Bool) (j : BitVec 21), quiet s → full s a → free s d →
    let l := link s 4
    let pushed := fun (x : Word) => s.setThread s.run.cur { cur s with rstack := x :: (cur s).rstack }
    ((cur s).rstack.length < 8 → exec (.jal d j) s = .next (called (pushed l) d l (target s j.toInt))) ∧
    ((cur s).rstack.length < 8 → (g s a).getLsbD 0 = false →
      exec (.jalr d a e) s = .next (called (pushed l) d l (BitVec.ofNat 52 (g s a).toNat))) ∧
    carried s (.jal d j) (push l) (fun _ t => called t d l (target s j.toInt)) ∧
    ((g s a).getLsbD 0 = false →
      carried s (.jalr d a e) (push l) (fun _ t => called t d l (BitVec.ofNat 52 (g s a).toNat)))

/-- R86: the push onto a full stack stores the oldest entry at RSPTR − 8, moves RSPTR down and counts a spill. -/
def Sys2Proof.Claims.PushSpillsOldest : Prop :=
  ∀ (s t : State) (x old : Word) (rest : List Word), (cur s).rstack = rest ++ [old] → rest.length = 7 →
    (cur s).ctl.rsptr.toNat % 8 = 0 →
    spillStore ((cur s).ctl.rsptr - 8).toNat old s = .ok () t → t.run.cur = s.run.cur →
    (cur t).rstack = (cur s).rstack → (cur t).ctl = (cur s).ctl →
    push x s = .ok () (t.setThread t.run.cur { cur t with
      rstack := x :: rest
      ctl := { (cur t).ctl with rsptr := (cur s).ctl.rsptr - 8, spilled := (cur s).ctl.spilled + 1 } })

/-- R183, R184, R185 and R193: a collecting call makes a new ACTIVE list under the lowest free descriptor, pushes the link
with C = 1, writes the link and jumps; EDEPTH rises by one. -/
def Sys2Proof.Claims.CollectingCallResults : Prop :=
  ∀ (s : State) (d a : Reg) (e : Bool) (j : BitVec 21) (n : Nat), quiet s → full s a → free s d →
    isHub (s.run.cur / 8) = false → (cur s).lists.length < 4 → (cur s).rstack.length < 8 →
    n < 256 → (cluster s).list? n = none → (∀ m, m < n → ((cluster s).list? m).isSome = true) →
    let entered := fun (t : State) (pc : BitVec 52) =>
      (cur t).pc = pc ∧ (cur t).rstack = (2 ^ 63 + link s 4) :: (cur s).rstack ∧ (cur t).lists = (cur s).lists ++ [n] ∧
      (cur t).reg d = (if d = 0 then 0 else link s 4) ∧ (∀ q, q ≠ d → (cur t).reg q = g s q) ∧
      (cluster t).list? n = some { owner := s.run.cur / 8, maker := some s.run.cur, ctx := (cur s).kern.ctxid.toNat } ∧
      (∀ m, m ≠ n → (cluster t).list? m = (cluster s).list? m) ∧ t.mem = s.mem ∧ t.cores = s.cores
    (∃ t, exec (.callc d j) s = .next t ∧ entered t (target s j.toInt)) ∧
    ((g s a).getLsbD 0 = false →
      ∃ t, exec (.callcr d a e) s = .next t ∧ entered t (BitVec.ofNat 52 (g s a).toNat))

/-- R86 and R108: RET takes the top entry and jumps to its bits 51:0; with nothing on chip it fills one from RSPTR first;
with C = 1 it closes the innermost list and writes its handle to g3; with nothing left it is ENDACT. -/
def Obligations.ReturnResults : Prop :=
  ∀ (s : State) (x : Word) (rest : List Word), quiet s →
    let popped := s.setThread s.run.cur { cur s with rstack := rest }
    ((cur s).rstack = x :: rest → x.getLsbD 63 = false → exec .ret s = .next (jumped popped (BitVec.setWidth 52 x))) ∧
    ((cur s).rstack = x :: rest → x.getLsbD 63 = true → free s 3 → ∀ (ds : List Nat) (n : Nat) (l : EList),
      (cur s).lists = ds ++ [n] → (cluster s).list? n = some l →
      ∃ t, exec .ret s = .next t ∧ (cur t).pc = BitVec.setWidth 52 x ∧ (cur t).rstack = rest ∧ (cur t).lists = ds ∧
        (cluster t).list? n = some { l with st := .closed } ∧
        (cur t).reg 3 = BitVec.ofNat 64 (n + ((cluster s).descrs.get n {}).gen * 2 ^ 16 + s.run.cur / 64 * 2 ^ 32) ∧
        (∀ q, q ≠ 3 → (cur t).reg q = g s q) ∧ t.mem = s.mem) ∧
    ((cur s).rstack = [] → (cur s).ctl.spilled = 0 → exec .ret s = exec .endact s) ∧
    ((cur s).rstack = [] → (cur s).ctl.spilled ≠ 0 → ∀ t, fillLoad (cur s).ctl.rsptr.toNat s = .ok x t →
      t.run.cur = s.run.cur → quiet t → x.toNat / 2 ^ 52 = 0 → x.getLsbD 0 = false →
      exec .ret s = .next (jumped (t.setThread t.run.cur { cur t with ctl := { (cur t).ctl with
        rsptr := (cur t).ctl.rsptr + 8, spilled := (cur t).ctl.spilled - 1 } }) (BitVec.setWidth 52 x)))

/-- R85, R109, R110 and R321: ALIGN completes where its condition holds or its park has ended, and otherwise parks; YIELD
moves its thread to the back of the round robin; ENDACT makes its thread DORMANT with its registers discarded; TRIGGER
counts towards its launch after a release at PACKAGE scope.
Where it rests on the model's own choices: log entries 27 and 48. -/
def Obligations.ActivationControl : Prop :=
  ∀ (s : State), quiet s →
    let k := s.run.cur
    ((cur s).alignAt = none → alignMet s k = true → exec .align s = .next (moved s 4)) ∧
    ((cur s).alignAt.isSome → exec .align s =
      .next (s.setThread k { cur s with alignAt := none, pc := (cur s).pc + 4 })) ∧
    ((cur s).alignAt = none → alignMet s k = false → exec .align s =
      .next (s.setThread k { cur s with alignAt := some s.time, st := .parked (.align s.time) })) ∧
    exec .yield s = .next (moved (s.setCore (k / 8)
      { s.core (k / 8) with order := (s.core (k / 8)).order.filter (· != k % 8) ++ [k % 8] }) 4) ∧
    (∀ s1 s2, (cur s).lists = [] → s.allocating k = false → modThread k Thread.settle s = .ok () s1 →
      release k .package s1 = .ok () s2 → s2.run.cur = k →
      ∃ t, exec .endact s = .next t ∧ (cur t).st = .dormant ∧ (∀ q, (cur t).reg q = 0) ∧ (cur t).rstack = [] ∧
        (cur t).act = none ∧ (cur t).lists = [] ∧ (cur t).ctl.fpc = 0 ∧ (cur t).ctl.fpf = 0 ∧ t.mem = s2.mem) ∧
    ((cur s).lists = [] → carried s .trigger (release k .package) fun _ t =>
      moved (match t.launchOf (k / 8) with
        | none => t
        | some id => (match t.launches.find? id with
          | none => t
          | some l => { t with launches := t.launches.put id { l with triggers := l.triggers + 1 } })) 4)


namespace Sys2Proof.Claims
open Sys2Proof.Machine

/-- Address of the M format: base plus offset times width, modulo 2^52 (R54, R122). -/
def mAddr (base : Word) (o : BitVec 9) (n : Nat) : Nat := ((base.toNat + o.toInt * n) % (2 ^ 52 : Int)).toNat

/-- The place of `n` bytes at a local-window address of the issuing thread, with its region (R115, R116). -/
def localPlace (s : State) (va n : Nat) (store : Bool) : Option (Nat × Nat) :=
  if isLocal va then
    match localAt (s.core (s.run.cur / 8)).regs (s.run.cur / 8) (cur s).vec va n store with
    | .ok l => some (l.place, l.region)
    | .error _ => none
  else none

/-- No word of the range is uncorrectable (R399). -/
def sound (s : State) (place n : Nat) : Prop :=
  ∀ w, place / 8 ≤ w → w ≤ (place + n - 1) / 8 → w ∉ s.badLocal ∧ w ∉ s.latentLocal

/-- No request of the issuing thread to another device is outstanding. -/
abbrev noRemote (s : State) : Prop := ∀ w ∈ s.links.waits, w.thread = s.run.cur → w.posted = true

/-- The state after bytes are stored at a place: memory changes there alone, and a thread whose WAITC object shares a byte
with them wakes (R137). -/
def stored (s : State) (place : Nat) (bs : List Byte) : State :=
  { s with
    mem := s.mem.setBytes place bs
    threads := s.threads.map fun kt => (kt.1, kt.2.wakeIf (waitsOn place bs.length)) }

/-- The number that bytes hold, lowest first. -/
def number (bs : List Byte) : Nat := (bs.zipIdx.map fun p => p.1.toNat * 2 ^ (8 * p.2)).sum

/-- The new value of an atomic at `8 * n` bits, by its operation number (R128, R129): `b` the operand, `b1` the new value of
a compare-and-swap. -/
def atomicValue (op n old b b1 : Nat) : Nat :=
  let sg := fun (x : Nat) => Int.bmod x (2 ^ (8 * n))
  match op with
  | 0 => (old + b) % 2 ^ (8 * n)
  | 1 => old &&& b
  | 2 => old ||| b
  | 3 => old ^^^ b
  | 4 => if sg b < sg old then b else old
  | 5 => if sg old < sg b then b else old
  | 6 => Nat.min old b
  | 7 => Nat.max old b
  | 8 => b
  | 9 => if old = b then b1 else old
  | _ => (fAdd .fp32 ⟨0, false⟩ old b).1

/-- An atomic instruction by its operation number (R128, R129). -/
def atomicInstr (op : Nat) (d a b : Reg) (e f w : Bool) (o : AtomicOrder) : Instr :=
  match op with
  | 0 => .aadd d a b e f w o | 1 => .aand d a b e f w o | 2 => .aor d a b e f w o | 3 => .axor d a b e f w o
  | 4 => .amin d a b e f w o | 5 => .amax d a b e f w o | 6 => .aminn d a b e f w o | 7 => .amaxn d a b e f w o
  | 8 => .aswap d a b e f w o | 9 => .acas d a b e f w o | _ => .afadd d a b e f o

/-- Whether an atomic's ordering has a release part (R128). -/
def releases : AtomicOrder → Bool
  | .rel | .ar => true | _ => false

/-- Whether an atomic's ordering has an acquire part (R128). -/
def acquires : AtomicOrder → Bool
  | .acq | .ar => true | _ => false

/-- The scope of a region of the local window (R127). -/
def regionScopeOf (region : Nat) : Scope := if region = 0 ∨ region = 4 then .core else if region = 3 then .die else .cluster

end Sys2Proof.Claims

/-- R57, R59, R78, R116, R122, R125 to R127: what a load of the local window gives, under every policy, in and out of
collecting mode: the bytes of its place, lowest first, extended by its width; and it changes nothing else.
Where it rests on the model's own choices: log entry 9. -/
def Sys2Proof.Claims.LocalLoads : Prop :=
  ∀ (s : State) (d a b : Reg) (p e f : Bool) (l : Policy) (w : LoadWidth) (o : BitVec 9) (place region : Nat),
    quiet s → ready p s a → ready p s b → free s d → noRemote s → sound s place w.bytes →
    let v := extended w (number (s.mem.bytes place w.bytes))
    let at' := fun (va : Nat) => va % w.bytes = 0 ∧ localPlace s va w.bytes false = some (place, region)
    (at' (mAddr (g s a) o w.bytes) → exec (.ld p d a l w e o) s = .next (produced s.askAgain 4 d v)) ∧
    (at' (((g s a).toNat + (g s b).toNat) % 2 ^ 52) → exec (.ldx p d a b e f l w) s = .next (produced s.askAgain 4 d v)) ∧
    (at' ((g s a).toNat % 2 ^ 52) → ∀ t, acquire s.run.cur (regionScopeOf region) s.askAgain = .ok () t → t.run.cur = s.run.cur →
      quiet t → noRemote t → exec (.ldacq p d a e l w) s = .next (produced t 4 d v))

/-- R57, R116, R122, R125 to R127: what a store to the local window does outside collecting mode: the low bytes of the data
register go to its place, and nothing else changes but the threads they wake. -/
def Sys2Proof.Claims.LocalStores : Prop :=
  ∀ (s : State) (d a b : Reg) (p e f : Bool) (l : Policy) (w : StoreWidth) (o : BitVec 9) (place region : Nat),
    quiet s → ready p s a → ready p s b → ready p s d → noRemote s → (cur s).lists = [] →
    let at' := fun (va : Nat) => va % w.bytes = 0 ∧ localPlace s va w.bytes true = some (place, region)
    (at' (mAddr (g s a) o w.bytes) →
      exec (.st p d a l w e o) s = .next (moved (stored s.askAgain place (lowBytes w.bytes (g s d))) 4)) ∧
    (at' (((g s a).toNat + (g s b).toNat) % 2 ^ 52) →
      exec (.stx p d a b e f l w) s = .next (moved (stored s.askAgain place (lowBytes w.bytes (g s d))) 4)) ∧
    (at' ((g s a).toNat % 2 ^ 52) → ∀ t, release s.run.cur (regionScopeOf region) s.askAgain = .ok () t → t.run.cur = s.run.cur →
      quiet t → noRemote t →
      exec (.strel p a b e f l w) s = .next (moved (stored t place (lowBytes w.bytes (g s b))) 4))

/-- R78, R128 and R129: what every atomic does to a word or doubleword of the local window outside collecting mode: it
answers the old value and stores the new one; its release comes before and its acquire after. -/
def Sys2Proof.Claims.LocalAtomics : Prop :=
  ∀ (s s1 t : State) (op : Nat) (d a b : Reg) (e f w : Bool) (o : AtomicOrder) (place region : Nat), op ≤ 10 →
    quiet s → full s a → full s b → free s d → (op = 9 → b ≠ 31 ∧ full s (b + 1)) → (op = 10 → w = false) →
    (cur s).lists = [] →
    let n := if w then 8 else 4
    (g s a).toNat % n = 0 → localPlace s ((g s a).toNat % 2 ^ 52) n true = some (place, region) →
    (if releases o then release s.run.cur (regionScopeOf region) else pure ()) s.askAgain = .ok () s1 → sound s1 place n →
    let old := number (s1.mem.bytes place n)
    let new := atomicValue op n old ((g s b).toNat % 2 ^ (8 * n)) ((g s (b + 1)).toNat % 2 ^ (8 * n))
    (if acquires o then acquire s.run.cur (regionScopeOf region) else pure ())
      (stored s1 place (lowBytes n (BitVec.ofNat 64 new))) = .ok () t →
    t.run.cur = s.run.cur → quiet t → noRemote t →
    exec (atomicInstr op d a b e f w o) s = .next (produced t 4 d (BitVec.ofNat 64 old))

/-- R122 to R128, R78: every load, store and atomic, at any address, in and out of collecting mode, is carried by the access
of its bytes: a load and an atomic give their result to the destination as a long-latency one, a store none.
Where it rests on the model's own choices: log entries 9, 10 and 20. -/
def Obligations.AccessesAreCarried : Prop :=
  ∀ (s : State) (d a b : Reg) (p e f w8 : Bool) (l : Policy) (w : LoadWidth) (w' : StoreWidth) (o : BitVec 9)
    (ord : AtomicOrder), quiet s → ready p s a → ready p s b → free s d →
    let k := s.run.cur
    let gave := fun (v : Word) (t : State) => produced (t.dropWaits k) 4 d v
    let n := w.bytes
    let fl := fun (acq : Bool) => accessInfo w.code false false l.code acq false
    let fs := fun (rel : Bool) => accessInfo w'.code true false l.code false rel
    carriedFrom s.askAgain s (.ld p d a l w e o) (loadScalar (mAddr (g s a) o n) n l false (fl false))
      (fun r t => gave (extended w r.1) t) ∧
    carriedFrom s.askAgain s (.ldx p d a b e f l w) (loadScalar (((g s a).toNat + (g s b).toNat) % 2 ^ 52) n l false (fl false))
      (fun r t => gave (extended w r.1) t) ∧
    carriedFrom s.askAgain s (.ldacq p d a e l w) (do
        let r ← loadScalar ((g s a).toNat % 2 ^ 52) n l true (fl true)
        acquire (← me) r.2.scope
        return r.1) (fun x t => gave (extended w x) t) ∧
    (ready p s d → carriedFrom s.askAgain s (.st p d a l w' e o)
      (storeScalar (mAddr (g s a) o w'.bytes) w'.bytes l (g s d).toNat false (fs false))
      (fun _ t => moved (t.dropWaits k) 4)) ∧
    (ready p s d → carriedFrom s.askAgain s (.stx p d a b e f l w')
      (storeScalar (((g s a).toNat + (g s b).toNat) % 2 ^ 52) w'.bytes l (g s d).toNat false (fs false))
      (fun _ t => moved (t.dropWaits k) 4)) ∧
    carriedFrom s.askAgain s (.strel p a b e f l w')
      (storeScalar ((g s a).toNat % 2 ^ 52) w'.bytes l (g s b).toNat true (fs true))
      (fun _ t => moved (t.dropWaits k) 4) ∧
    (∀ op, p = false → op ≤ 10 → (op = 9 → full s (b + 1)) → (op = 10 → w8 = false) →
      carriedFrom s.askAgain s (atomicInstr op d a b e f w8 ord)
        (Machine.atomic ((g s a).toNat % 2 ^ 52) ⟨op, w8, g s b, if op = 9 then g s (b + 1) else 0⟩ ord)
        (fun old t => gave (BitVec.ofNat 64 old) t))

/-- R120, R140 and R149: a SELF load that hits in the core's L1 takes its bytes from the line, without translation, and a
SELF store that hits writes them there and marks them dirty: no byte of memory changes. A load that meets a store of its own
core that still waits at home takes the same bytes.
Where it rests on the model's own choices: log entry 9. -/
def Obligations.SelfHitsStayInL1 : Prop :=
  ∀ (s : State) (d a : Reg) (p e : Bool) (w : LoadWidth) (w' : StoreWidth) (o : BitVec 9) (l : L1Line) (pline : Nat),
    quiet s → ready p s a → noRemote s → (cur s).lists = [] → l.home = .here pline →
    let v := viewOf s.run.cur (cur s)
    let hits := fun (va n : Nat) => va % n = 0 ∧ isLocal va = false ∧
      (s.core (s.run.cur / 8)).line? (va / 64) v.space = some l ∧ byteMask (va % 64) n &&& ~~~l.valid = 0 ∧
      (v.user = true → l.k = false) ∧ s.cutOff (s.run.cur / 8) (homeDie pline) = false
    (free s d → hits (mAddr (g s a) o w.bytes) w.bytes →
      let va := mAddr (g s a) o w.bytes
      let t := produced s.askAgain 4 d (extended w (lineNat l.data (va % 64) w.bytes))
      let queued := s.waiting fun r => r.issued && r.src.who == s.run.cur / 8 && r.pline == s.redirect pline &&
        (r.stores &&& byteMask (va % 64) w.bytes) != 0
      (queued = [] → exec (.ld p d a .self w e o) s = .next t) ∧
      (∃ u, exec (.ld p d a .self w e o) s = .next u ∧ cur u = cur t ∧ u.mem = s.mem ∧ u.cores = s.cores)) ∧
    (ready p s d → hits (mAddr (g s a) o w'.bytes) w'.bytes → l.w = true →
      s.pinnedBytes pline &&& byteMask (mAddr (g s a) o w'.bytes % 64) w'.bytes = 0 →
      s.hasMemory (pline * 64 + mAddr (g s a) o w'.bytes % 64) = true →
      (s.core (s.run.cur / 8)).l1.length ≤ 512 →
      ∃ t, exec (.st p d a .self w' e o) s = .next t ∧ t.mem = s.mem ∧ t.homes = s.homes ∧
        (cur t).pc = (cur s).pc + 4 ∧ (∀ q, (cur t).reg q = g s q) ∧
        ∃ l', (t.core (s.run.cur / 8)).line? (mAddr (g s a) o w'.bytes / 64) v.space = some l' ∧
          lineNat l'.data (mAddr (g s a) o w'.bytes % 64) w'.bytes = (g s d).toNat % 2 ^ (8 * w'.bytes) ∧
          l'.dirty = l.dirty ||| byteMask (mAddr (g s a) o w'.bytes % 64) w'.bytes)


namespace Sys2Proof.Claims
open Sys2Proof.Machine

/-- The count of a completion object has reached a target, or its FAULT bit is set (R136, R137). -/
abbrev met (w target : Word) : Prop := w.getLsbD 63 = true ∨ target.toNat % 2 ^ 63 ≤ w.toNat % 2 ^ 63

end Sys2Proof.Claims

/-- R130, R131 and R186: fences perform their release and acquire actions and nothing else; in collecting mode the release
part is not performed.
Where it rests on the model's own choices: log entries 10 and 16; 10 has an acquire fence perform, first, the core's own stores
that a plain load has read and that still wait at home. -/
def Sys2Proof.Claims.FenceResults : Prop :=
  ∀ (s : State) (sc : Scope), quiet s →
    let k := s.run.cur
    let on := fun (_ : Unit) (t : State) => moved t 4
    let fence := fun (sc : Scope) => do
      performRead (k / 8)
      acquire k sc
    carried s (.acq sc) (fence sc) on ∧
    carried s (.fence sc .acquire) (fence sc) on ∧
    ((cur s).lists = [] →
      carried s (.rel sc) (release k sc) on ∧
      carried s (.fence sc .release) (release k sc) on ∧
      carried s (.fence sc .full) (do
        release k sc
        performRead ((← me) / 8)
        acquire (← me) sc) on) ∧
    ((cur s).lists ≠ [] →
      exec (.rel sc) s = .next (moved s 4) ∧ exec (.fence sc .release) s = .next (moved s 4) ∧
      carried s (.fence sc .full) (fence sc) on)

/-- R131: after an acquire at any scope above CORE the core's L1 holds no SELF copy, and after one at CORE scope nothing has
changed. -/
def Sys2Proof.Claims.AcquireDropsSelfCopies : Prop :=
  ∀ (s t : State) (k : Nat) (sc : Scope), acquire k sc s = .ok () t →
    (sc = .core → t = s) ∧ (sc ≠ .core → ∀ l ∈ (t.core (k / 8)).l1, l.kind ≠ .self)

/-- R132: CLEAN and DROP of a line that the L1 does not hold change nothing; of one it holds, CLEAN writes it home, and DROP
then takes it out of the L1; PREF never changes a register, memory, or any L1.
Where it rests on the model's own choices: log entry 10. -/
def Obligations.CacheControl : Prop :=
  ∀ (s : State) (a : Reg) (e : Bool) (l : Policy), quiet s → full s a →
    let va := (g s a).toNat % 2 ^ 52
    let v := viewOf s.run.cur (cur s)
    let line := if isLocal va then none else (s.core v.who).line? (va / 64) v.space
    (line = none → exec (.clean a e) s = .next (moved s 4) ∧ exec (.drop a e) s = .next (moved s 4)) ∧
    (∀ x, line = some x → carried s (.clean a e) (cleanHeld x) (fun _ t => moved t 4)) ∧
    (∀ x, line = some x → carried s (.drop a e) (do
        cleanHeld x
        match ← heldLine va with
        | some y => dropLine (← myWho) false y
        | none => pure ()) (fun _ t => moved t 4)) ∧
    ∃ t, exec (.pref a l e) s = .next t ∧ t.threads = (moved s 4).threads ∧ t.mem = s.mem ∧ t.cores = s.cores ∧
      t.dies = s.dies ∧ t.homes.dir = s.homes.dir

/-- R133 and R145: SPMAP answers its status; with valid operands and a free entry it recalls the lines, copies them in with
FILL, and pins them: where a home cannot hold its pins, the pins are undone and it answers 4, and otherwise it makes the
mapping entry and answers 0.
Where it rests on the model's own choices: log entry 47. -/
def Sys2Proof.Claims.MapResults : Prop :=
  ∀ (s s1 : State) (d a b : Reg) (e f : Bool), quiet s → full s a → full s b → full s (b + 1) → free s d →
    (cur s).lists = [] →
    let k := s.run.cur
    let i := Instr.spmap d a b e f
    let c1 := s1.core (k / 8)
    let ctx := (cur s1).kern.ctxid.toNat
    let ops := mapOperands (viewOf k (cur s)) (cur s).vec c1.regs (g s a) (g s b) (g s (b + 1))
    let last := fun (s3 : State) (st : Word) => ∀ t, acquire k .package (wrote s3 0 d st) = .ok () t →
      t.run.cur = k → quiet t → exec i s = .next (moved t 4)
    release k .package s = .ok () s1 → s1.run.cur = k →
    (ops = none → last s1 3) ∧
    (∀ place n glob, ops = some (place, n, glob) →
      let clash := c1.maps.any fun m => m.ctx == ctx && (overlap m.place m.len place n || overlap m.globalVa m.len glob n)
      (clash = true → last s1 2) ∧
      (clash = false → 8 ≤ c1.maps.length → last s1 1) ∧
      (clash = false → c1.maps.length < 8 → ∀ homes s2 s3 m s4,
        mapHomes (viewOf k (cur s)) ((g s (b + 1)).getLsbD 63) (pieces glob n) s1 = .ok homes s2 →
        recallHomes (k / 8) place ((g s (b + 1)).getLsbD 63) homes s2 = .ok () s3 →
        pinHomes (k / 8) place homes s3 = .ok m s4 → s4.run.cur = k →
        (m < homes.length → ∀ s5, unpinHomes (k / 8) place m homes s4 = .ok () s5 → s5.run.cur = k → last s5 4) ∧
        (homes.length ≤ m →
          last (s4.setCore (k / 8) { s4.core (k / 8) with maps := (s4.core (k / 8)).maps ++
            [{ ctx := ctx, localVa := (g s a).toNat % 2 ^ 52, place := place, len := n, globalVa := glob,
               plines := homes.map (·.1) }] }) 0)))

/-- R135: SPUNMAP removes the mapping of the core and context that starts at its address, writes its words back, and answers
0; it answers 1 where there is none and 5 where the mapping was evicted.
Where it rests on the model's own choices: log entry 47. -/
def Sys2Proof.Claims.UnmapResults : Prop :=
  ∀ (s s1 : State) (d a : Reg) (e : Bool), quiet s → full s a → free s d → (cur s).lists = [] →
    let k := s.run.cur
    let i := Instr.spunmap d a e
    let c1 := s1.core (k / 8)
    let found := c1.maps.find? fun m => m.ctx == (cur s1).kern.ctxid.toNat && m.localVa == (g s a).toNat % 2 ^ 52
    let last := fun (s3 : State) (st : Word) => ∀ t, acquire k .package (wrote s3 0 d st) = .ok () t →
      t.run.cur = k → quiet t → exec i s = .next (moved t 4)
    release k .package s = .ok () s1 → s1.run.cur = k →
    (found = none → last s1 1) ∧
    (∀ m, found = some m →
      let s2 := s1.setCore (k / 8) { c1 with maps := c1.maps.filter (· != m) }
      (m.evicted = true → last s2 5) ∧
      (m.evicted = false → ∀ s3, m.release (k / 8) s2 = .ok () s3 → s3.run.cur = k → last s3 0))

/-- R137 and R138: TESTC writes the object's word after an acquire; WAITC does the same where the count has reached its target
or FAULT is set, and otherwise parks with reason WAITC on the object's place, with no register changed and its destination
empty while it is parked; one on an object of another device reads it again at its next issue.
Where it rests on the model's own choices: log entry 17. -/
def Obligations.WaitResults : Prop :=
  ∀ (s s1 : State) (d a b : Reg) (e f : Bool) (w : Word) (p : Where), quiet s → full s a → full s b → free s d →
    let k := s.run.cur
    readObject ((g s a).toNat % 2 ^ 52) s.askAgain = .ok (w, p) s1 → s1.run.cur = k → quiet s1 →
    (∀ t, acquire k p.scope s1 = .ok () t → t.run.cur = k → quiet t →
      exec (.testc d a e) s = .next (wrote (t.dropWaits k) 4 d w) ∧
      (met w (g s b) → exec (.waitc d a b e f) s = .next (produced (t.dropWaits k) 4 d w))) ∧
    (¬ met w (g s b) → ∀ q, waitPlace s1 p = some q →
      exec (.waitc d a b e f) s =
        .next ((s1.dropWaits k).setThread k { cur s1 with st := .parked (.waitc q d.toNat) })) ∧
    (¬ met w (g s b) → waitPlace s1 p = none → exec (.waitc d a b e f) s = .next (s1.dropWaits k).stallsNow)


namespace Sys2Proof.Claims
open Sys2Proof.Machine

/-- A handle names list `n` of the issuing thread's cluster, whose record is `l` (R193, R196). -/
def names (s : State) (x : Word) (n : Nat) (l : EList) : Prop :=
  resolveHandle x s = .ok (some (.list n)) s ∧ (cluster s).list? n = some l

/-- A handle names a CLOSED list that is not split (R198 to R200). -/
def namesWhole (s : State) (x : Word) (n : Nat) (l : EList) : Prop := names s x n l ∧ l.st = .closed ∧ l.image = none

/-- The state with another record for a list of the issuing thread's cluster. -/
def setList (s : State) (n : Nat) (l : EList) : State :=
  s.setCluster (s.run.cur / 8 / 8)
    { cluster s with descrs := (cluster s).descrs.put n { (cluster s).descrs.get n {} with list := some l } }

/-- An entry lies within the bounds of EFILT (R199). -/
def within (lo hi : Nat) (e : Entry) : Bool := decide (lo ≤ e.va) && decide (e.va < hi)

/-- An entry moved by an offset; a SEND entry stays (R200). -/
def rebased (off : Int) (t : Entry) : Entry :=
  if t.kind = .send then t else { t with word := BitVec.ofNat 128 (t.word.toNat / 2 ^ 52 * 2 ^ 52 + (t.va + off).toNat) }

/-- An engine operation that the issuing thread forks, as it stands in flight (R136, R171). -/
def forked (t : State) (op : EngOp) (obj fn : Nat) : State :=
  { t with
    engines := t.engines ++ [{ id := t.engineSeq, op := op, thread := t.run.cur, obj := BitVec.ofNat 64 obj, fn := fn,
                               ctx := (cur t).kern.ctxid.toNat, user := !(cur t).kern.kmode,
                               launch := (t.core (t.run.cur / 8)).held.map (·.1) }]
    engineSeq := t.engineSeq + 1 }

/-- The release of an engine instruction, at the scope of its completion object (R136). -/
def objectRelease (obj : Nat) : M Unit := do
  let k ← me
  let sc ← scopeOf obj
  release k sc

/-- A list when one more application of it starts (R196). -/
def applying (l : EList) : EList :=
  { l with st := match l.st with
      | .applying left n drop => .applying left (n + 1) drop
      | .committing n drop => .committing (n + 1) drop
      | st => .applying (st == .spilled) 1 false }

/-- A list whose entries have gone to an image (R205). -/
def spilledTo (va : Nat) (l : EList) : EList :=
  { l with st := if l.st = .closed then .spilled else l.st, entries := [], image := some va,
           spilled := l.spilled + l.entries.length }

end Sys2Proof.Claims

/-- R192, R198, R199, R200, R203: what the list instructions do to a whole CLOSED list. ECAT joins two lists in order under
the first descriptor with a new generation and frees the second; EFILT keeps the entries within the bounds and EFILTX those
outside, and SEND entries; EREB moves every address but those of SEND entries; EDROP frees the list.
Where it rests on the model's own choices: log entry 57. -/
def Obligations.ListResults : Prop :=
  ∀ (s : State) (d a b : Reg) (e f : Bool) (n : Nat) (l : EList), quiet s → full s a → full s b → full s (b + 1) →
    free s d → namesWhole s (g s a) n l →
    let lo := (g s b).toNat % 2 ^ 52
    let hi := (g s (b + 1)).toNat
    let keeps := fun (inside : Bool) => l.entries.filter fun t => t.kind == .send || within lo hi t == inside
    (lo % 8 = 0 → hi % 8 = 0 → lo ≤ hi → hi ≤ 2 ^ 52 →
      exec (.efilt d a b e f) s =
        .next (wrote (setList s n { l with entries := keeps true }) 4 d (BitVec.ofNat 64 (keeps true).length)) ∧
      exec (.efiltx d a b e f) s =
        .next (wrote (setList s n { l with entries := keeps false }) 4 d (BitVec.ofNat 64 (keeps false).length))) ∧
    ((g s b).toInt % 8 = 0 →
      (∀ t ∈ l.entries, t.kind ≠ .send → 0 ≤ t.va + (g s b).toInt ∧ t.va + (g s b).toInt + t.bytes ≤ 2 ^ 52 ∧
        isLocal (t.va + (g s b).toInt).toNat = false) →
      exec (.ereb a b e f) s =
        .next (moved (setList s n { l with entries := l.entries.map (rebased (g s b).toInt) }) 4)) ∧
    (∃ t, exec (.edrop a e) s = .next t ∧ (cluster t).list? n = none ∧
      ((cluster t).descrs.get n {}).gen = (if ((cluster s).descrs.get n {}).gen = 65535 then 1
        else ((cluster s).descrs.get n {}).gen + 1) ∧
      (∀ m, m ≠ n → (cluster t).list? m = (cluster s).list? m) ∧ (∀ q, (cur t).reg q = g s q) ∧ t.mem = s.mem) ∧
    (∀ m r, namesWhole s (g s b) m r → m ≠ n → l.owner = s.run.cur / 8 → r.owner = s.run.cur / 8 →
      ∃ t gen, exec (.ecat d a b e f) s = .next t ∧
        (cluster t).list? n = some { st := .closed, owner := s.run.cur / 8, maker := some s.run.cur, ctx := l.ctx,
                                     entries := l.entries ++ r.entries } ∧
        (cluster t).list? m = none ∧ gen = ((cluster t).descrs.get n {}).gen ∧
        gen ≠ ((cluster s).descrs.get n {}).gen ∧
        (cur t).reg d = (if d = 0 then 0 else BitVec.ofNat 64 (n + gen * 2 ^ 16 + s.run.cur / 64 * 2 ^ 32)) ∧
        (∀ i, i ≠ n → i ≠ m → (cluster t).list? i = (cluster s).list? i) ∧ t.mem = s.mem)

/-- R196 and R204 to R206: EINFO reports a list's entries, state, split and applications; ESPILL writes a CLOSED list's
entries as an image at home and makes the list SPILLED; ELOAD of an image's handle makes a new CLOSED list of its entries.
Where it rests on the model's own choices: log entry 57. -/
def Obligations.ListImages : Prop :=
  ∀ (s : State) (d a b : Reg) (e f : Bool) (n : Nat) (l : EList), quiet s → full s a → full s b → free s d → noRemote s →
    let s' := s.askAgain
    (names s' (g s a) n l →
      (g s b = 0 → exec (.einfo d a b e f) s = .next (wrote s' 4 d (BitVec.ofNat 64
        ((l.entries.length + l.spilled) % 2 ^ 32 +
          (match l.st with | .active => 0 | .closed => 1 | .spilled => 2 | _ => 3) * 2 ^ 32 +
          (if l.image.isSome then 2 ^ 35 else 0) +
          (match l.st with | .applying _ k _ => k | .committing k _ => k | _ => 0) % 256 * 2 ^ 40)))) ∧
      (g s b = 1 → exec (.einfo d a b e f) s = .next (wrote s' 4 d (BitVec.ofNat 64 l.faddr.toNat)))) ∧
    (names s' (g s a) n l → l.st = .closed → (g s b).toNat % 64 = 0 → isLocal ((g s b).toNat % 2 ^ 52) = false →
      let va := (g s b).toNat % 2 ^ 52
      carriedFrom s' s (.espill d a b e f)
        (do let image := imageBytes l.entries (l.image.getD 0) l.ctx
            writeVa (← threadAgent) va image (accessInfo 3 true false 3 false false)
            modMyList n (spilledTo va))
        (fun _ t => wrote (t.dropWaits s.run.cur) 4 d (BitVec.ofNat 64 (va + 2 ^ 63)))) ∧
    (∀ va, resolveHandle (g s a) s' = .ok (some (.image va)) s' →
      carriedFrom s' s (.eload d a e)
        (do let es ← loadChain va
            checkAdded es.length 0
            let p ← makeList { st := .closed, owner := (← me) / 8, maker := some (← me),
                               ctx := (← myThread).kern.ctxid.toNat, entries := es }
            myHandle p)
        (fun h t => wrote (t.dropWaits s.run.cur) 4 d h))

/-- R136, R171, R196, R201, R283, R284, R287: an engine instruction outside collecting mode checks its operands, performs a
release at its completion object's scope, and forks its operation; the PC moves on and no register changes.
Where it rests on the model's own choices: log entries 14 and 41. -/
def Obligations.EngineForks : Prop :=
  ∀ (s : State) (d a b : Reg) (e f : Bool) (obj : Nat), quiet s → full s a → full s b → full s (b + 1) → free s d →
    (cur s).lists = [] →
    let z := (g s (b + 1)).toNat
    let x := (g s a).toNat % 2 ^ 52
    let y := (g s b).toNat % 2 ^ 52
    (full s d → checkObject (g s d) s = .ok obj s → z < 2 ^ 32 → checkRange x z false s = .ok () s →
      checkRange y z true s = .ok () s →
      carried s (.copy d a b e f) (objectRelease obj) (fun _ t => moved (forked t (.copy x y z) obj 10) 4)) ∧
    (∀ n l, checkObject (g s b) s = .ok obj s → names s (g s a) n l →
      carried s (.eapply a b e f) (do objectRelease obj; modMyList n applying)
        (fun _ t => moved (forked t (.eapply (some n) none false) obj 4) 4) ∧
      carried s (.eapplyO a b e f) (do objectRelease obj; modMyList n applying)
        (fun _ t => moved (forked t (.eapply (some n) none true) obj 5) 4)) ∧
    (∀ va, checkObject (g s b) s = .ok obj s → resolveHandle (g s a) s = .ok (some (.image va)) s →
      carried s (.eapply a b e f) (objectRelease obj) (fun _ t => moved (forked t (.eapply none (some va) false) obj 4) 4) ∧
      carried s (.eapplyO a b e f) (objectRelease obj)
        (fun _ t => moved (forked t (.eapply none (some va) true) obj 5) 4)) ∧
    (full s d → checkObject (g s d) s.askAgain = .ok obj s.askAgain →
      carriedFrom s.askAgain s (.copys d a b e f)
        (do let p ← readShape (g s a)
            let q ← readShape (g s b)
            let accept := fun (c : Nat) => decide (c ≤ 7) || c == 12
            checkFat accept p.base (BitVec.ofNat 64 p.addr)
            checkFat accept q.base (BitVec.ofNat 64 q.addr)
            shapeChecks (copysChecks p q)
            p.elements.forM fun va => checkRange va (elemBytes p.fmt) false
            q.elements.forM fun va => checkRange va (elemBytes q.fmt) true
            objectRelease obj
            return (p, q))
        (fun r t => moved ((forked t (.copys r.1.raw r.2.raw) obj 11).dropWaits s.run.cur) 4)) ∧
    (carried s (.alloc d a e) (release s.run.cur .die) (fun _ t =>
      let n := (g s a).toNat
      if n = 0 ∨ 65536 < n ∨ (t.core (s.run.cur / 8)).regs.allocbase.getLsbD 63 = false then wrote t 4 d 0
      else
        let t' := forked t (.alloc d.toNat n) 0 8
        t'.setThread t'.run.cur { cur t' with
          empty := if d = 0 then (cur t').empty else (cur t').empty ||| ((1 : BitVec 32) <<< d.toNat)
          pc := (cur t').pc + 4 })) ∧
    ((g s b).toNat ≠ 0 → (g s b).toNat ≤ 65536 →
      (x = 0 → exec (.free a b e f) s = .next (moved s 4)) ∧
      (x ≠ 0 → x % (64 * 2 ^ sizeClass (g s b).toNat) = 0 →
        carried s (.free a b e f) (release s.run.cur .die)
          (fun _ t => moved (forked t (.free x (g s b).toNat) 0 9) 4)))


namespace Sys2Proof.Claims
open Sys2Proof.Machine

/-- The bytes of the headers of R268: length, TRUNC, ERR, NOTE, ORD, REMOTE 0, class, sender, channel, timestamp, sequence. -/
def header (len : Nat) (trunc note ord : Bool) (cls who chan ts seq : Nat) : BitVec 128 :=
  BitVec.ofNat 128 (len + (if trunc then 2 ^ 11 else 0) + (if note then 2 ^ 13 else 0) + (if ord then 2 ^ 14 else 0)
    + cls * 2 ^ 16 + who % 2 ^ 14 * 2 ^ 20 + chan % 4096 * 2 ^ 42 + ts % 2 ^ 32 * 2 ^ 64 + seq % 2 ^ 32 * 2 ^ 96)

/-- The state in which a slot of a channel is taken, the message is on its way to it, and the endpoint counts it (R266,
R272). -/
def sent (s : State) (die num idx ep len ts : Nat) (bytes : List Byte) (note : Bool) (ctx : Nat) : State :=
  let who := s.run.cur / 8
  let c := s.channel die num
  let x := (s.core who).ep ep
  let h := header bytes.length (decide (bytes.length < len)) note (c.ord && !note) c.cls who num
    (if c.ord && !note then ts else 0) x.seq.toNat
  let s' := s.setCore who { s.core who with inbox := { (s.core who).inbox with
    eps := (s.core who).inbox.eps.put ep { x with
      seq := x.seq + 1, lastts := if c.ord && !note then BitVec.ofNat 32 ts else x.lastts } } }
  { s' with flights := s'.flights ++ [{ src := who, dst := c.receiver, cls := c.cls, place := some (num, idx), header := h,
                                        bytes := bytes, ep := some (who, ep), ctx := ctx }] }

end Sys2Proof.Claims

/-- R266, R268, R272, R273: a SEND or SENDR on an open unordered channel of this package, and a TSEND on an ordered one
outside collecting mode, after a release at PACKAGE scope and with a slot taken, sends its payload, cut to the slot's size,
with the header of R268, and answers 0, or 1 where it was cut.
Where it rests on the model's own choices: log entries 4 and 14. -/
def Sys2Proof.Claims.SendResults : Prop :=
  ∀ (s s1 s2 t : State) (kind : SendKind) (d a b : Reg) (e f : Bool) (n die num idx : Nat) (bytes : List Byte),
    quiet s → full s a → full s b → free s d → noRemote s → (cur s).lists = [] →
    let k := s.run.cur
    let y := (g s b).toNat
    let len := y / 2 ^ 16 % 2 ^ 16
    let ts := y / 2 ^ 32
    let i := match kind with
      | .send => Instr.send d a b e f | .sendr => Instr.sendr d a b e f | .tsend => Instr.tsend d a b e f
    checkSend kind (g s b) s.askAgain = .ok (n, die, num) s.askAgain →
    (kind ≠ .sendr → checkPayload ((g s a).toNat % 2 ^ 52) len s.askAgain = .ok () s.askAgain) →
    (s.channel die num).st = .open → (s.channel die num).remote = none →
    release k .package s.askAgain = .ok () s1 → s1.run.cur = k → ((s1.core (k / 8)).ep n).isOpen = true →
    takeSlot die num k s1 = .ok (some idx) s2 → s2.run.cur = k →
    let m := min len (s.channel die num).size
    (if kind = .sendr then bytes = lowBytes m (g s a) ∧ t = s2
      else readVa ⟨k, viewOf k (cur s2), (cur s2).vec, false⟩ ((g s a).toNat % 2 ^ 52) m
        (accessInfo 0 false false 3 false false) s2 = .ok bytes t) →
    t.run.cur = k → quiet t → noRemote t → bytes.length = m → (t.channel die num).ord = (s.channel die num).ord →
    exec i s = .next (wrote (sent t die num idx n len ts bytes false (cur t).kern.ctxid.toNat) 4 d
      (if m < len then 1 else 0))

/-- R269 and R273: a send on a channel that is DRAINING or CLOSED answers 2, in ERROR 3, SEALED 4, with nothing sent; on an
open channel with no slot free its thread parks with reason SEND.
Where it rests on the model's own choices: log entry 4. -/
def Sys2Proof.Claims.SendStatuses : Prop :=
  ∀ (s s1 : State) (d a b : Reg) (e f : Bool) (n die num : Nat), quiet s → full s a → full s b → free s d → noRemote s →
    (cur s).lists = [] →
    let k := s.run.cur
    checkSend .sendr (g s b) s.askAgain = .ok (n, die, num) s.askAgain → (s.channel die num).remote = none →
    release k .package s.askAgain = .ok () s1 → s1.run.cur = k → ((s1.core (k / 8)).ep n).isOpen = true →
    quiet s1 → noRemote s1 →
    ((s.channel die num).st = .draining ∨ (s.channel die num).st = .closed →
      exec (.sendr d a b e f) s = .next (wrote s1 4 d 2)) ∧
    ((s.channel die num).st = .error → exec (.sendr d a b e f) s = .next (wrote s1 4 d 3)) ∧
    ((s.channel die num).st = .sealed → exec (.sendr d a b e f) s = .next (wrote s1 4 d 4)) ∧
    ((s.channel die num).st = .open → ∀ s2, takeSlot die num k s1 = .ok none s2 → s2.run.cur = k → noRemote s2 →
      exec (.sendr d a b e f) s = .next (s2.setThread k { cur s2 with st := .parked (.send (die * 4096 + num)) }))

/-- R71, R74, R267, R276 to R278: RECV takes the earliest pending message of its class, holds its slot and answers its
address and length; with none pending it parks with reason RECV, its destination empty; MSGFREE frees a held slot and answers 0, and 1 for an address that the thread does not hold; CHSTAT with
selector 1 and 2 answers the header's halves, with selector 3 the count of pending messages. -/
def Obligations.ReceiveResults : Prop :=
  ∀ (s : State) (d a b : Reg) (e f : Bool) (p : Pending) (sl : Slot) (h : BitVec 128), quiet s → full s a → full s b →
    free s d → (cur s).lists = [] →
    let k := s.run.cur
    let who := k / 8
    let box := (s.core who).inbox
    ((g s a).toNat < 16 → (∀ q ∈ s.received who, q.2.cls = (g s a).toNat → q.2.ord = false) →
      box.forThread (k % 8) (g s a).toNat = some p →
      let s1 := s.setCore who { s.core who with inbox := { box with
        pending := box.pending.erase p, waiters := box.waiters.filter fun w => w.1 != k % 8 } }
      let s2 := s1.setThread k { cur s1 with held := (cur s1).held ++ [(p.slot, p.header)] }
      carriedFrom s2 s (.recv d a e) (acquire k (if p.header.getLsbD 15 then .domain else .package)) fun _ t =>
        produced t 4 d (BitVec.ofNat 64 (0xF4 * 2 ^ 44 + p.slot.off + p.header.toNat % 2 ^ 11 * 2 ^ 52 +
          (if p.header.getLsbD 12 then 2 ^ 63 else 0)))) ∧
    ((g s a).toNat < 16 → (∀ q ∈ s.received who, q.2.cls = (g s a).toNat → q.2.ord = false ∧ q.2.st ≠ .error) →
      box.forThread (k % 8) (g s a).toNat = none →
      let w := (k % 8, (g s a).toNat)
      exec (.recv d a e) s = .next ((s.setCore who { s.core who with inbox := { box with
          waiters := if box.waiters.contains w then box.waiters else box.waiters.filter (fun x => x.1 != k % 8) ++ [w] } })
        |>.setThread k { cur s with st := .parked (.recv (g s a).toNat d.toNat) })) ∧
    (∀ s1, release k .core s = .ok () s1 → s1.run.cur = k → quiet s1 →
      (cur s1).slotAt ((g s a).toNat % 2 ^ 52) = none → exec (.msgfree d a e) s = .next (wrote s1 4 d 1)) ∧
    ((cur s).act = none → (cur s).slotAt ((g s a).toNat % 2 ^ 52) = some (sl, h) → ∀ s1,
      release k .core s = .ok () s1 → s1.run.cur = k → (cur s1).act = none → (cur s1).held = (cur s).held →
      carriedFrom (s1.setThread k { cur s1 with held := (cur s1).held.filter fun q => q.1 != sl }) s (.msgfree d a e)
        (freeSlot who sl) fun _ t => wrote t 4 d 0) ∧
    ((cur s).slotAt ((g s a).toNat % 2 ^ 52) = some (sl, h) →
      (g s b = 1 → exec (.chstat d a b e f) s = .next (wrote s 4 d (BitVec.ofNat 64 h.toNat))) ∧
      (g s b = 2 → exec (.chstat d a b e f) s = .next (wrote s 4 d (BitVec.ofNat 64 (h.toNat / 2 ^ 64))))) ∧
    (g s b = 3 → exec (.chstat d a b e f) s = .next (wrote s 4 d (BitVec.ofNat 64
      (box.pending.filter fun q => q.claim.isNone && q.slot.cls == (g s a).toNat % 16).length)))


namespace Sys2Proof.Claims
open Sys2Proof.Machine

/-- An agent's step is carried by an operation: where it completes, the step answers the state it leaves. -/
def moves {α : Type} (s : State) (i : Instr) (m : M α) : Prop := ∀ (a : α) (t : State), m s = .ok a t → exec i s = .next t

/-- The event of a home that serves a queued request: its kind and the request's place in the queue (R147). -/
def serves : Instr → Option (ReqKind × Nat)
  | .fillu k => some (.fillu, k) | .fills k => some (.fills, k) | .upg k => some (.upg, k) | .getm k => some (.getm, k)
  | .ext k => some (.ext, k) | .regw k => some (.regw, k) | .rdh k => some (.rdh, k) | .wrh k => some (.wrh, k)
  | .atom k => some (.atom, k) | .wbs k => some (.wbs, k) | .wbo k => some (.wbo, k) | .dereg k => some (.dereg, k)
  | .leave k => some (.leave, k) | _ => none

/-- The state without the `k`-th queued request of the homes. -/
def unqueued (s : State) (k : Nat) : State := { s with homes := { s.homes with reqs := s.homes.reqs.eraseIdx k } }

/-- The state in which an engine's operation is over and its fault is recorded with it. -/
def ended (s : State) (id : Nat) (f : Option Trap) : State :=
  { s with engines := s.engines.map fun e => if e.id = id then { e with finished := true, failed := f } else e }

/-- ENGFLT and ENGADDR of the issuing thread after an engine's fault (R282). -/
def engineFaulted (s : State) (e : Engine) (f : Trap) : State :=
  s.setThread e.thread { s.thread e.thread with ctl := { (s.thread e.thread).ctl with
    engflt := BitVec.ofNat 64 (f.cause.code + f.sub * 2 ^ 8 + e.fn % 256 * 2 ^ 16 + 2 ^ 24)
    engaddr := BitVec.ofNat 64 (f.faddr.toNat % 2 ^ 52) } }

/-- The state without an engine, whose answers from other devices are forgotten. -/
def engineGone (s : State) (id : Nat) : State :=
  ({ s with engines := s.engines.filter fun e => e.id != id }).dropWaits (2 ^ 32 + id)

/-- An engine that has begun nothing yet and whose unit has come up, with the number that its event names. -/
def inFlight (s : State) (id : Nat) (e : Engine) : Prop :=
  s.engines.find? (fun x => x.id == id) = some e ∧ e.finished = false ∧ e.faulty = false ∧ e.ready s = true ∧ e.work = none

/-- The completion of an engine's operation (R136, R282): its body runs; where it succeeds its completion object's COUNT
rises by one, and where it faults ENGFLT and ENGADDR are written and the object's FAULT is set too; then it is gone. -/
def completes (s : State) (i : Instr) (id : Nat) (e : Engine) (body : M Unit) : Prop :=
  (∀ s1 t, body s.askAgain = .ok () s1 → s1.engines = s.engines →
    completionAdd e.agent e.obj.toNat false (ended s1 id none) = .ok (.ok ()) t → exec i s = .next (engineGone t id)) ∧
  (∀ f s1 t, body s.askAgain = .error (.trap f) s1 → s1.engines = s.engines →
    completionAdd e.agent e.obj.toNat true (engineFaulted (ended s1 id (some f)) e f) = .ok (.ok ()) t →
    exec i s = .next (engineGone t id))

end Sys2Proof.Claims

/-- R136, R282 to R285: COPY_COMPLETE, COPYS_COMPLETE and PUT_PLACEMENT perform the whole operation and then the completion
add; PUT_PLACEMENT of a PUT without a note writes its bytes to a destination of which every page translates.
Where it rests on the model's own choices: log entries 22 and 51. -/
def Sys2Proof.Claims.CopyEnginesComplete : Prop :=
  ∀ (s : State) (id : Nat) (e : Engine), inFlight s id e →
    (∀ src dst n, e.op = .copy src dst n → completes s (.copyComplete id) id e (copyBytes e.agent src dst n)) ∧
    (∀ src dst, e.op = .copys src dst →
      completes s (.copysComplete id) id e (copyTile e.agent (shapeOf 0 src) (shapeOf 0 dst))) ∧
    (∀ src dst n ep s1 s2 s3 t bs, e.op = .put src dst n none none ep → readVa e.agent src n 0 s.askAgain = .ok bs s1 →
      translateAll e.agent dst n s1 = .ok () s2 → placeBytes e.agent dst bs s2 = .ok () s3 → s3.engines = s.engines →
      completionAdd e.agent e.obj.toNat false (ended s3 id none) = .ok (.ok ()) t →
      exec (.putPlacement id) s = .next (engineGone t id))

/-- R136 and R295: GMCAST_COMPLETE writes the source's bytes to the same scratchpad offset of every member that is not
killed, and then adds.
Where it rests on the model's own choices: log entry 22. -/
def Sys2Proof.Claims.MulticastCompletes : Prop :=
  ∀ (s s1 s2 t : State) (id : Nat) (e : Engine) (die gn src off n : Nat) (ms : List Nat) (bs : List Byte), inFlight s id e →
    e.op = .gmcast die gn src off n ms → (∀ m ∈ ms, (s1.core m).killed = false) → readVa e.agent src n 0 s.askAgain = .ok bs s1 →
    ms.foldlM (fun (_ : Unit) m => putBytes (placeScratch m off) bs) () s1 = .ok () s2 → s1.engines = s.engines →
    completionAdd e.agent e.obj.toNat false (ended s2 id none) = .ok (.ok ()) t →
    exec (.gmcastComplete id) s = .next (engineGone t id)

/-- R78, R286, R287: ALLOC_SERVE takes the head of the size class's free list, writes it to the register that the ALLOC left
empty after an acquire at DIE scope; FREE_ENGINE puts its block at the head of its list, counting it.
Where it rests on the model's own choices: log entries 22 and 52. -/
def Sys2Proof.Claims.AllocatorServes : Prop :=
  ∀ (s s1 s2 : State) (id : Nat) (e : Engine), inFlight s id e →
    (∀ r n v, e.op = .alloc r n → r < 32 → r ≠ 0 → allocBlock e n s.askAgain = .ok v s1 → acquire e.thread .die s1 = .ok () s2 →
      ∃ t, exec (.allocServe id) s = .next t ∧ (t.thread e.thread).reg (BitVec.ofNat 5 r) = v ∧
        (t.thread e.thread).empty.getLsbD r = false ∧ (∀ x ∈ t.engines, x.id ≠ id)) ∧
    (∀ va n p, e.op = .free va n → tableEntry s (e.thread / 8) (sizeClass n) = some p → sound s p 16 →
      let count := number (s.mem.bytes (p + 8) 4)
      writeVa e.agent va (s.mem.bytes p 8) 0 s.askAgain = .ok () s1 →
      ∃ t, exec (.freeEngine id) s = .next t ∧
        t.mem = s1.mem.setBytes p (lowBytes 8 (BitVec.ofNat 64 va) ++ lowBytes 4 (BitVec.ofNat 64 (count + 1))) ∧
        (∀ x ∈ t.engines, x.id ≠ id))

/-- R136, R196, R201: EAPPLY_COMPLETE performs the entries of a list in their order, adds, and leaves the list CLOSED once its
last application is over.
Where it rests on the model's own choices: log entries 22 and 57. -/
def Sys2Proof.Claims.ApplicationCompletes : Prop :=
  ∀ (s s1 s2 t : State) (id n : Nat) (e : Engine) (ord : Bool) (es : List Entry) (l : EList), inFlight s id e →
    e.op = .eapply (some n) none ord →
    applyEntries e.agent ((s.cluster (e.thread / 8 / 8)).list? n) none e.ctx s.askAgain = .ok (.ok es) s1 → s1.engines = s.engines →
    performFrom e.agent e.thread
      (fun t va => modEngine id fun x => { x with failed := x.failed.orElse fun _ => some { t with faddr := BitVec.ofNat 64 va } })
      (modEngine id fun x => { x with pos := x.pos + 1 }) (es.drop e.pos)
      { s1 with engines := s1.engines.map fun x => if x.id = id then { x with work := some es } else x } = .ok () s2 →
    (∃ x, s2.engines.find? (fun y => y.id == id) = some x ∧ x.failed = none ∧ x.faulty = false ∧ x.obj = e.obj ∧
      x.agent = e.agent ∧ x.op = e.op ∧ x.thread = e.thread) →
    completionAdd e.agent e.obj.toNat false (ended s2 id none) = .ok (.ok ()) t →
    (t.cluster (e.thread / 8 / 8)).list? n = some l → l.st = .applying false 1 false →
    ∃ u, exec (.eapplyComplete id) s = .next u ∧ u.mem = t.mem ∧
      (u.cluster (e.thread / 8 / 8)).list? n = some { l with st := .closed } ∧ (∀ x ∈ u.engines, x.id ≠ id)

/-- R74, R266, R268: a message in flight to an open unordered channel arrives: its payload and header are in its slot, and it
is PENDING at the receiver, which has no thread parked for its class; a system message takes the lowest free slot of its
pool and counts in the pool's SEQ, and what its sender stored before is home first: its sending is a release, which moves
nothing where the core's L1 holds nothing dirty and no home waits with stores or dirty bytes of the core (R280).
Where it rests on the model's own choices: log entry 24. -/
def Obligations.MessagesArrive : Prop :=
  ∀ (s : State) (k : Nat) (fl : Flight),
    (∀ num idx, s.flights[k]? = some fl → fl.ep = none → fl.place = some (num, idx) →
      let c := s.channel (dieOf fl.dst) num
      c.st = .open → c.ord = false → (s.core fl.dst).inbox.waiters = [] → quiet s →
      (∀ v ∈ s.saved, v.standsFor fl.dst c.launch = false) →
      let off := c.pool + idx * c.size
      ∃ t, exec (.messageArrival k) s = .next t ∧ t.flights = s.flights.eraseIdx k ∧
        t.mem = s.mem.setBytes (placeInbox fl.dst off) fl.bytes ∧
        (t.core fl.dst).inbox.headers = (s.core fl.dst).inbox.headers.put off fl.header ∧
        (t.core fl.dst).inbox.pending = (s.core fl.dst).inbox.pending ++
          [{ slot := ⟨off, c.size, some num, fl.cls⟩, header := fl.header }]) ∧
    (∀ s1 off, s.sysmsgs[k]? = some fl → (∀ x ∈ s.sysmsgs.take k, x.origin ≠ fl.origin) →
      systemRelease fl.origin s = .ok () s1 → (s1.core fl.dst).inbox.waiters = [] →
      quiet s1 → fl.pool = 15 → off < 8192 → off % 64 = 0 → off ∉ (s1.core fl.dst).inbox.sysUsed →
      (∀ o, o < off → o % 64 = 0 → o ∈ (s1.core fl.dst).inbox.sysUsed) →
      ∃ t, exec (.systemMessageDelivery k) s = .next t ∧ t.sysmsgs = s1.sysmsgs.eraseIdx k ∧
        t.mem = s1.mem.setBytes (placeInbox fl.dst off) fl.bytes ∧
        (t.core fl.dst).inbox.sysUsed = (s1.core fl.dst).inbox.sysUsed ++ [off] ∧
        (t.core fl.dst).inbox.seq15 = (s1.core fl.dst).inbox.seq15 + 1 ∧
        (t.core fl.dst).inbox.pending = (s1.core fl.dst).inbox.pending ++
          [{ slot := ⟨off, 64, none, fl.cls⟩,
             header := header 32 false false false fl.cls fl.src 0xFFF 0 (s1.core fl.dst).inbox.seq15.toNat }]) ∧
    (∀ who, fl.origin = .core who →
      s.waiting (fun r => (r.src.who == who && r.src.dev.isNone) || r.gave.any fun g => g.1 == who) = [] →
      (∀ a ∈ s.homes.acks, a.mask ≠ 0 → a.core ≠ who) →
      (∀ l ∈ (s.core who).l1, l.dirty &&& ~~~l.regBytes = 0) → systemRelease fl.origin s = .ok () s)

/-- R71, R74, R77: an activation starts on the lowest DORMANT thread with PC the class's HANDLER, g2 STKTOP, g3 the payload's
address, g4 its length, g5 the sender's WHO, every other register 0 and full, an empty return stack, RSPTR from RSTOP, and
FPC and FPF 0. -/
def Obligations.ActivationStarts : Prop :=
  ∀ (s s1 : State) (who h : Nat) (p : Pending), (s.core who).killed = false → (s.core who).halted = false →
    s.ctxHalted (s.coreCtx who) = false → (∀ q ∈ (s.core who).inbox.pending, turnedAway s who q = none) →
    bindNext s who = some p → p.ordered s who = false → h < 8 → (s.thread (who * 8 + h)).st = .dormant →
    (∀ j, j < h → (s.thread (who * 8 + j)).st ≠ .dormant) →
    let k := who * 8 + h
    acquire k (if p.header.getLsbD 15 then .domain else .package) (s.setCore who { s.core who with
      inbox := { (s.core who).inbox with pending := (s.core who).inbox.pending.erase p } }) = .ok () s1 →
    s1.thread k = s.thread k →
    ∃ t, exec (.activationBind who) s = .next t ∧
      let x := t.thread k
      x.st = .runnable ∧ x.pc = BitVec.ofNat 52 (((s.core who).regs.classes.toList.getD p.slot.cls 0).toNat % 2 ^ 52) ∧
      x.reg 2 = (s.thread k).kern.stktop ∧ x.reg 3 = BitVec.ofNat 64 (0xF4 * 2 ^ 44 + p.slot.off) ∧
      x.reg 4 = BitVec.ofNat 64 (p.header.toNat % 2 ^ 11) ∧ x.reg 5 = BitVec.ofNat 64 (p.header.toNat / 2 ^ 20 % 2 ^ 14) ∧
      (∀ q, q ≠ 2 → q ≠ 3 → q ≠ 4 → q ≠ 5 → x.reg q = 0) ∧ (∀ q, x.isEmpty q = false) ∧ x.rstack = [] ∧
      x.ctl.rsptr = BitVec.setWidth 52 (s.thread k).kern.rstop ∧ x.ctl.fpc = 0 ∧ x.ctl.fpf = 0 ∧ x.lists = [] ∧
      x.kern = (s.thread k).kern

/-- R78, R79, R85 and R346: a late result fills its register; the end of ALIGN's 256 cycles ends its park; an interrupt takes
thread 0 to KVEC in KERNEL mode with IE 0, its next instruction in KEPC and the word in KIRQ.
Where it rests on the model's own choices: log entries 37 and 48. -/
def Obligations.BetweenInstructions : Prop :=
  ∀ (s : State) (k who : Nat),
    (∀ r v rest, (s.thread k).results = (r, v) :: rest → r < 32 → r ≠ 0 →
      ∃ t, exec (.resultWriteback k) s = .next t ∧ (t.thread k).reg (BitVec.ofNat 5 r) = v ∧
        (t.thread k).empty.getLsbD r = false ∧ (t.thread k).results = rest ∧
        (∀ q, q ≠ BitVec.ofNat 5 r → (t.thread k).reg q = (s.thread k).reg q) ∧ t.mem = s.mem ∧ t.cores = s.cores ∧
        ((s.thread k).st = .parked (.empty r) ∨ (s.thread k).st = .parked (.dest r) → (t.thread k).st = .runnable)) ∧
    (∀ n, (s.thread k).st = .parked (.align n) →
      exec (.alignTimeout k) s = .next (s.setThread k { s.thread k with st := .runnable })) ∧
    (∀ w rest, (s.core who).irqs = w :: rest → s.interruptible who = true →
      (s.thread (who * 8)).kern.kvec ≠ 0 → (s.thread (who * 8)).kern.kvec.getLsbD 0 = false →
      let old := s.thread (who * 8)
      ∃ t, exec (.interruptEntry who) s = .next t ∧ (t.core who).irqs = rest ∧
        let x := t.thread (who * 8)
        x.pc = BitVec.setWidth 52 old.kern.kvec ∧ x.kern.kepc = BitVec.setWidth 64 old.pc ∧ x.kern.kirq = w ∧
        x.kern.kmode = true ∧ x.kern.kstatus.getLsbD 0 = old.kern.kmode ∧ x.kern.kstatus.getLsbD 1 = false ∧
        x.kern.kstatus.getLsbD 2 = true ∧ x.kern.kstatus.getLsbD 3 = true ∧ x.ctl.cause = old.ctl.cause ∧ t.mem = s.mem)

/-- R120, R144, R145, R147: a home takes what it must do before a queued request whose line it may serve now; it then serves
the request at once where it asks no L1, and otherwise its entry is busy with the request until the answers are in.
Where it rests on the model's own choices: log entries 10 and 50. -/
def Sys2Proof.Claims.HomesServeRequests : Prop :=
  ∀ (s s1 : State) (i : Instr) (k : Nat) (r : Req), serves i = some (r.kind, k) → s.headReq k = some r →
    prepare afadd r (unqueued s k) = .ok () s1 →
    (allAsks s1 r = [] → ∀ t, (do deliver r (← finishReq afadd r 0) : M Unit) s1 = .ok () t → exec i s = .next t) ∧
    (allAsks s1 r ≠ [] →
      ∃ t, exec i s = .next t ∧ (t.dirOf r.pline).busy = some r ∧ t.mem = s1.mem ∧ t.cores = s1.cores ∧
        t.homes.reqs = s1.homes.reqs ∧
        t.homes.invals = s1.homes.invals ++ (allAsks s1 r).map fun a => ⟨r.pline, a.1, a.2⟩)

/-- R147, R148, R155, R230, R363: a message of the home protocol reaches its L1, which answers it; an acknowledgement is
applied at its home; a request for words that are owned elsewhere is performed there; the cleaner serves what waits at a
line and then writes its dirty bytes home, and leaves exclusive and privatised copies alone; a background walk installs its translation.
Where it rests on the model's own choices: log entries 10 and 50. -/
def Sys2Proof.Claims.CoherenceMoves : Prop :=
  ∀ (s : State) (k who : Nat),
    (∀ i x t, s.homes.invals[k]? = some i → askCore i.core i.pline i.ask s = .ok x t →
      let a : Ack := ⟨i.pline, i.core, i.ask, x.mask, x.data, x.ctx, x.engine⟩
      exec (.l1Invalidation k) s = .next { t with homes := { t.homes with
        invals := t.homes.invals.eraseIdx k, acks := t.homes.acks ++ [a] } }) ∧
    (∀ a, s.homes.acks[k]? = some a →
      let s0 := { s with homes := { s.homes with acks := s.homes.acks.eraseIdx k } }
      ((s.dirOf a.pline).busy = none → exec (.homeAcknowledgement k) s = .next s0) ∧
      (∀ r s1 s2, (s.dirOf a.pline).busy = some r → applyAck a r s0 = .ok () s1 →
        let dx := r.dx ||| a.mask
        setDir a.pline { s1.dirOf a.pline with busy := some { r with
            dx := dx
            gave := if a.mask = 0 then r.gave else (a.core, a.ctx) :: r.gave } } s1 = .ok () s2 →
        let open' := s2.homes.invals.any (·.pline == a.pline) || s2.homes.acks.any (·.pline == a.pline)
        (open' = true → exec (.homeAcknowledgement k) s = .next s2) ∧
        (open' = false → ∀ t, completeBusy afadd a.pline dx s2 = .ok () t → exec (.homeAcknowledgement k) s = .next t))) ∧
    (∀ r, s.headReq k = some r → (foreignWords (s.dirOf r.pline) r &&& wordsOf r.mask) ≠ 0 →
      moves s (.forwardedAccess k) (do unqueue k; deliver r (← serveWhole afadd r))) ∧
    (∀ l p now t0, (s.core who).l1[k]? = some l → l.home = .here p → s.run.oracle = [] →
      s.cutOff who (homeDie p) = false → settledLine who l s = .ok now t0 →
      let runs := exec (.backgroundCleaner who k) s
      (now = none → runs = .next t0) ∧
      (∀ x, now = some x → x.kind = .exclusive ∨ x.kind = .privatised → runs = .next t0) ∧
      (∀ x, now = some x → x.kind = .self → x.reg = 0 → x.dirty = 0 →
        ∃ t, runs = .next t ∧ t.mem = t0.mem ∧ t.homes = t0.homes ∧ t.threads = t0.threads) ∧
      (∀ x t, now = some x → x.kind = .self → x.reg = 0 → x.dirty ≠ 0 →
        (do clearDirty who x x.dirty
            let _ ← serve (lineReq who x p .wbs x.dirty) : M Unit) t0 = .ok () t → runs = .next t)) ∧
    (∀ l p t, (s.core who).l1[k]? = some l → l.home = .here p → l.kind = .self → l.reg = 0 → s.run.oracle = [] →
      s.cutOff who (homeDie p) = true →
      (do clearDirty who l l.dirty; loseMarks l l.dirty (some 1) : M Unit) s = .ok () t →
      exec (.backgroundCleaner who k) s = .next t) ∧
    (∀ w, s.walks[k]? = some w →
      let v : View := ⟨w.thread / 8, match w.space with | .ctx _ => true | _ => false,
                       match w.space with | .ctx n => n | _ => 0⟩
      (∀ f s1, walk v w.va 0 0 s = .error (.trap f) s1 →
        exec (.pageWalk k) s = .next { s1 with walks := s1.walks.eraseIdx k }) ∧
      (∀ p s1, walk v w.va 0 0 s = .ok p s1 → isHub v.who = false →
        ∃ t, exec (.pageWalk k) s = .next t ∧ t.walks = s1.walks.eraseIdx k ∧ t.mem = s1.mem ∧
          (t.cluster (v.who / 8)).tlb = addTlb 1024 (s1.cluster (v.who / 8)).tlb { p with kept := some w.thread }))


namespace Claims

/-- The state in which a die's group is as given. -/
def groupNow (s : State) (die gn : Nat) (x : Group) : State :=
  s.setDie die { s.die die with groups := (s.die die).groups.put gn x }

/-- The state in which a die's barrier is as given. -/
def barrierNow (s : State) (die n : Nat) (x : Barrier) : State :=
  s.setDie die { s.die die with bars := (s.die die).bars.put n x }

end Claims

/-- R285 and R295: PUT, PUTH and GMCAST check their operands, release, and fork; a PUT with NOTE takes a slot of its channel at
issue, and a PUTH reads its bytes at issue. The release is at DOMAIN where a page of the destination, or the note's channel,
is another device's.
Where it rests on the model's own choices: log entries 14 and 41. -/
def Obligations.PutForks : Prop :=
  ∀ (s : State) (d a b : Reg) (e f : Bool) (obj : Nat), quiet s → full s a → full s b → full s (b + 1) → full s d →
    (cur s).lists = [] → noRemote s →
    let s' := s.askAgain
    let z := g s (b + 1)
    let x := (g s a).toNat % 2 ^ 52
    let y := (g s b).toNat % 2 ^ 52
    let n := z.toNat % 2 ^ 24
    let k := s.run.cur
    let before : M Unit := do
      let k ← me
      let there ← (pagesOf y n).mapM scopeOf
      release k (← if there.contains .domain then pure Scope.domain else scopeOf obj)
    let read : M (List Byte) := do readVa (← threadAgent) x n (accessInfo 0 false false 3 false false)
    let took := fun (die num : Nat) => do
      before
      let k ← me
      match ← takeSlot die num k with
      | none => park (.send (die * 4096 + num))
      | some idx => return idx
    (checkObject (g s d) s' = .ok obj s' → putReserved z = false → (∀ p ∈ pieces y n, isLocal p.1 = false) →
      checkRange x n false s' = .ok () s' →
      (z.getLsbD 48 = false →
        carriedFrom s' s (.put d a b e f) before
          (fun _ t => moved ((forked t (.put x y n none none (z.toNat / 2 ^ 32 % 64)) obj 3).dropWaits k) 4) ∧
        carriedFrom s' s (.puth d a b e f) (do before; read)
          (fun bs t => moved ((forked t (.put x y n (some bs) none (z.toNat / 2 ^ 32 % 64)) obj 4).dropWaits k) 4)) ∧
      (z.getLsbD 48 = true → ∀ die num, checkNote z s' = .ok (die, num) s' → (s.channel die num).remote.isSome = true →
        let far : M Unit := do
          let k ← me
          let _ ← (pagesOf y n).mapM scopeOf
          release k .domain
        carriedFrom s' s (.put d a b e f) far
          (fun _ t => moved ((forked t (.put x y n none (some (die, num, 0)) (z.toNat / 2 ^ 32 % 64)) obj 3).dropWaits k) 4) ∧
        carriedFrom s' s (.puth d a b e f) (do far; read)
          (fun bs t => moved
            ((forked t (.put x y n (some bs) (some (die, num, 0)) (z.toNat / 2 ^ 32 % 64)) obj 4).dropWaits k) 4)) ∧
      (z.getLsbD 48 = true → ∀ die num, checkNote z s' = .ok (die, num) s' → (s.channel die num).remote = none →
        carriedFrom s' s (.put d a b e f) (took die num)
          (fun idx t => moved
            ((forked t (.put x y n none (some (die, num, idx)) (z.toNat / 2 ^ 32 % 64)) obj 3).dropWaits k) 4) ∧
        carriedFrom s' s (.puth d a b e f) (do let idx ← took die num; return (idx, ← read))
          (fun r t => moved
            ((forked t (.put x y n (some r.2) (some (die, num, r.1)) (z.toNat / 2 ^ 32 % 64)) obj 4).dropWaits k) 4))) ∧
    (∀ gr, checkObject (g s d) s = .ok obj s → z.toNat / 2 ^ 8 % 2 ^ 8 = 0 → z.toNat < 2 ^ 32 → checkGroup z false s = .ok gr s →
      checkRange x (z.toNat / 2 ^ 16) false s = .ok () s → y / 2 ^ 44 = 0xF0 →
      y % 2 ^ 44 + z.toNat / 2 ^ 16 ≤ 2 ^ 16 →
      carried s (.gmcast d a b e f) (objectRelease obj) (fun _ t => moved
        (forked t (.gmcast (dieOf (t.run.cur / 8)) (z.toNat % 256) x (y % 2 ^ 44) (z.toNat / 2 ^ 16) gr.members) obj 1) 4))

/-- R289, R294, R296, R297: GINFO reports a group of the issuing context; GRED joins the first open reduction of its group
that its core has not joined; GSET adds and removes members, binds and frees a group, between a release and an acquire, and
answers 0, or its status with nothing changed.
Where it rests on the model's own choices: log entries 14, 41 and 54. -/
def Sys2Proof.Claims.GroupResults : Prop :=
  ∀ (s s1 : State) (d a b : Reg) (e f : Bool), quiet s → full s a → full s b → full s (b + 1) → free s d →
    (cur s).lists = [] →
    let k := s.run.cur
    let die := dieOf (k / 8)
    let gr := s.group die (g s a).toNat
    ((g s a).toNat < 256 → gr.st = .bound → gr.ctx = (cur s).kern.ctxid.toNat →
      (g s b = 0 → exec (.ginfo d a b e f) s = .next (wrote s 4 d (BitVec.ofNat 64
        ((if gr.members.contains (k / 8) then (gr.members.filter fun m => decide (m < k / 8)).length + 2 ^ 26 else 0xFFF)
          + gr.members.length * 2 ^ 12 + 1 * 2 ^ 24)))) ∧
      (0x1000 ≤ (g s b).toNat → (g s b).toNat - 0x1000 < gr.members.length →
        exec (.ginfo d a b e f) s =
          .next (wrote s 4 d (BitVec.ofNat 64 (gr.members.getD ((g s b).toNat - 0x1000) 0))))) ∧
    (release k .die s = .ok () s1 → s1.run.cur = k →
      let last := fun (s3 : State) (st : Word) => ∀ t, acquire k .die (wrote s3 0 d st) = .ok () t → t.run.cur = k →
        quiet t → exec (.gset d a b e f) s = .next (moved t 4)
      (∀ st, gsetRefusal s1 die (g s a) (g s b) = some st → last s1 (BitVec.ofNat 64 st)) ∧
      (gsetRefusal s1 die (g s a) (g s b) = none → ∀ s2, gsetApply die (g s a) (g s b) s1 = .ok () s2 →
        s2.run.cur = k → last s2 0)) ∧
    (∀ obj gg n w, full s d → checkObject (g s d) s = .ok obj s →
      let z := g s (b + 1)
      let x := (g s a).toNat % 2 ^ 52
      let y := (g s b).toNat % 2 ^ 52
      z.toNat / 2 ^ 12 % 16 = 0 → z.toNat < 2 ^ 27 → n = z.toNat / 2 ^ 16 → 1 ≤ n → n ≤ 1024 → z.toNat / 2 ^ 8 % 16 < 12 →
      checkGroup z true s = .ok gg s → w = redBytes (z.toNat / 2 ^ 8 % 16) → x % w = 0 → y % w = 0 →
      checkRange x (n * w) false s = .ok () s → checkRange y (n * w) true s = .ok () s →
      s.gredsOf die (z.toNat % 256) (k / 8) < 2 →
      carried s (.gred d a b e f) (objectRelease obj) (fun _ t =>
        let old := t.group die (z.toNat % 256)
        let joined := joinRed ⟨k / 8, k, BitVec.ofNat 64 x, BitVec.ofNat 64 y, z, BitVec.ofNat 64 obj⟩ old.reds
        moved (Claims.groupNow t die (z.toNat % 256) { old with reds := joined }) 4))

/-- R296: a reduction that every member has joined folds the members' elements in rank order, writes the result to every
member, and leaves the group's list; the members' completion adds follow.
Where it rests on the model's own choices: log entries 22 and 51. -/
def Sys2Proof.Claims.ReductionPerformed : Prop :=
  ∀ (s s1 s2 s3 t : State) (die : BitVec 2) (gn : BitVec 8) (arr : List GredArrival) (rest : List (List GredArrival))
    (f : Option Trap),
    let gr := s.group die.toNat gn.toNat
    let who := 2 ^ 34 + die.toNat * 2 ^ 8 + gn.toNat
    gr.reds = arr :: rest → gr.st = .bound → (∀ m ∈ gr.members, ∃ a ∈ arr, a.who = m) →
    let mine := gr.members.filterMap fun m => arr.find? fun a => a.who == m
    (∀ a ∈ mine, ∀ b ∈ mine, a.ctl = b.ctl) →
    reduceAll die.toNat gn.toNat gr.ctx mine s.askAgain = .ok f s1 →
    s2 = Claims.groupNow s1 die.toNat gn.toNat { s1.group die.toNat gn.toNat with reds := rest, work := none } →
    redAdds die.toNat gn.toNat gr.ctx mine f false s2 = .ok () s3 →
    performAdds die.toNat gn.toNat (s3.dropWaits who) = .ok () t →
    exec (.gredReduction die gn) s = .next t

/-- R298 to R305: an arrival is counted once per core and phase, and the arrival that reaches COUNT completes the phase; a wait
for a phase that is over acquires and answers it, and a wait for the current one parks; BARCFG sets a barrier nobody waits
on; BARQ reports it.
Where it rests on the model's own choices: log entry 48. -/
def Sys2Proof.Claims.BarrierResults : Prop :=
  ∀ (s : State) (d a b : Reg) (e f : Bool), quiet s → full s a → full s b → free s d → (cur s).lists = [] →
    let k := s.run.cur
    let die := dieOf (k / 8)
    let n := (g s a).toNat
    let bar := s.barrier die n
    n < 512 → bar.st ≠ .free → bar.ctx = (cur s).kern.ctxid.toNat →
    (g s b = 0 → exec (.barq d a b e f) s = .next (wrote s 4 d (BitVec.ofNat 64
      ((match bar.st with | .free => 0 | .idle => 1 | .filling => 2 | .broken => 3) + bar.arr.length * 2 ^ 2 +
        (if bar.count = 0 then (s.group die bar.group).members.length else bar.count) * 2 ^ 14 +
        (if bar.arr.contains (k / 8) then 2 ^ 26 else 0) + bar.group * 2 ^ 27)))) ∧
    (g s b = 1 → exec (.barq d a b e f) s = .next (wrote s 4 d (BitVec.ofNat 64 bar.phase.toNat))) ∧
    (∀ s1, release k .die s = .ok () s1 → s1.run.cur = k → (s1.barrier die n) = bar →
      let y := (g s b).toNat
      y / 2 ^ 12 % 16 = 0 → y < 2 ^ 40 → y % 2 ^ 12 ≤ 2048 → s1.parkedOn die n = [] →
      let wd := if y / 2 ^ 16 = 0 then 1000000 else y / 2 ^ 16
      let set : Barrier := { bar with count := y % 2 ^ 12, wd := wd, arr := [], last := [], st := .idle }
      carriedFrom (wrote (Claims.barrierNow s1 die n set) 0 d 0) s
        (.barcfg d a b e f) (acquire k .die) (fun _ t => moved t 4)) ∧
    ((s.group die bar.group).members.contains (k / 8) = true → bar.st ≠ .broken →
      (bar.arr.contains (k / 8) = false →
        carried s (.bararr d a e) (do release (← me) .die; arriveAt die n)
          (fun ph t => wrote t 4 d (BitVec.setWidth 64 ph)) ∧
        ((cur s).arrived = none →
          carried s (.bararw d a e) (do release (← me) .die; awaitPhase die n (← arriveAt die n) d)
            (fun _ t => moved t 4))) ∧
      ((cur s).arrived = none → bar.last.find? (k / 8) = none →
        carried s (.barwait d a e) (grantPoint k) (fun _ t => wrote t 4 d (BitVec.allOnes 64))) ∧
      (∀ ph, (cur s).arrived = none → bar.last.find? (k / 8) = some ph →
        (bar.phase = ph → exec (.barwait d a e) s = .next (s.setThread k
          { cur s with arrived := some (die, n, ph.toNat), st := .parked (.barwait die n ph.toNat) })) ∧
        (bar.phase ≠ ph → carried s (.barwait d a e) (do acquire k .die; grantPoint k)
          (fun _ t => (t.setThread k { wroteT (cur t) (some false) 4 d (BitVec.setWidth 64 ph) with arrived := none })))))

/-- R299 and R300: what an arrival does to its barrier: the core is in the set and its phase is noted; with COUNT reached the
set is empty again, the phase is one higher, and threads parked on the old phase are RUNNABLE; the watchdog breaks a filling
barrier whose deadline has come.
Where it rests on the model's own choices: log entry 48. -/
def Sys2Proof.Claims.BarrierPhases : Prop :=
  ∀ (s : State) (die n : Nat),
    let bar := s.barrier die n
    let who := s.run.cur / 8
    let need := if bar.count = 0 then (s.group die bar.group).members.length else bar.count
    (bar.st = .idle ∨ bar.st = .filling → bar.arr.length + 1 < need →
      ∃ t, arriveAt die n s = .ok bar.phase t ∧ (t.barrier die n).arr = bar.arr ++ [who] ∧
        (t.barrier die n).st = .filling ∧ (t.barrier die n).phase = bar.phase ∧
        (t.barrier die n).last.find? who = some bar.phase ∧ t.threads = s.threads ∧ t.mem = s.mem) ∧
    (bar.st = .idle ∨ bar.st = .filling → need ≤ bar.arr.length + 1 →
      ∃ t, arriveAt die n s = .ok bar.phase t ∧ (t.barrier die n).arr = [] ∧ (t.barrier die n).st = .idle ∧
        (t.barrier die n).phase = bar.phase + 1 ∧ t.mem = s.mem ∧
        (∀ k x, (k, x) ∈ s.threads → x.st = .parked (.barwait die n bar.phase.toNat) →
          (k, { x with st := .runnable }) ∈ t.threads)) ∧
    (∀ (dd : BitVec 2) (nn : BitVec 9), dd.toNat = die → nn.toNat = n →
      (bar.st = .filling → bar.paused = none → bar.deadline ≤ s.time → moves s (.barrierWatchdog dd nn) (breakBarrier die n 0)) ∧
      (s.time < bar.deadline → exec (.barrierWatchdog dd nn) s = .next s))


namespace Sys2Proof.Claims
open Sys2Proof.Machine

/-- The vector state of the issuing thread. -/
def vec (s : State) : Vec := (cur s).vec

/-- Lane `j` of a v register of the issuing thread. -/
def lane (s : State) (r : Reg) (j : Nat) : BitVec 32 := (vec s).lane r j

/-- A lane is active: its number is below VLEN and its bit of the named mask is 1; mask 0 is all ones (R211). -/
def acts (s : State) (m : BitVec 3) (j : Nat) : Bool :=
  decide (j < (vec s).vlen) && decide (j < 256) && (m == 0 || ((vec s).m[m.toNat]).getLsbD j)

/-- The active lanes, lowest first. -/
def actives (s : State) (m : BitVec 3) : List Nat := (List.range (vec s).vlen).filter (acts s m)

/-- The state that differs from `s` in the issuing thread's vector state and PC alone. -/
def vectored (s : State) (len : Nat) (v : Vec) : State :=
  s.setThread s.run.cur { cur s with vec := v, pc := (cur s).pc + BitVec.ofNat 52 len }

/-- The grants agree. -/
def sameGrant (v v' : Vec) : Prop := v'.vlen = v.vlen ∧ v'.target = v.target ∧ v'.groups = v.groups

/-- The vector state differs from that of `s` in the active lanes of `d` alone, which hold `f`. -/
def lanesOf (s : State) (d : Reg) (m : BitVec 3) (f : Nat → BitVec 32) (v : Vec) : Prop :=
  sameGrant (vec s) v ∧ v.m = (vec s).m ∧
    ∀ (r : Reg) (j : Nat), j < 256 → v.lane r j = if r = d ∧ acts s m j = true then f j else lane s r j

/-- The vector state differs from that of `s` in mask `d` alone: an active lane's bit says `f`, any other bit is 0; a write
to m0 is ignored (R211, R220). -/
def bitsOf (s : State) (d m : BitVec 3) (f : Nat → Bool) (v : Vec) : Prop :=
  sameGrant (vec s) v ∧ v.v = (vec s).v ∧ (d = 0 → v.m = (vec s).m) ∧
    (∀ n : BitVec 3, n ≠ d → v.m[n.toNat] = (vec s).m[n.toNat]) ∧
    (d ≠ 0 → ∀ j, j < 256 → (v.m[d.toNat]).getLsbD j = (acts s m j && f j))

/-- The instruction answers lanes `f` in `d` and changes nothing else. -/
def setsLanes (s : State) (i : Instr) (d : Reg) (m : BitVec 3) (f : Nat → BitVec 32) : Prop :=
  ∃ v, lanesOf s d m f v ∧ exec i s = .next (vectored s 4 v)

/-- The instruction answers mask `d` from the bits `f` and changes nothing else. -/
def setsBits (s : State) (i : Instr) (d m : BitVec 3) (f : Nat → Bool) : Prop :=
  ∃ v, bitsOf s d m f v ∧ exec i s = .next (vectored s 4 v)

/-- The flags of the active lanes together. -/
def laneFlags (s : State) (m : BitVec 3) (f : Nat → Nat) : Nat := (actives s m).foldl (fun x j => x ||| f j) 0

/-- The flags set in FPF of the issuing thread (R30). -/
def flagged (s : State) (flags : Nat) : State :=
  s.setThread s.run.cur { cur s with
    ctl := { (cur s).ctl with fpf := (cur s).ctl.fpf ||| BitVec.ofNat 64 (flags % 64) } }

/-- What a vector floating-point instruction into a v register comes to in lane `j` (R44, R221, R222, R223): destination,
mask, result and flags, under the FPC that is sampled at issue. -/
def vfOf (s : State) (i : Instr) : Option (Reg × BitVec 3 × (Nat → Nat × Nat)) :=
  let c := mode s
  let two := fun (d a b : Reg) (m : BitVec 3) (op : Fmt → Ctrl → Nat → Nat → Nat × Nat) =>
    some (d, m, fun j => op .fp32 c (lane s a j).toNat (lane s b j).toNat)
  let uno := fun (d a : Reg) (m : BitVec 3) (op : Ctrl → Nat → Nat × Nat) => some (d, m, fun j => op c (lane s a j).toNat)
  match i with
  | .vfadd d a b m => two d a b m fAdd
  | .vfsub d a b m => two d a b m fSub
  | .vfmul d a b m => two d a b m fMul
  | .vfdiv d a b m => two d a b m fDiv
  | .vfmin d a b m => two d a b m fun f c => fMinMax f c false
  | .vfmax d a b m => two d a b m fun f c => fMinMax f c true
  | .vffma d a b m => some (d, m, fun j => fFma .fp32 c (lane s a j).toNat (lane s b j).toNat (lane s d j).toNat)
  | .vfneg d a m => uno d a m fun c => fSign .fp32 c false
  | .vfabs d a m => uno d a m fun c => fSign .fp32 c true
  | .vexp2 d a m => uno d a m fExp2
  | .vlog2 d a m => uno d a m fLog2
  | .vrcp d a m => uno d a m fRcp
  | .vrsqrt d a m => uno d a m fRsqrt
  | .vcvtfi d a m => uno d a m fun c x => toInt 32 c.rm (Fmt.fp32.operand c.ftz x)
  | .vcvtif d a m => uno d a m fun c x => ofInt .fp32 c (BitVec.ofNat 32 x).toInt
  | _ => none

/-- What a vector floating-point compare comes to in lane `j` (R221): mask destination, mask, bit and flags. -/
def vcOf (s : State) (i : Instr) : Option (BitVec 3 × BitVec 3 × (Nat → Bool × Nat)) :=
  let two := fun (d m : BitVec 3) (a b : Reg) (op : Fmt → Ctrl → Nat → Nat → Bool × Nat) =>
    some (d, m, fun j => op .fp32 (mode s) (lane s a j).toNat (lane s b j).toNat)
  match i with
  | .vfeq d a b m => two d m a b fEq
  | .vflt d a b m => two d m a b fLt
  | .vfle d a b m => two d m a b fLe
  | _ => none

/-- The target of a claim (R217). -/
def claim (req : Nat) : Nat := if req > 200 then 200 else if (req + 7) / 8 * 8 < 8 then 8 else (req + 7) / 8 * 8

end Sys2Proof.Claims

/-- R211, R219, R220: the integer lane operations write the active lanes of vd, or the mask that vd names, and nothing
else. -/
def Obligations.VectorIntegerResults : Prop :=
  ∀ (s : State) (d a b : Reg) (k m : BitVec 3), quiet s →
    let x := lane s a
    let y := lane s b
    setsLanes s (.vadd d a b m) d m (fun j => BitVec.ofNat 32 ((x j).toNat + (y j).toNat)) ∧
    setsLanes s (.vsub d a b m) d m (fun j => BitVec.ofInt 32 ((x j).toInt - (y j).toInt)) ∧
    setsLanes s (.vmul d a b m) d m (fun j => BitVec.ofNat 32 ((x j).toNat * (y j).toNat)) ∧
    setsLanes s (.vmin d a b m) d m (fun j => BitVec.ofInt 32 (min (x j).toInt (y j).toInt)) ∧
    setsLanes s (.vmax d a b m) d m (fun j => BitVec.ofInt 32 (max (x j).toInt (y j).toInt)) ∧
    setsLanes s (.vminn d a b m) d m (fun j => BitVec.ofNat 32 (min (x j).toNat (y j).toNat)) ∧
    setsLanes s (.vmaxn d a b m) d m (fun j => BitVec.ofNat 32 (max (x j).toNat (y j).toNat)) ∧
    setsLanes s (.vand d a b m) d m (fun j => x j &&& y j) ∧
    setsLanes s (.vor d a b m) d m (fun j => x j ||| y j) ∧
    setsLanes s (.vxor d a b m) d m (fun j => x j ^^^ y j) ∧
    setsLanes s (.vsll d a b m) d m (fun j => BitVec.ofNat 32 ((x j).toNat * 2 ^ ((y j).toNat % 32))) ∧
    setsLanes s (.vsrl d a b m) d m (fun j => BitVec.ofNat 32 ((x j).toNat / 2 ^ ((y j).toNat % 32))) ∧
    setsLanes s (.vsra d a b m) d m (fun j => BitVec.ofInt 32 ((x j).toInt.fdiv (2 ^ ((y j).toNat % 32)))) ∧
    setsBits s (.vcmpeq k a b m) k m (fun j => decide (x j = y j)) ∧
    setsBits s (.vcmplt k a b m) k m (fun j => decide ((x j).toInt < (y j).toInt)) ∧
    setsBits s (.vcmpltn k a b m) k m (fun j => decide ((x j).toNat < (y j).toNat))

/-- R31, R219 to R223: a vector floating-point instruction whose active lanes raise no enabled flag writes each active lane's
result, or each lane's bit of its mask, sets the flags of its active lanes in FPF, and changes nothing else; a compare into
m0 performs nothing visible.
Where it rests on the model's own choices: log entry 55. -/
def Sys2Proof.Claims.VectorFloatResults : Prop :=
  ∀ (s : State) (i : Instr), quiet s →
    (∀ d m f, vfOf s i = some (d, m, f) → laneFlags s m (fun j => (f j).2) &&& enables s = 0 →
      ∃ v, lanesOf s d m (fun j => BitVec.ofNat 32 (f j).1) v ∧
        exec i s = .next (vectored (flagged s (laneFlags s m fun j => (f j).2)) 4 v)) ∧
    (∀ d m f, vcOf s i = some (d, m, f) →
      (d = 0 → exec i s = .next (moved s 4)) ∧
      (d ≠ 0 → laneFlags s m (fun j => (f j).2) &&& enables s = 0 →
        ∃ v, bitsOf s d m (fun j => (f j).1) v ∧
          exec i s = .next (vectored (flagged s (laneFlags s m fun j => (f j).2)) 4 v)))

/-- R219, R233: where an active lane raises an enabled flag, the results and flags are the same and the thread, if its traps
do not enter the local vector, sends one message and parks with reason FPX; FINFO holds the flags, VEC 1, and the lowest
active lane that raised an enabled one. -/
def Sys2Proof.Claims.VectorFloatExceptionParks : Prop :=
  ∀ (s : State) (i : Instr) (d : Reg) (m : BitVec 3) (f : Nat → Nat × Nat), quiet s → vfOf s i = some (d, m, f) →
    localVector s.run.cur (cur s) = false →
    let all := laneFlags s m fun j => (f j).2
    all &&& enables s ≠ 0 →
    ∃ t m' v low, exec i s = .next t ∧ t.sysmsgs = s.sysmsgs ++ [m'] ∧ (cur t).st = .parked .fpx ∧ (cur t).vec = v ∧
      lanesOf s d m (fun j => BitVec.ofNat 32 (f j).1) v ∧ (cur t).pc = (cur s).pc + 4 ∧ (cur t).g = (cur s).g ∧
      (cur t).ctl.fpf = (cur s).ctl.fpf ||| BitVec.ofNat 64 (all % 64) ∧
      low ∈ actives s m ∧ (f low).2 &&& enables s ≠ 0 ∧ (∀ j ∈ actives s m, j < low → (f j).2 &&& enables s = 0) ∧
      (cur t).ctl.faddr = BitVec.setWidth 64 (cur s).pc ∧
      (cur t).ctl.finfo = BitVec.ofNat 64 (all % 32 + (all &&& enables s) * 2 ^ 5 + 2 ^ 10 + low * 2 ^ 11) ∧
      t.mem = s.mem ∧ t.cores = s.cores

/-- R211, R223, R224: data movement, the integer reduction and the mask instructions. -/
def Sys2Proof.Claims.VectorMoves : Prop :=
  ∀ (s : State) (d a b : Reg) (k p q m : BitVec 3), quiet s → full s a → full s b → free s d →
    let n := (vec s).vlen
    setsLanes s (.vbcast d a m) d m (fun _ => (g s a).setWidth 32) ∧
    setsLanes s (.vidx d m) d m (fun j => BitVec.ofNat 32 j) ∧
    setsLanes s (.vsel d a b m) d 0 (fun j => if acts s m j then lane s a j else lane s b j) ∧
    setsLanes s (.vperm d a b m) d m (fun j => if (lane s b j).toNat < n then lane s a (lane s b j).toNat else 0) ∧
    exec (.vext d a b) s = .next (wrote s 4 d
      (if (g s b).toNat < n then BitVec.ofNat 64 (lane s a (g s b).toNat).toNat else 0)) ∧
    exec (.vrsum d a m) s = .next (wrote s 4 d
      (BitVec.ofInt 64 (BitVec.ofNat 32 ((actives s m).map fun j => (lane s a j).toNat).sum).toInt)) ∧
    setsBits s (.mand k p q) k 0 (fun j => acts s p j && acts s q j) ∧
    setsBits s (.mor k p q) k 0 (fun j => acts s p j || acts s q j) ∧
    setsBits s (.mnot k p) k 0 (fun j => !acts s p j) ∧
    exec (.mpop d p) s = .next (wrote s 4 d (BitVec.ofNat 64 (actives s p).length)) ∧
    setsBits s (.mset k a) k 0 (fun j => decide (j < (g s a).toNat))

/-- R45: VFRSUM and VFRMAX combine the granted lanes pairwise in lane order, an inactive lane being absent; with no active
lane they answer +0 and −inf. With VLEN 8 and every lane active the order is ((l0 + l1) + (l2 + l3)) + ((l4 + l5) +
(l6 + l7)). -/
def Sys2Proof.Claims.VectorReductions : Prop :=
  ∀ (s : State) (d a : Reg) (m : BitVec 3), quiet s → free s d →
    let lanes := (List.range (vec s).vlen).map fun j => if acts s m j then some ((lane s a j).toNat, j) else none
    let sum := tree (fAdd .fp32 (mode s)) 8 lanes []
    let top := tree (fMinMax .fp32 (mode s) true) 8 lanes []
    let flags := fun (l : List (Nat × Nat)) => l.foldl (fun x p => x ||| p.2) 0
    let gives := fun (i : Instr) (none' : Nat) (r : Partial × List (Nat × Nat)) =>
      flags r.2 &&& enables s = 0 → exec i s = .next (flagged (wrote s 4 d (BitVec.ofNat 64
        (match r.1 with | some x => x.1 | none => none'))) (flags r.2))
    gives (.vfrsum d a m) 0 sum ∧ gives (.vfrmax d a m) 0xFF800000 top ∧
    (actives s m = [] → sum.1 = none ∧ top.1 = none) ∧
    ((vec s).vlen = 8 → m = 0 →
      let l := fun (j : Nat) => (lane s a j).toNat
      let add := fun (x y : Nat) => (fAdd .fp32 (mode s) x y).1
      sum.1.map (·.1) =
        some (add (add (add (l 0) (l 1)) (add (l 2) (l 3))) (add (add (l 4) (l 5)) (add (l 6) (l 7)))))

/-- R212 to R218: VCLAIM takes the free groups it can get, or gives lanes up, and answers the grant; the lanes it gains read
zero, the lanes it keeps keep their contents, and the groups it gives up are free; VREL is a claim of 8; VLEN reads the
grant; on a hub core the grant is 32 and does not change. -/
def Obligations.GrantResults : Prop :=
  ∀ (s : State) (d a : Reg) (e : Bool), quiet s → full s a → free s d →
    let k := s.run.cur
    let n := (vec s).vlen
    let T := claim (g s a).toNat
    let free := (List.range 24).filter fun x => ((cluster s).pool.find? x).isNone
    let keeps := fun (t : State) (w : Nat) => ∀ (r : Reg) (j : Nat), j < 256 →
      lane t r j = if j < w then lane s r j else 0
    let masks := fun (t : State) (w : Nat) => ∀ (q : BitVec 3) (j : Nat), j < 256 →
      ((vec t).m[q.toNat]).getLsbD j = (decide (j < w) && ((vec s).m[q.toNat]).getLsbD j)
    let rest := fun (t : State) (len : Nat) => (cur t).pc = (cur s).pc + BitVec.ofNat 52 len ∧ t.cores = s.cores ∧
      t.dies = s.dies ∧ (∀ j, j ≠ k → t.thread j = s.thread j)
    exec (.vlen d) s = .next (wrote s 4 d (BitVec.ofNat 64 n)) ∧
    (isHub (k / 8) = true →
      exec (.vclaim d a e) s = .next (wrote s 4 d 32) ∧ exec .vrel s = .next (moved s 4)) ∧
    (isHub (k / 8) = false → T ≤ n →
      ∃ t, exec (.vclaim d a e) s = .next t ∧ rest t 4 ∧ (vec t).vlen = T ∧ (vec t).target = T ∧
        (vec t).groups = (vec s).groups.take (T / 8 - 1) ∧ keeps t T ∧ masks t T ∧ t.mem = s.mem ∧
        (cur t).reg d = (if d = 0 then 0 else BitVec.ofNat 64 T) ∧ (∀ q, q ≠ d → (cur t).reg q = g s q) ∧
        (∀ x, (cluster t).pool.find? x =
          if x ∈ (vec s).groups.drop (T / 8 - 1) then none else (cluster s).pool.find? x)) ∧
    (isHub (k / 8) = false → n < T →
      let got := free.take ((T - n) / 8)
      ∃ t, exec (.vclaim d a e) s = .next t ∧ rest t 4 ∧ (vec t).vlen = n + 8 * got.length ∧ (vec t).target = T ∧
        (vec t).groups = (vec s).groups ++ got ∧ keeps t n ∧ masks t n ∧
        (cur t).reg d = (if d = 0 then 0 else BitVec.ofNat 64 (n + 8 * got.length)) ∧
        (∀ q, q ≠ d → (cur t).reg q = g s q) ∧
        (∀ x, (cluster t).pool.find? x = if x ∈ got then some k else (cluster s).pool.find? x) ∧
        t.mem = got.foldl (fun mm x => mm.zero (placePool (k / 64) x 0) (2 ^ 13)) s.mem) ∧
    (isHub (k / 8) = false → 8 ≤ n →
      ∃ t, exec .vrel s = .next t ∧ rest t 4 ∧ (vec t).vlen = 8 ∧ (vec t).target = 8 ∧ (vec t).groups = [] ∧ keeps t 8 ∧
        masks t 8 ∧ t.mem = s.mem ∧ (∀ q, (cur t).reg q = g s q))


namespace Sys2Proof.Claims
open Sys2Proof.Machine

/-- Where lane `j` of a vector memory instruction finds its element (R226): base plus a signed number of bytes, modulo
2^52. -/
def elementAt (base : Word) (off : Int) : Nat := ((base.toNat + off) % (2 ^ 52 : Int)).toNat

/-- Every active lane's element is aligned and lies in the local window, at the given place and in a region that the access
may use. -/
def allLocal (s : State) (m : BitVec 3) (n : Nat) (store : Bool) (va place : Nat → Nat) : Prop :=
  ∀ j ∈ actives s m, va j % n = 0 ∧ ∃ region, localPlace s (va j) n store = some (place j, region)

/-- The state after the active lanes store, lowest first, so that a higher lane's element comes later (R229). -/
def laneStored (s : State) (lanes : List Nat) (place : Nat → Nat) (bs : Nat → List Byte) : State :=
  lanes.foldl (fun t j => stored t (place j) (bs j)) s

/-- The format codes that every vector memory instruction accepts (R226). -/
abbrev accepted (code : Nat) : Prop := code ≤ 7 ∨ code = 0x0C

/-- Bytes of an element (R225). -/
def elementBytes (code : Nat) : Nat :=
  if code = 2 ∨ code = 3 ∨ code = 7 then 2 else if code = 4 ∨ code = 5 ∨ code = 6 then 1 else if code = 0x0C then 8 else 4

end Sys2Proof.Claims

/-- R36, R116, R225 to R229: a vector load or gather whose active elements lie in the local window gives each active lane its
element, widened from its format, and a vector store or scatter outside collecting mode stores each active lane's element,
narrowed to its format; the flags go to FPF, where none is enabled, and nothing else changes.
Where it rests on the model's own choices: log entry 9. -/
def Sys2Proof.Claims.VectorMemoryResults : Prop :=
  ∀ (s : State) (p e : Bool) (d a x : Reg) (l : Policy) (m : BitVec 3) (place : Nat → Nat),
    quiet s → ready p s a → ready p s x → noRemote s →
    let w := g s a
    let code := w.toNat / 2 ^ 58
    let n := elementBytes code
    accepted code → w.toNat / 2 ^ 52 % 64 = 0 →
    let unit := fun (j : Nat) => elementAt w (((g s x).toInt + j) * n)
    let strided := fun (j : Nat) => elementAt w (j * (g s x).toInt)
    let indexed := fun (j : Nat) => elementAt w ((lane s (d + 1) j).toInt * n)
    let loads := fun (i : Instr) (va : Nat → Nat) => allLocal s m n false va place →
      (∀ j ∈ actives s m, sound s (place j) n) →
      let r := fun (j : Nat) => laneOf code (mode s) (number (s.mem.bytes (place j) n))
      laneFlags s m (fun j => (r j).2) &&& enables s = 0 →
      ∃ v, lanesOf s d m (fun j => BitVec.ofNat 32 (r j).1) v ∧
        exec i s = .next (vectored (flagged s.askAgain (laneFlags s m fun j => (r j).2)) 4 v)
    let stores := fun (i : Instr) (va : Nat → Nat) => (cur s).lists = [] → allLocal s m n true va place →
      let r := fun (j : Nat) => elementOf code (mode s) (lane s d j)
      laneFlags s m (fun j => (r j).2) &&& enables s = 0 →
      let t := laneStored s.askAgain (actives s m) place fun j => lowBytes n (BitVec.ofNat 64 (r j).1)
      exec i s = .next (moved (flagged t (laneFlags s m fun j => (r j).2)) 4)
    loads (.vld p d a x l m e) unit ∧ loads (.vlds p d a x l m e) strided ∧
    stores (.vst p d a x l m e) unit ∧ stores (.vsts p d a x l m e) strided ∧ stores (.vscat p d a l m e) indexed ∧
    (∀ nf : Bool, allLocal s m n false indexed place →
      (∀ j ∈ actives s m, sound s (place j) n) →
      let r := fun (j : Nat) => laneOf code (mode s) (number (s.mem.bytes (place j) n))
      laneFlags s m (fun j => (r j).2) &&& enables s = 0 →
      ∃ v t, exec (.vgath p d a l m nf e) s = .next t ∧ (vec t) = v ∧ t.mem = s.mem ∧
        (∀ (r' : Reg) (j : Nat), j < 256 → v.lane r' j =
          if r' = d ∧ acts s m j = true then BitVec.ofNat 32 (r j).1 else lane s r' j) ∧
        (nf = true → m ≠ 0 → v.m[m.toNat] = 0) ∧ (nf = false → v.m = (vec s).m))

/-- R36, R189, R225 to R229: a vector load or store of any locations is carried by the checks and accesses of its plan: the
active lanes, each with the address of its element.
Where it rests on the model's own choices: log entries 9, 20 and 23. -/
def Obligations.VectorAccessesAreCarried : Prop :=
  ∀ (s : State) (p e : Bool) (d a x : Reg) (l : Policy) (m : BitVec 3), quiet s → ready p s a → ready p s x →
    let w := g s a
    let code := w.toNat / 2 ^ 58
    let n := elementBytes code
    accepted code → w.toNat / 2 ^ 52 % 64 = 0 →
    let plan := fun (store : Bool) (va : Nat → Nat) =>
      ({ code := code, esize := n, pol := l, store := store, lanes := (actives s m).map fun j => (j, [(va j, n)]) } : LanePlan)
    let unit := fun (j : Nat) => elementAt w (((g s x).toInt + j) * n)
    let strided := fun (j : Nat) => elementAt w (j * (g s x).toInt)
    let indexed := fun (j : Nat) => elementAt w ((lane s (d + 1) j).toInt * n)
    let after := fun (_ : Unit) (t : State) => moved t 4
    carried s (.vld p d a x l m e) (vectorLoad d (plan false unit) fun _ => 0) after ∧
    carried s (.vlds p d a x l m e) (vectorLoad d (plan false strided) fun _ => 0) after ∧
    carried s (.vst p d a x l m e) (vectorStore d (plan true unit)) after ∧
    carried s (.vsts p d a x l m e) (vectorStore d (plan true strided)) after ∧
    carried s (.vscat p d a l m e) (vectorStore d (plan true indexed)) after ∧
    carried s (.vgath p d a l m false e) (do vectorLoad d (plan false indexed) fun _ => 0; unkeep (← me)) after

/-- R231: VLDL loads, and outside collecting mode VSTL stores, a 32-bit word of each active lane's own slice.
Where it rests on the model's own choices: log entry 9. -/
def Sys2Proof.Claims.SliceAccesses : Prop :=
  ∀ (s : State) (p e : Bool) (d a x : Reg) (m : BitVec 3), quiet s → ready p s a → ready p s x →
    isHub (s.run.cur / 8) = false →
    let o := ((g s a).toNat + (g s x).toNat) % 2 ^ 64
    let place := fun (j : Nat) => lanePlace (s.run.cur / 8) (vec s) j o
    (actives s m ≠ [] → o % 4 = 0 ∧ o < 1024) →
    ((∀ j ∈ actives s m, sound s (place j) 4) →
      setsLanes s (.vldl p d a x m e) d m (fun j => BitVec.ofNat 32 (number (s.mem.bytes (place j) 4)))) ∧
    ((cur s).lists = [] → exec (.vstl p d a x m e) s = .next (moved
      (laneStored s (actives s m) place fun j => lowBytes 4 (BitVec.ofNat 64 (lane s d j).toNat)) 4))


namespace Sys2Proof.Claims
open Sys2Proof.Machine

/-- The weave array of the issuing thread's cluster. -/
def array (s : State) : Weave := (s.cluster (s.run.cur / 64)).weave

/-- The issuing core's number in its cluster. -/
def slice (s : State) : Nat := s.run.cur / 8 % 8

/-- The state in which the array of the issuing thread's cluster is as given. -/
def weaveNow (s : State) (w : Weave) : State :=
  s.setCluster (s.run.cur / 64) { s.cluster (s.run.cur / 64) with weave := w }

/-- Accumulator `f` of the issuing core's slice of a tile (R254). -/
def accumulator (s : State) (c : Bool) (f : Nat) : Acc := (array s).acc.get (accKey c (f / 16) (16 * slice s + f % 16)) {}

/-- No report is armed for the issuing core on a tile, and no gang operation on the tile holds a place in the queue. -/
abbrev tileFree (s : State) (c : Bool) : Prop :=
  ((if c then 8 else 0) + slice s) ∉ (array s).armed ∧ ∀ o ∈ (array s).queue, o.tile ≠ c

/-- The image of the issuing core's 512 accumulators (R42, R255). -/
def tileImage (s : State) (c : Bool) : List Byte := (List.range 512).flatMap fun f => (accumulator s c f).image

/-- A gang operation's operands as the issuing thread arrives with them (R246). -/
def arrival (s : State) (shaped c set : Bool) (ga gb gd : Word) : Arrival :=
  { thread := s.run.cur, len := 4, shaped := shaped, tile := c, setMode := set, ctx := (cur s).kern.ctxid.toNat,
    ga := ga, gb := gb, gd := gd }

/-- A gang instruction of the issuing thread: MWEAVE, or MWEAVES with its origin register. -/
def gang (shaped : Bool) (d a b : Reg) (c set : Bool) : Instr := if shaped then .mweaves d a b c set else .mweave a b c set

end Sys2Proof.Claims

/-- R42, R43, R253 to R256: MZERO clears the issuing core's slice of a tile; MREAD reads accumulators out into every lane
below VLEN, 0 past the last; MSTAT reports; MSAVE writes the 49,152 bytes of the image to a region of the local window, and
MRESTORE takes the tile back from one, where no bit breaks R42. -/
def Obligations.TileResults : Prop :=
  ∀ (s : State) (d a : Reg) (c : Bool), quiet s → full s a → free s d → (cur s).lists = [] →
    (tileFree s c →
      (∃ t, exec (.mzero c) s = .next t ∧ (∀ f, f < 512 → accumulator t c f = {}) ∧
        (∀ key, (∀ f, f < 512 → key ≠ accKey c (f / 16) (16 * slice s + f % 16)) →
          (array t).acc.get key {} = (array s).acc.get key {}) ∧
        t.mem = s.mem ∧ t.cores = s.cores ∧ cur t = { cur s with pc := (cur s).pc + 4 }) ∧
      (∀ m : Readout,
        let r := fun (j : Nat) =>
          if (g s a).toNat % 512 + j ≥ 512 then (0, 0) else (accumulator s c ((g s a).toNat % 512 + j)).readout (mode s) m
        laneFlags s 0 (fun j => (r j).2) &&& enables s = 0 → (vec s).vlen ≤ 200 →
        ∃ v, lanesOf s d 0 (fun j => BitVec.ofNat 32 (r j).1) v ∧
          exec (.mread d a c m) s = .next (vectored (flagged s (laneFlags s 0 fun j => (r j).2)) 4 v))) ∧
    (∀ place region, tileFree s c → noRemote s → (g s a).toNat % 64 = 0 → region ≠ 2 →
      localPlace s ((g s a).toNat % 2 ^ 52) 49152 true = some (place, region) →
      (Memory.wf s.mem = true → ∃ t, exec (.msave a c) s = .next t ∧ t.mem.bytes place 49152 = tileImage s c ∧
        (∀ x, x < place ∨ place + 49152 ≤ x → t.mem.byte x = s.mem.byte x) ∧
        t.cores = s.cores ∧ t.clusters = s.clusters ∧ (cur t).g = (cur s).g) ∧
      (∀ accs, sound s place 49152 → imageAccs 512 (s.mem.bytes place 49152) = some accs →
        ∃ t, exec (.mrestore a c) s = .next t ∧ t.mem = s.mem ∧
          (∀ f, f < 512 → accumulator t c f = accs.getD f {}) ∧ (cur t).g = (cur s).g)) ∧
    (let w := array s
     let n := (g s a).toNat
     let gives := fun (v : Nat) => exec (.mstat d a) s = .next (wrote s 4 d (BitVec.ofNat 64 v))
     (n = 0 → gives (w.queue.length +
        (match w.queue with
          | [] => 0
          | o :: _ => if o.st = .queued then 0 else 2 ^ 3 + (if o.tile then 2 ^ 4 else 0) + o.t * 2 ^ 5 + o.r * 2 ^ 12) +
        (if slice s ∈ w.armed then 2 ^ 17 else 0) + (if 8 + slice s ∈ w.armed then 2 ^ 18 else 0))) ∧
     (n = 1 → gives w.drop0) ∧ (n = 2 → gives w.drop1) ∧
     (n = 3 → gives (w.bfault.get (slice s) (0, 0)).1) ∧ (n = 4 → gives (w.bfault.get (slice s) (0, 0)).2) ∧
     (4 < n → n < 0x100 ∨ 0x180 ≤ n → gives 0) ∧
     (0x100 ≤ n → n < 0x180 →
       gives ((List.range 16).map fun i => (w.slab (slice s) i (n - 0x100)).code * 2 ^ (2 * i)).sum))

/-- R248, R252: a tile instruction parks GANG while a gang operation on its tile holds a place in the queue, and the first one
after a drop raises the armed report once.
Where it rests on the model's own choices: log entry 53. -/
def Sys2Proof.Claims.TileWaits : Prop :=
  ∀ (s : State) (d a : Reg) (c : Bool) (m : Readout) (i : Instr), quiet s → full s a → (cur s).lists = [] →
    i = .mzero c ∨ i = .mread d a c m ∨ i = .msave a c ∨ i = .mrestore a c →
    let key := (if c then 8 else 0) + slice s
    (key ∉ (array s).armed → (∃ o ∈ (array s).queue, o.tile = c) →
      exec i s = .next (s.setThread s.run.cur { cur s with st := .parked .gang })) ∧
    (key ∈ (array s).armed → s.allocating s.run.cur = false → localVector s.run.cur (cur s) = false →
      let r := if c then (array s).drop1 else (array s).drop0
      r / 2 ^ 16 % 2 ^ 8 = 0x0C →
      ∃ t, exec i s = .next t ∧ (cur t).st = .trapped ∧ (cur t).ctl.cause = BitVec.ofNat 64 (0x0C + r / 2 ^ 24 % 2 ^ 7 * 2 ^ 8) ∧
        (cur t).ctl.finfo = BitVec.ofNat 64 r ∧ (cur t).ctl.epc = BitVec.setWidth 64 (cur s).pc ∧ (cur t).pc = (cur s).pc ∧
        (array t).armed = (array s).armed.filter (· != key) ∧ (array t).acc = (array s).acc ∧ t.mem = s.mem)

/-- R246: an arrival at the wired barrier is a release and parks GANG; the eighth, with equal operands that pass the checks
and a place free, puts the operation into the queue and all eight threads continue; operands that differ raise GANG
MISMATCH. -/
def Sys2Proof.Claims.GangInstructions : Prop :=
  ∀ (s s1 : State) (shaped c set : Bool) (d a b : Reg), quiet s → full s a → full s b → full s d → (cur s).lists = [] →
    let k := s.run.cur
    let cl := k / 64
    let mine := arrival s shaped c set (g s a) (g s b) (if shaped then g s d else 0)
    release k .cluster s = .ok () s1 → s1.run.cur = k → array s1 = array s → cur s1 = cur s →
    (array s).checked = none → (∀ x ∈ (array s).arrivals, x.thread / 8 ≠ k / 8) →
    ((array s).arrivals.length < 7 →
      exec (gang shaped d a b c set) s = .next
        (let t := weaveNow s1 { array s with arrivals := (array s).arrivals ++ [mine] }
         t.setThread k { cur t with st := .parked .gang })) ∧
    ((array s).arrivals.length = 7 →
      let arr := (array s).arrivals ++ [mine]
      let t0 := weaveNow s1 { array s with arrivals := arr }
      ∀ a0, arr.find? (fun x => x.thread / 8 % 8 == 0) = some a0 →
      ((∀ x ∈ arr, x.agrees a0 = true) → ∀ op t1, checkGang cl a0 t0.askAgain = .ok op t1 → t1 = t0.askAgain → (array s).queue.length < 4 →
        noRemote { t0 with run := { t0.run with cur := a0.thread } } →
        (∀ x ∈ (array s).arrivals, (s1.thread x.thread).st = .parked .gang ∧ x.thread ≠ k) →
        ∃ t, exec (gang shaped d a b c set) s = .next t ∧ (cur t).pc = (cur s).pc + 4 ∧
          (array t).arrivals = [] ∧ (array t).queue = (array s).queue ++ [{ op with threads := arr.map (·.thread) }] ∧
          (∀ x ∈ (array s).arrivals, (t.thread x.thread).st = .runnable) ∧ t.mem = s1.mem ∧
          (array t).acc = (array s).acc ∧ (∀ q, (cur t).reg q = g s q)) ∧
      ((∃ x ∈ arr, x.agrees a0 = false) → localVector k (cur s) = false → s.allocating k = false →
        (∀ e ∈ s1.engines, ∀ r n, e.op = .alloc r n → ∀ x ∈ arr, x.thread ≠ e.thread) →
        ∃ t, exec (gang shaped d a b c set) s = .next t ∧ (cur t).st = .trapped ∧ (cur t).ctl.cause = 0x0D ∧
          (array t).arrivals = [] ∧ (array t).queue = (array s).queue ∧ (array t).acc = (array s).acc))

/-- R239, R244: BLOAD checks its operands and record, performs a release, makes every slab of its range LOADING and forks its
operation.
Where it rests on the model's own choices: log entry 56. -/
def Sys2Proof.Claims.SlabLoadForks : Prop :=
  ∀ (s : State) (d a b : Reg) (obj : Nat), quiet s → full s d → full s a → full s b → full s (b + 1) →
    (cur s).lists = [] → checkObject (g s d) s.askAgain = .ok obj s.askAgain →
    let word := g s b
    let org := g s (b + 1)
    let loading := fun (r : Shape) (w : Weave) => (bloadKeys (slice s) word r).foldl
      (fun w key => w.modSlab key fun x => { x with loads := x.loads + 1, loadFmt := r.fmt }) w
    let before := fun (w : Weave) => if w.arrivals.any fun x => x.thread / 8 == s.run.cur / 8 then w.nextId + 1 else w.nextId
    carriedFrom s.askAgain s (.bload d a b)
      (do let r ← readShape (g s a)
          checkFat (fun _ => true) r.base (BitVec.ofNat 64 r.addr)
          shapeChecks (bloadChecks word (org.toNat % 2 ^ 32) (org.toNat / 2 ^ 32) r)
          release s.run.cur (← scopeOf obj)
          return r)
      (fun r t => moved ((forked (weaveNow t (loading r (array t)))
        (.bload word org r.raw (before (array t))) obj 4).dropWaits s.run.cur) 4)

/-- R239, R244, R256: a BLOAD that no earlier load or gang operation holds back, and whose die's stake stores have come up,
reads its bytes and writes every slab, VALID;
where a read faults no slab is written, all become EMPTY, and the core's fault record says why; then comes the completion
add.
Where it rests on the model's own choices: log entries 22 and 56. -/
def Sys2Proof.Claims.SlabLoadCompletes : Prop :=
  ∀ (s s1 : State) (id : Nat) (e : Engine) (word org : Word) (rec' : List Byte) (before : Nat), inFlight s id e →
    let r := shapeOf 0 rec'
    let cl := e.thread / 64
    let core := e.thread / 8 % 8
    let reads := bloadReads core word org r
    let readAll := reads.mapM fun p => do return (p.1, ← readSlab e.agent r.fmt p.2.1 p.2.2)
    let into := fun (w : Weave) => s1.setCluster cl { s1.cluster cl with weave := w }
    e.op = .bload word org rec' before → bloadReady s e word r before = true →
    s.boot.rdymem.getLsbD (8 + dieOf (e.thread / 8)) = true → s1.engines = s.engines →
    (∀ slabs t, readAll s.askAgain = .ok slabs s1 →
      completionAdd e.agent e.obj.toNat false (ended (into (slabs.foldl
        (fun w p => w.modSlab p.1 fun x => { p.2 with loads := x.loads - 1, loadFmt := x.loadFmt }) (s1.cluster cl).weave)) id
        none) = .ok (.ok ()) t →
      exec (.bloadComplete id) s = .next (engineGone t id)) ∧
    (∀ f t, readAll s.askAgain = .error (.trap f) s1 →
      let emptied := reads.foldl
        (fun w p => w.modSlab p.1 fun x => { x with st := .empty, loads := x.loads - 1 }) (s1.cluster cl).weave
      let fault := (f.cause.code + f.sub % 128 * 2 ^ 8 + 2 ^ 15, f.faddr.toNat % 2 ^ 52)
      completionAdd e.agent e.obj.toNat true (ended (into { emptied with bfault := emptied.bfault.put core fault }) id
        (some f)) = .ok (.ok ()) t →
      exec (.bloadComplete id) s = .next (engineGone t id))

/-- R245, R247, R248, R250, R251, R252: the sequencer takes the head of its queue, unless a gang-stop holds it, which halts a
running operation; at the start of a step the operation waits for a slab that is being loaded; an A element may be read before
its row step, and nothing else changes then; a row step adds to each accumulator of
its row the exact sum of the column's products, with each A byte as it was read early or as it stands, after it is zeroed in the first step of a `.set` operation; past the last row
of the last step the operation leaves the queue; a slab that is not VALID at the start of a step drops the operation and every
queued one on its tile.
Where it rests on the model's own choices: log entries 53, 85 and 89. -/
def Obligations.SequencerMoves : Prop :=
  ∀ (s : State) (cl : Nat) (op : GangOp) (rest : List GangOp),
    let w := (s.cluster cl).weave
    let queueNow := fun (q : List GangOp) => s.setCluster cl { s.cluster cl with weave := { w with queue := q } }
    let slab := op.slab + op.t
    let place := aPlace s cl op
    let n := aStep op.afmt op.bfmt
    let valid := fun (j : Nat) => (w.column j slab).st = .valid
    let picked := (match s.run.oracle with | [] => 0 | c :: _ => c % ((w.queue.map GangOp.unused).sum + 1))
    w.queue = op :: rest →
    (op.st = .queued → s.weaveHeld cl op = false →
      exec (.sequencerTake cl) s = .next (queueNow ({ op with st := .running } :: rest))) ∧
    (op.st = .queued → s.weaveHeld cl op = true → exec (.sequencerTake cl) s = .next s) ∧
    (op.st = .running → s.weaveHeld cl op = true →
      exec (.rowStep cl) s = .next (queueNow ({ op with st := .stopped } :: rest))) ∧
    (op.st = .running → s.weaveHeld cl op = false → op.unchecked = true → s.slabLoading cl op = true →
      exec (.rowStep cl) s = .next s) ∧
    (op.st = .running → s.weaveHeld cl op = false → w.checked = none →
      ((op.unchecked = true → s.slabLoading cl op = false ∧ ∀ j, j < 128 → valid j) → picked ≠ 0 →
        ∀ (o : GangOp) (i : Nat), pickElement w.queue (picked - 1) = some (o, i) → s.weaveHeld cl o = false →
          let step := o.performed + i / kdOf o.bfmt
          let size := elemBytes o.afmt
          let at' := i % kdOf o.bfmt * size
          let from' := aPlace s cl { o with t := step / o.nrow, r := step % o.nrow } + at'
          0 < size → sound s from' size →
            ∃ t, exec (.rowStep cl) s = .next t ∧ t.mem = s.mem ∧ (t.cluster cl).weave.acc = w.acc ∧
              (t.cluster cl).weave.queue.map (fun x => { x with early := [] }) =
                w.queue.map (fun x => { x with early := [] }) ∧
              (∀ x ∈ (t.cluster cl).weave.queue, x.id = o.id → ∀ b d, b < size →
                x.early.get (step * aStep o.afmt o.bfmt + at' + b) d = (s.mem.bytes from' size).getD b 0)) ∧
      ((op.unchecked = true → s.slabLoading cl op = false ∧ ∀ j, j < 128 → valid j) → picked = 0 → sound s place n → 0 < n →
        ∃ t, exec (.rowStep cl) s = .next t ∧
          (∀ j, j < 128 →
            let key := accKey op.tile (op.row0 + op.r) j
            let old := if op.t = 0 ∧ op.setMode = true then {} else w.acc.get key {}
            (t.cluster cl).weave.acc.get key {} =
              (old.add (columnSum op (op.rowOf (s.mem.bytes place n)) (w.column j slab))).1) ∧
          (∀ key, (∀ j, j < 128 → key ≠ accKey op.tile (op.row0 + op.r) j) →
            (t.cluster cl).weave.acc.get key {} = w.acc.get key {}) ∧
          (t.cluster cl).weave.queue =
            (if op.r + 1 ≠ op.nrow then { op with r := op.r + 1, unchecked := false } :: rest
             else if op.t + 1 ≠ op.nstep then { op with t := op.t + 1, r := 0, unchecked := true } :: rest else rest) ∧
          t.mem = s.mem) ∧
      (∀ j, op.unchecked = true → s.slabLoading cl op = false → j < 128 → ¬ valid j → (∀ i, i < j → valid i) →
        ∃ t, exec (.rowStep cl) s = .next t ∧ (∀ o ∈ (t.cluster cl).weave.queue, o.tile ≠ op.tile) ∧
          (t.cluster cl).weave.acc = w.acc ∧
          (if op.tile then (t.cluster cl).weave.drop1 else (t.cluster cl).weave.drop0) =
            op.t + op.r * 2 ^ 8 + (w.queue.filter fun o => o.tile == op.tile && o.id != op.id).length * 2 ^ 13 +
              0x0C * 2 ^ 16 + (if (w.column j slab).st = .empty then 1 else 0) * 2 ^ 24 + 2 ^ 31 ∧
          (∀ c, c < 8 → ((if op.tile then 8 else 0) + c) ∈ (t.cluster cl).weave.armed)))


namespace Sys2Proof.Claims
open Sys2Proof.Machine

/-- A control register that a thread or its core holds, by number (R72, R73, R117, R345, R358). -/
def control (s : State) (n : Nat) : Option Word :=
  let t := cur s
  let r := (s.core (s.run.cur / 8)).regs
  match n with
  | 0x000 => some (BitVec.ofNat 64 (s.run.cur / 8))
  | 0x001 => some (BitVec.ofNat 64 (s.run.cur % 8))
  | 0x002 => some (BitVec.ofNat 64 t.kern.ctxid.toNat)
  | 0x003 => some (BitVec.ofNat 64 s.time)
  | 0x010 => some t.ctl.fpc
  | 0x011 => some t.ctl.fpf
  | 0x012 => some t.ctl.fpsup
  | 0x020 => some (BitVec.ofNat 64 t.vec.vlen)
  | 0x021 => some (BitVec.ofNat 64 t.ctl.repcnt.toNat)
  | 0x022 => some (BitVec.ofNat 64 t.ctl.rsptr.toNat)
  | 0x023 => some (BitVec.ofNat 64 t.lists.length)
  | 0x026 => some (BitVec.ofNat 64 (t.rstack.length + t.ctl.spilled.toNat * 2 ^ 16))
  | 0x027 => some t.ctl.engflt
  | 0x028 => some t.ctl.engaddr
  | 0x030 => some t.ctl.cause
  | 0x031 => some t.ctl.epc
  | 0x032 => some t.ctl.faddr
  | 0x033 => some t.ctl.finfo
  | 0x034 => some (BitVec.ofNat 64 t.ctl.utrap.toNat)
  | 0x100 => some (one (t.kern.kmode = true))
  | 0x101 => some t.kern.kvec
  | 0x102 => some t.kern.kepc
  | 0x103 => some (BitVec.ofNat 64 t.kern.kstatus.toNat)
  | 0x104 => some t.kern.stktop
  | 0x105 => some t.kern.rstop
  | 0x106 => some t.kern.kirq
  | 0x107 => some r.kptroot
  | 0x112 => some r.cspbase
  | 0x113 => some r.cspsize
  | 0x114 => some r.clsbase
  | 0x115 => some r.clssize
  | 0x116 => some r.allocbase
  | _ => none

/-- What a write of `v` to a control register of the thread makes of its registers; reserved bits are written as 0. -/
def controlled (n : Nat) (v : Word) (t : Thread) : Option Thread :=
  let low := fun (w : Nat) => BitVec.ofNat 64 (v.toNat % 2 ^ w)
  match n with
  | 0x010 => some { t with ctl := { t.ctl with fpc := v &&& 0x1F7 } }
  | 0x011 => some { t with ctl := { t.ctl with fpf := low 6 } }
  | 0x012 => some { t with ctl := { t.ctl with fpsup := v &&& 0x800000000003FFFF } }
  | 0x021 => some { t with ctl := { t.ctl with repcnt := BitVec.ofNat 8 v.toNat } }
  | 0x022 => some { t with ctl := { t.ctl with rsptr := BitVec.ofNat 52 v.toNat } }
  | 0x030 => some { t with ctl := { t.ctl with cause := low 16 } }
  | 0x031 => some { t with ctl := { t.ctl with epc := low 52 } }
  | 0x032 => some { t with ctl := { t.ctl with faddr := v } }
  | 0x033 => some { t with ctl := { t.ctl with finfo := v } }
  | 0x034 => some { t with ctl := { t.ctl with utrap := BitVec.ofNat 52 v.toNat } }
  | 0x100 => some { t with kern := { t.kern with kmode := v.getLsbD 0 } }
  | 0x101 => some { t with kern := { t.kern with kvec := low 52 } }
  | 0x102 => some { t with kern := { t.kern with kepc := low 52 } }
  | 0x103 => some { t with kern := { t.kern with kstatus := BitVec.ofNat 4 v.toNat } }
  | 0x104 => some { t with kern := { t.kern with stktop := v } }
  | 0x105 => some { t with kern := { t.kern with rstop := low 52 } }
  | _ => none

/-- What a write of `v` to a control register of the core makes of its registers: CSPBASE to CLSSIZE keep all of `v`, and
ALLOCBASE its EN and OFF, a multiple of 256 (log entries 38 and 81). -/
def controlledCore (n : Nat) (v : Word) (r : CoreRegs) : Option CoreRegs :=
  match n with
  | 0x024 => some { r with ecaplim := Nat.min v.toNat 8192 }
  | 0x112 => some { r with cspbase := v }
  | 0x113 => some { r with cspsize := v }
  | 0x114 => some { r with clsbase := v }
  | 0x115 => some { r with clssize := v }
  | 0x116 => some { r with allocbase := v &&& 0x8000000003FFFF00 }
  | _ => none

/-- A register that no CRW may write, in either mode (R348); CTXID may be written in KERNEL mode (R358). -/
abbrev unwritable (n : Nat) (kernel : Bool) : Prop :=
  n ∈ [0x000, 0x001, 0x003, 0x020, 0x023, 0x025, 0x026, 0x027, 0x028, 0x106, 0x119, 0x11B, 0x11E, 0x131, 0x140, 0x180, 0x181,
    0x182, 0x183, 0x184, 0x187, 0x190, 0x191, 0x192, 0x193, 0x194] ∨ (0x160 ≤ n ∧ n ≤ 0x179) ∨ (n = 0x002 ∧ kernel = false)

end Sys2Proof.Claims

/-- R348, R358, R72, R73, R345: CRR writes a value to its destination, whatever the number: a register of the thread or its
core as `control` gives it, 0 for a number with no assignment. What a register of the die, the links or the FCU reads as is no
part of this statement. -/
def Sys2Proof.Claims.ControlRegisterReads : Prop :=
  ∀ (s : State) (d : Reg) (n : BitVec 12), quiet s → free s d →
    (∃ v, exec (.crr d n) s = .next (wrote s 4 d v)) ∧
    (∀ v, control s n.toNat = some v → exec (.crr d n) s = .next (wrote s 4 d v)) ∧
    (n.toNat ∈ [0x004, 0x00F, 0x013, 0x01F, 0x029, 0x02F, 0x035, 0x0FF, 0x108, 0x10F, 0x132, 0x13F, 0x141, 0x1FF, 0xFFF] →
      exec (.crr d n) s = .next (wrote s 4 d 0))

/-- R348: CRW writes its source to a register of the thread or its core under the register's own rules and changes nothing
else (the writes of registers of the die are their events, RegisterWriteEvents); a write to a number
with no assignment is ignored; a write to a read-only register raises PRIV in either mode and changes no register.
Where it rests on the model's own choices: log entries 38, 76 and 81. -/
def Sys2Proof.Claims.ControlRegisterWrites : Prop :=
  ∀ (s : State) (a : Reg) (n : BitVec 12), quiet s →
    (unwritable n.toNat (cur s).kern.kmode → raises s (.crw a n) 0x02 (BitVec.setWidth 64 (cur s).pc)
      (BitVec.ofNat 64 (0x9C000001 + a.toNat * 2 ^ 16 + n.toNat * 16))) ∧
    (full s a →
      (∀ t, controlled n.toNat (g s a) (cur s) = some t →
        exec (.crw a n) s = .next (s.setThread s.run.cur { t with pc := t.pc + 4 })) ∧
      (n.toNat = 0x002 → (cur s).kern.kmode = true → exec (.crw a n) s = .next (s.setThread s.run.cur
        { cur s with kern := { (cur s).kern with ctxid := BitVec.ofNat 16 (g s a).toNat }, pc := (cur s).pc + 4 })) ∧
      (∀ r, controlledCore n.toNat (g s a) (s.core (s.run.cur / 8)).regs = some r →
        exec (.crw a n) s = .next (moved (s.setCore (s.run.cur / 8) { s.core (s.run.cur / 8) with regs := r }) 4)) ∧
      (∀ i, i < 16 → n.toNat = 0x120 + i → exec (.crw a n) s = .next (moved (s.setCore (s.run.cur / 8)
        { s.core (s.run.cur / 8) with regs := { (s.core (s.run.cur / 8)).regs with
            classes := (s.core (s.run.cur / 8)).regs.classes.setIfInBounds i (g s a) } }) 4)) ∧
      (n.toNat ∈ [0x004, 0x00F, 0x013, 0x01F, 0x029, 0x02F, 0x035, 0x0FF, 0x108, 0x10F, 0x132, 0x13F, 0x141, 0x1FF, 0xFFF] →
        exec (.crw a n) s = .next (moved s 4)))

/-- R31, R121, R181, R358, R402: the events in which a CRW to FPF, CTXID, KPTROOT, L2MODE, TRACECTL or KILLRES takes effect:
the register's new value, and that a malformed word changes nothing.
Where it rests on the model's own choices: log entries 23 and 38. -/
def Obligations.RegisterWriteEvents : Prop :=
  ∀ (s : State) (k : Nat) (v : Word),
    let die := dieOf (k / 8)
    exec (.fpfWrite k v) s = .next (s.setThread k { s.thread k with
      ctl := { (s.thread k).ctl with fpf := BitVec.ofNat 64 (v.toNat % 2 ^ 6) } }) ∧
    exec (.ctxidWrite k v) s = .next (s.setThread k { s.thread k with
      kern := { (s.thread k).kern with ctxid := BitVec.ofNat 16 v.toNat } }) ∧
    (∃ t, exec (.kptrootWrite k v) s = .next t ∧
      (t.core (k / 8)).regs.kptroot = BitVec.ofNat 64 (v.toNat % 2 ^ 42 / 2 ^ 7 * 2 ^ 7 + v.toNat % 2) ∧
      (∀ x ∈ (t.core (k / 8)).tlb, x.vbase < 2 ^ 34 → 0 < x.vbase + x.units →
        x.space ≠ (if isHub (k / 8) then .hub (k / 8) else .dev die)) ∧
      t.mem = s.mem ∧ t.threads = s.threads) ∧
    (∀ busy t, contextOn s die s = .ok busy t →
      ((v.toNat < 8 ∧ (v.toNat / 2 ≠ 0 → v.toNat % 2 = 1) ∧ busy = false →
        exec (.l2modeWrite k v) s = .next (t.setDie die { t.die die with regs := { (t.die die).regs with l2mode := v } })) ∧
       (8 ≤ v.toNat ∨ (v.toNat / 2 ≠ 0 ∧ v.toNat % 2 = 0) → exec (.l2modeWrite k v) s = .next s) ∧
       (v.toNat < 8 → (v.toNat / 2 ≠ 0 → v.toNat % 2 = 1) → busy = true → exec (.l2modeWrite k v) s = .next t))) ∧
    ((v.toNat / 4 % 2 ^ 22 ≠ 0 ∨ 2 ^ 42 ≤ v.toNat) →
      moves s (.tracectlWrite k v) (do release k .package; acquire k .package)) ∧
    (v.toNat / 4 % 2 ^ 22 = 0 → v.toNat < 2 ^ 42 →
      ∀ s1 t, release k .package s = .ok () s1 →
        acquire k .package (s1.setDie die { s1.die die with
          regs := { (s1.die die).regs with tracectl := v }
          traceSeq := if v.getLsbD 0 && !(s1.die die).regs.tracectl.getLsbD 0 then [] else (s1.die die).traceSeq }) = .ok () t →
        exec (.tracectlWrite k v) s = .next t) ∧
    (∀ f s1, release k .package s = .error f s1 → exec (.tracectlWrite k v) s = .next s1) ∧
    (let who := v.toNat % 2 ^ 14
     let killed := (s.core who).undeclared = true ∨
       ∃ w ∈ s.saved, w.who = who ∧ ∃ e, w.evicted = some e ∧ e.1.undeclared = true ∧ w.dropped = true
     (2 ^ 17 ≤ v.toNat ∨ v.toNat / 2 ^ 14 % 4 ≠ 0 ∨ isHub who = true ∨ dieOf who ≠ die ∨ ¬ killed →
      quiet s → exec (.killresWrite k v) s = .next (s.setDie die { s.die die with
        regs := { (s.die die).regs with killres := 0 } })) ∧
     (v.toNat < 2 ^ 17 → v.toNat / 2 ^ 14 % 4 = 0 → isHub who = false → dieOf who = die → killed →
      v.getLsbD 16 = true → quiet s →
      ∃ t, exec (.killresWrite k v) s = .next t ∧ (t.die die).regs.killres = v ∧ (t.core who).undeclared = false ∧
        t.mem = s.mem ∧ t.threads = s.threads))

/-- R92, R346, R349: TRAPI and ECALL take their trap: cause and subcode, the address of the instruction, FINFO the argument of
ECALL; in USER mode on a compute core the thread is TRAPPED and one message goes to the device kernel, otherwise the local
vector is entered. -/
def Sys2Proof.Claims.TrapInstructions : Prop :=
  ∀ (s : State) (a : Reg) (sub : BitVec 8), quiet s →
    raises s (.trapi sub) (0x17 + sub.toNat * 2 ^ 8) 0 0 ∧
    (full s a → raises s (.ecall a sub) (0x16 + sub.toNat * 2 ^ 8) 0 (g s a))

/-- R350: ERET, after the thread's earlier instructions, sets PC from KEPC, M from KSTATUS.PM and IE from KSTATUS.PIE, and
changes nothing else; with KEPC bit 0 set it raises MISALIGN. -/
def Sys2Proof.Claims.ExceptionReturn : Prop :=
  ∀ (s : State), quiet s → s.allocating s.run.cur = false →
    let t := (cur s).settle
    let st := t.kern.kstatus
    ((cur s).kern.kepc.getLsbD 0 = false → exec .eret s = .next (s.setThread s.run.cur { t with
      pc := BitVec.setWidth 52 t.kern.kepc
      kern := { t.kern with
        kmode := st.getLsbD 0
        kstatus := BitVec.ofNat 4 ((if st.getLsbD 0 then 1 else 0) + (if st.getLsbD 2 then 2 else 0) +
          (if st.getLsbD 2 then 4 else 0) + (if st.getLsbD 3 then 8 else 0)) } })) ∧
    ((cur s).kern.kepc.getLsbD 0 = true → raises s .eret 0x04 (cur s).kern.kepc 0)

/-- R94: RESUME answers 2, 3 or 1 where it resumes nothing; it continues a TRAPPED thread, or one parked FPX, at EPC (mode
0), after the unit at EPC (mode 1) or at UTRAP (mode 2), and aborts its activation in mode 3 or where UTRAP is 0 or odd;
then it answers 0. It is a release, and the resumed thread acquires. -/
def Obligations.ResumeResults : Prop :=
  ∀ (s s1 : State) (d a b : Reg) (e f : Bool), quiet s → full s a → full s b → free s d → noRemote s1 → quiet s1 →
    let k := s.run.cur
    let who := (g s a).toNat / 8 % 2 ^ 14
    let key := who * 8 + (g s a).toNat % 8
    let sc := if isHub who = false ∧ who < 0x2000 ∧ dieOf who ≠ dieOf (k / 8) then Scope.package else Scope.die
    let x := s1.thread key
    let y := (g s b).toNat
    let status := fun (v : Word) => exec (.resume d a b e f) s = .next (wrote s1 4 d v)
    release k sc s.askAgain = .ok () s1 → s1.run.cur = k → cur s1 = cur s →
    (isDevKernel (k / 8) = false ∨ 0x2000 ≤ who → status 2) ∧
    (isDevKernel (k / 8) = true → who < 0x2000 →
      (4 ≤ y → status 3) ∧
      (y < 4 → x.st ≠ .trapped → x.st ≠ .parked .fpx → status 1) ∧
      (y < 4 → x.st = .trapped ∨ x.st = .parked .fpx →
        let at' := fun (s2 : State) (pc : BitVec 52) (keep rep : Bool) => ∀ t,
          acquire key sc (s2.setThread key { s2.thread key with
            st := .runnable
            pc := pc
            pipeMark := if keep then (s2.thread key).pipeMark else none
            retry := keep && (s2.thread key).pipeMark.isSome
            arrived := if keep then (s2.thread key).arrived else none
            ctl := if rep then { (s2.thread key).ctl with repcnt := 0 } else (s2.thread key).ctl }) = .ok () t →
          t.run.cur = k → quiet t → noRemote t → exec (.resume d a b e f) s = .next (wrote t 4 d 0)
        let aborts := ∀ t, abortActivation key (s1.setThread key { x with pipeMark := none }) = .ok () t →
          t.run.cur = k → quiet t → noRemote t → exec (.resume d a b e f) s = .next (wrote t 4 d 0)
        (y = 0 → at' s1 (BitVec.setWidth 52 x.ctl.epc) true false) ∧
        (y = 1 → ∀ n rep s2, unitLength key (BitVec.setWidth 52 x.ctl.epc) s1 = .ok (n, rep) s2 →
          at' s2 (BitVec.setWidth 52 x.ctl.epc + BitVec.ofNat 52 n) false rep) ∧
        (y = 2 → x.ctl.utrap ≠ 0 → x.ctl.utrap.getLsbD 0 = false → at' s1 x.ctl.utrap false false) ∧
        (y = 2 → x.ctl.utrap = 0 ∨ x.ctl.utrap.getLsbD 0 = true → aborts) ∧
        (y = 3 → aborts)))


/-- R60, R61, R66 to R68: a D16 parcel performs its dictionary word as if the word stood there, with a unit of 2 bytes; a word
that may not stand in the dictionary, or that does not decode, raises ILL, and a KERNEL-only one raises PRIV in USER mode.
Where it rests on the model's own choices: log entries 15 and 63. -/
def Sys2Proof.Claims.DictionaryResults : Prop :=
  ∀ (s : State) (n : BitVec 10), quiet s →
    let w := ((s.core (s.run.cur / 8)).dict.get n.toNat 0).toNat
    let parcel := 0xE000 + n.toNat * 8
    let offer := offerOf (s.run.cur / 8) (cur s).kern.kmode
    let info := BitVec.ofNat 64 (w + parcel * 2 ^ 32 + 2 ^ 48)
    let here := BitVec.setWidth 64 (cur s).pc
    (dictForbidden w = true → raises s (.d16 n) (0x01 + 0x05 * 2 ^ 8) here info) ∧
    (dictForbidden w = false →
      (∀ e, decodeOn offer w 0 = .error e → raises s (.d16 n) (0x01 + e.num * 2 ^ 8) here info) ∧
      (∀ j, decodeOn offer w 0 = .ok j → barred j (cur s).kern.kmode = true → raises s (.d16 n) 0x02 here info) ∧
      (∀ j, decodeOn offer w 0 = .ok j → barred j (cur s).kern.kmode = false →
        exec (.d16 n) s = finish (perform j 2) s ∧
        (∀ p d a b e f, j = .add p d a b e f → ready p s a → ready p s b → free s d →
          exec (.d16 n) s = .next (wroteBy p s 2 d (BitVec.ofNat 64 ((g s a).toNat + (g s b).toNat)))) ∧
        (∀ p d a e i, j = .addi p d a e i → ready p s a → free s d →
          exec (.d16 n) s = .next (wroteBy p s 2 d (BitVec.ofInt 64 ((g s a).toInt + i.toInt))))))

/-- R67, R88 to R91: a REP with count 0 moves past its follower; otherwise the unit is checked once, before its first step, and
each step performs instance REPCNT with the strides applied to the register fields, counts it, and stays at the REP until the
last instance, after which REPCNT is 0 and the PC is past the follower; a check that fails leaves REPCNT 0, and an instance that
traps raises REPX at the REP with its own cause as the subcode.
Where it rests on the model's own choices: log entry 13. -/
def Sys2Proof.Claims.RepeatResults : Prop :=
  ∀ (s : State) (n : BitVec 8) (sd sa sb : BitVec 3), quiet s → noRemote s →
    let pc := (cur s).pc
    let i := (cur s).ctl.repcnt.toNat
    let st := [sd.toNat, sa.toNat, sb.toNat]
    let word := 0x16 * 2 ^ 26 + n.toNat * 2 ^ 18 + sd.toNat * 2 ^ 15 + sa.toNat * 2 ^ 12 + sb.toNat * 2 ^ 9
    let counted := fun (t : State) (pc : BitVec 52) (c : BitVec 8) =>
      t.setThread t.run.cur { cur t with pc := pc, ctl := { (cur t).ctl with repcnt := c } }
    let skipped := fun (t : State) (pc : BitVec 52) =>
      t.setThread t.run.cur { cur t with pc := pc, rep := none, ctl := { (cur t).ctl with repcnt := 0 } }
    let runs := fun (u : RepUnit) (s1 : State) =>
      let at' := s1.setThread s.run.cur { cur s1 with pc := pc + 4, rep := some u }
      (n.toNat ≤ i → exec (.rep n sd sa sb) s = .next (skipped s1 (pc + 4 + BitVec.ofNat 52 u.len))) ∧
      (i < n.toNat → ∀ j, decodeWord (instanceWord u.word st i) 0 = .ok j →
        (∀ t, perform j u.len at' = .ok () t → t.run.cur = s.run.cur → quiet t → noRemote t →
          (i + 1 < n.toNat → exec (.rep n sd sa sb) s = .next (counted t pc (BitVec.ofNat 8 (i + 1)))) ∧
          (i + 1 = n.toNat → exec (.rep n sd sa sb) s = .next (skipped t (cur t).pc))) ∧
        (∀ x t, perform j u.len at' = .error (.trap x) t → t.run.cur = s.run.cur → noRemote t →
          s.allocating s.run.cur = false → localVector s.run.cur (cur t) = false → x.cause ≠ .pipe →
          exec (.rep n sd sa sb) s =
            .next (trapped (jumped t pc) (0x15 + x.cause.code * 2 ^ 8) x.faddr x.finfo)))
    (n = 0 → ∀ w lit len t, fetchInstr (pc + 4) s.askAgain = .ok (w, lit, len) t → t.run.cur = s.run.cur → quiet t →
      noRemote t → exec (.rep n sd sa sb) s = .next (jumped t (pc + 4 + BitVec.ofNat 52 len))) ∧
    (n ≠ 0 → ∀ u, (cur s).rep = some u → noRemote s.askAgain → runs u s.askAgain) ∧
    (n ≠ 0 → (cur s).rep = none → ∀ w f len info s1, follower (pc + 4) s.askAgain = .ok (w, f, len, info) s1 →
      cur s1 = cur s → s1.run.cur = s.run.cur → noRemote s1 →
      let fails := fun (cause : Nat) (faddr finfo : Word) => s.allocating s.run.cur = false →
        localVector s.run.cur (cur s1) = false →
        exec (.rep n sd sa sb) s = .next (trapped (counted s1 pc 0) cause faddr finfo)
      (strideUnused w st = true →
        fails (0x01 + IllSub.zfield.num * 2 ^ 8) (BitVec.setWidth 64 pc) (BitVec.ofNat 64 word)) ∧
      (strideUnused w st = false → strideBeyond w st n.toNat = true →
        fails (0x01 + IllSub.reprange.num * 2 ^ 8) (BitVec.setWidth 64 pc) (BitVec.ofNat 64 word)) ∧
      (strideUnused w st = false → strideBeyond w st n.toNat = false →
        (barred f (cur s).kern.kmode = true → fails 0x02 (BitVec.setWidth 64 (pc + 4)) info) ∧
        (barred f (cur s).kern.kmode = false →
          runs { count := n, sd := sd, sa := sa, sb := sb, word := w, len := len } s1)))

/-- R208 and R403: the commit arbiter leaves a list waiting while it may not commit; on a conflict it drops the list, once no
other application of it is outstanding, and the activation waits to be bound again from its retained message; otherwise it
performs the entries in list order, records the lines, the key and the count, and frees the slot and the list.
Where it rests on the model's own choices: log entries 22, 28, 57 and 78; that the retained message goes before the core's other
PENDING messages is 78, of which the spec says nothing, and that the drop waits for other applications is 57. -/
def Obligations.CommitResults : Prop :=
  ∀ (s : State) (die : BitVec 2) (k : Nat) (w : Awaiting), (s.die die.toNat).awaiting[k]? = some w →
    let d := die.toNat
    (w.work = none → mayCommit s d k w = false ∨ s.boot.rdyeng.getLsbD (8 + d) = false → exec (.commit die k) s = .next s) ∧
    (w.work = none → mayCommit s d k w = true → s.boot.rdyeng.getLsbD (8 + d) = true → conflicts s d w = true →
      ∃ t, exec (.commit die k) s = .next t ∧ (t.die d).awaiting = (s.die d).awaiting.eraseIdx k ∧
        (t.core w.who).inbox.pending =
          { slot := w.act.slot, header := w.act.header } :: (s.core w.who).inbox.pending ∧
        (∀ l, w.list? (s.cluster (w.who / 8)) = some l →
          match l.st with
          | .committing n _ =>
            (n ≤ 1 → w.list? (t.cluster (w.who / 8)) = none) ∧
            (2 ≤ n → w.list? (t.cluster (w.who / 8)) = some { l with st := .applying false (n - 1) true })
          | .applying left n _ => w.list? (t.cluster (w.who / 8)) = some { l with st := .applying left n true }
          | _ => w.list? (t.cluster (w.who / 8)) = none) ∧
        (w.list? (s.cluster (w.who / 8)) = none → t.clusters = s.clusters) ∧ t.mem = s.mem) ∧
    (∀ es s1 s2 t, w.work = some es ∨ (w.work = none ∧ mayCommit s d k w = true ∧ s.boot.rdyeng.getLsbD (8 + d) = true ∧
        conflicts s d w = false) →
      (w.work = some es → s1 = s.askAgain) →
      (w.work = none →
        applyEntries w.agent (w.list? (s.cluster (w.who / 8))) none w.ctx s.askAgain = .ok (.ok es) s1) →
      performFrom w.agent (w.who * 8 + w.htid) (fun _ va => commitAborted d k va)
        (modAwait d k fun w => { w with pos := w.pos + 1 }) (es.drop w.pos)
        (s1.setDie d { s1.die d with awaiting := (s1.die d).awaiting.modify k fun w => { w with work := some es } }) =
          .ok () s2 →
      ∀ w', (s2.die d).awaiting[k]? = some w' → committed d k w' es s2 = .ok () t →
        exec (.commit die k) s = .next (t.dropWaits w.agent.k))

/-- R366, R367: TLBI checks its object and its control word, performs a release and forks; its completion removes every
translation and walk of the context over the range, performs the context's requests that wait at homes and those that carry
dirty bytes of it, invalidates the lines held under the range with their dirty bytes sent home, and adds.
Where it rests on the model's own choices: log entries 14 and 22. -/
def Obligations.ShootdownResults : Prop :=
  ∀ (s : State),
    (∀ d a obj, quiet s → full s d → full s a → full s (a + 1) → (cur s).lists = [] →
      checkObject (g s d) s = .ok obj s →
      let x := (g s a).toNat % 2 ^ 52
      let z := (g s (a + 1)).toNat
      let ctx := z % 2 ^ 16
      let count := z / 2 ^ 20 % 2 ^ 32
      (ctx ≠ 0 → z / 2 ^ 16 % 16 = 0 → z < 2 ^ 52 → count ≠ 0 → x % 2 ^ 18 = 0 → x + count * 2 ^ 18 ≤ 2 ^ 52 →
        carried s (.tlbi d a) (objectRelease obj)
          (fun _ t => moved (forked t (.tlbi ctx (x / 2 ^ 18) count false) obj 5) 4)) ∧
      (ctx ≠ 0 → z / 2 ^ 16 = 1 →
        carried s (.tlbi d a) (objectRelease obj) (fun _ t => moved (forked t (.tlbi ctx 0 (2 ^ 34) true) obj 5) 4)) ∧
      (ctx = 0 ∨ 2 ≤ z / 2 ^ 16 % 4 ∨ z / 2 ^ 18 % 4 ≠ 0 ∨ 2 ^ 52 ≤ z → raises s (.tlbi d a) (0x05 + 6 * 2 ^ 8)
        (BitVec.ofNat 64 x) (g s (a + 1)))) ∧
    (∀ id e ctx u n whole s1 t, inFlight s id e → e.op = .tlbi ctx u n whole →
      (do dropSpace (.ctx ctx) u n
          performAll (fun r => r.src.ctx == ctx) fun g => g.2 == ctx
          flushAll (fun _ => true) fun l =>
            l.space == .ctx ctx && decide (u ≤ l.vline / 2 ^ 12) && decide (l.vline / 2 ^ 12 < u + n) : M Unit) s.askAgain =
        .ok () s1 →
      (∀ w ∈ s1.links.waits, w.ctx = ctx → w.answer ≠ none) → s1.engines = s.engines →
      completionAdd e.agent e.obj.toNat false (ended s1 id none) = .ok (.ok ()) t →
      exec (.tlbiComplete id) s = .next (engineGone t id))

namespace Sys2Proof.Claims
open Sys2Proof.Machine

/-- CTXSTAT of a thread holds a status and the context's STATE (R342). -/
def answersWith (t : State) (k v st : Nat) : State :=
  t.setThread k { t.thread k with kern := { (t.thread k).kern with ctxstat := BitVec.ofNat 7 (v + st % 16 * 8) } }

/-- A context operation whose action, from the state in which STATE was read, answers a status: CTXSTAT holds it and the STATE
that the action leaves. `next` is what the instruction does last. -/
def answers (s s0 : State) (i : Instr) (k die ctx : Nat) (action : M Nat) (next : Nat → State → State := fun _ t => t) : Prop :=
  ∀ v s1 z s2, action s0 = .ok v s1 → contextState die ctx (s1.dropAsked k) = .ok z s2 → s2.run.cur = s.run.cur → quiet s2 →
    exec i s = .next (next v (answersWith s2 k v z))

/-- A context operation that is refused with status `v` before any action: CTXSTAT holds it and the STATE. -/
def refusedWith (s : State) (i : Instr) (k die ctx v : Nat) (next : Nat → State → State := fun _ t => t) : Prop :=
  ∀ z s1, contextState die ctx s = .ok z s1 → s1.run.cur = s.run.cur → quiet s1 → exec i s = .next (next v (answersWith s1 k v z))

end Sys2Proof.Claims

/-- R341, R342, R354: CREATE, START, RESET, DESTROY and EVICT answer status 4 on a hub core, 3 for CTXID 0, 1 in a STATE that
does not allow them, with nothing else changed; START makes the context RUNNING, DESTROY ends its translations and lists
between STATE 7 and the end, RESET kills its cores and ends its launches, and EVICT puts its cores aside.
Where it rests on the model's own choices: log entries 49 and 62. -/
def Sys2Proof.Claims.ContextCommands : Prop :=
  ∀ (s : State) (k : Nat) (ctx : BitVec 16), quiet s →
    let die := dieOf (k / 8)
    let five : List Instr := [.create k ctx, .start k ctx, .reset k ctx, .destroy k ctx, .evict k ctx]
    (isHub (k / 8) = true → ∀ i ∈ five, refusedWith s i k die ctx.toNat 4) ∧
    (isHub (k / 8) = false → ctx = 0 → ∀ i ∈ five, exec i s = .next (answersWith s k 3 0)) ∧
    (isHub (k / 8) = false → ctx ≠ 0 → ∀ y s0, contextState die ctx.toNat s.askAgain = .ok y s0 →
      let does := fun (i : Instr) (action : M Nat) => answers s s0 i k die ctx.toNat action
      (y % 8 ≠ 0 → y % 8 ≠ 7 → does (.create k ctx) (pure 1)) ∧
      (y % 8 ≠ 1 → y % 8 ≠ 2 → does (.start k ctx) (pure 1) ∧ does (.destroy k ctx) (pure 1)) ∧
      (y % 8 ≠ 3 → y % 8 ≠ 5 → does (.reset k ctx) (pure 1)) ∧
      (y ≠ 5 → does (.evict k ctx) (pure 1)) ∧
      (y % 8 = 0 ∨ y % 8 = 7 → does (.create k ctx) (createContext ctx.toNat die y)) ∧
      (y % 8 = 1 ∨ y % 8 = 2 →
        does (.start k ctx) (do setContextState die ctx.toNat 3; learnNotify die ctx.toNat; return 0) ∧
        does (.destroy k ctx) (do
          setContextState die ctx.toNat 7
          dropSpace (.ctx ctx.toNat) 0 (2 ^ 34)
          dropContextLists ctx.toNat
          return 0)) ∧
      (y % 8 = 3 ∨ y % 8 = 5 → does (.reset k ctx) (resetContext ctx.toNat die y)) ∧
      (y = 5 → does (.evict k ctx) (do
        (s0.contextCores ctx.toNat).forM (storeBlock die ctx.toNat)
        (s0.contextCores ctx.toNat).forM (evictCore ctx.toNat)
        setContextState die ctx.toNat 13
        return 0)))

/-- R351, R355: GSTOP and GRESUME write their status to the destination and to CTXSTAT; a context that is not RUNNING is not
stopped, one that is not STOPPED is not resumed; the stop ends with the save of every core, STATE 5, and the completion
add.
Where it rests on the model's own choices: log entries 49 and 62. -/
def Sys2Proof.Claims.StopAndResume : Prop :=
  ∀ (s : State), quiet s →
    let k := s.run.cur
    let die := dieOf (k / 8)
    (∀ d a, full s a → free s d → (cur s).lists = [] →
      let ctx := (g s a).toNat % 2 ^ 16
      let ok := isHub (k / 8) = false ∧ ctx ≠ 0 ∧ (g s a).toNat < 2 ^ 16
      let refused' := fun (i : Instr) (v : Nat) => refusedWith s i k die ctx v (fun v t => wrote t 4 d (BitVec.ofNat 64 v))
      let does := fun (s0 : State) (i : Instr) (action : M Nat) =>
        (∀ v s1, action s0 = .ok v s1 → ∀ z s2, contextState die ctx (s1.dropAsked k) = .ok z s2 → free s2 d) →
        answers s s0 i k die ctx action (fun v t => wrote t 4 d (BitVec.ofNat 64 v))
      (isHub (k / 8) = true → refused' (.gresume d a) 4) ∧
      (isHub (k / 8) = false → ctx = 0 ∨ 2 ^ 16 ≤ (g s a).toNat → refused' (.gresume d a) 3) ∧
      (∀ y s0, ok → contextState die ctx s.askAgain = .ok y s0 →
        (y % 8 ≠ 5 → does s0 (.gresume d a) (pure 1)) ∧
        (y % 8 = 5 → does s0 (.gresume d a) (resumeContext k ctx die y))) ∧
      (∀ obj, full s (a + 1) → checkObject (g s (a + 1)) s = .ok obj s →
        (isHub (k / 8) = true → refused' (.gstop d a) 4) ∧
        (isHub (k / 8) = false → ctx = 0 ∨ 2 ^ 16 ≤ (g s a).toNat → refused' (.gstop d a) 3) ∧
        (∀ y s0, ok → contextState die ctx s.askAgain = .ok y s0 →
          (y % 8 ≠ 3 → does s0 (.gstop d a) (pure 1)) ∧
          (y % 8 = 3 → does s0 (.gstop d a) (beginStop k ctx obj die y))))) ∧
    (∀ (ctx : BitVec 16) x, s.stopping.find? ctx.toNat = some x →
      (stopReady s ctx.toNat = false → exec (.gangStopSaveDone ctx) s = .next s) ∧
      (stopReady s ctx.toNat = true → ∀ oks s1 s2 t,
        (do haltWeaves ctx.toNat; (s.contextCores ctx.toNat).mapM (saveCore (dieOf (x.thread / 8)) ctx.toNat)) s.askAgain =
          .ok oks s1 →
        setContextState (dieOf (x.thread / 8)) ctx.toNat 5 s1 = .ok () s2 →
        let agent : Agent := { k := 2 ^ 36 + ctx.toNat, v := { who := x.thread / 8, user := x.user, ctx := x.tctx }, vec := {},
                               engine := true }
        completionAdd agent x.obj.toNat (oks.any (!·)) { s2 with stopping := s2.stopping.del ctx.toNat } =
          .ok (.ok ()) t →
        exec (.gangStopSaveDone ctx) s = .next (t.dropAsked (2 ^ 36 + ctx.toNat))))


namespace Sys2Proof.Claims
open Sys2Proof.Machine

/-- The custody record of a frame replaced. -/
def custodyNow (s : State) (f : Nat) (c : Custody) : State := { s with fcu := { s.fcu with records := s.fcu.records.put f c } }

/-- The side of the issuing core (R371). -/
def mySide (s : State) : Side := if isHub (s.run.cur / 8) then .host else .device

/-- A record as FQUERY gives it (R372). -/
def custodyWord (c : Custody) : Nat :=
  let side := fun (x : Option Side) => match x with | none => 0 | some .host => 1 | some .device => 2
  side c.owner + (match c.st with
      | .free => 0 | .owned => 1 | .offered => 2 | .lent => 3 | .recalling => 4 | .revoking => 5) * 2 ^ 2 +
    side c.borrower * 2 ^ 5 + (if c.keep then 2 ^ 7 else 0) + c.interval.toNat * 2 ^ 32 + c.deadline.toNat * 2 ^ 64

end Sys2Proof.Claims

/-- R372, R376, R378 to R381: what the transactions do to a frame. FOFFER and FLEND of an
OWNED frame, FRECALL of an OFFERED or LENT one and FACCEPT of a FREE one change the record, write their notice and answer 0;
FACCEPT of an offered frame and FRETURN begin their revocation and answer when it has ended; at a frame whose revocation is
under way a transaction takes its place behind those that wait there; an instruction without the role
answers 2, in the wrong state 1, with malformed operands 3, without memory 4. FQUERY reads the record.
Where it rests on the model's own choices: log entry 28. -/
def Sys2Proof.Claims.FrameTransactions : Prop :=
  ∀ (s s1 : State) (d a b : Reg) (e f : Bool), quiet s → full s a → full s b → free s d → (cur s).lists = [] →
    (cur s).waiting = none → s.boot.rdycore.getLsbD 8 = true →
    let k := s.run.cur
    let x := (g s a).toNat
    let n := x / 2 ^ 18
    let y := g s b
    let me' := mySide s
    let other := Side.other me'
    release k .package s = .ok () s1 → s1.run.cur = k → cur s1 = cur s → s1.boot = s.boot →
    let c := s1.custody n
    let all : List Instr := [.foffer d a b e f, .faccept d a b e f, .flend d a b e f, .frecall d a b e f, .freturn d a b e f]
    let answers := fun (i : Instr) (v : Word) (from' : State) =>
      ∀ t, acquire k .package (wrote from' 0 d v) = .ok () t → t.run.cur = k → quiet t → exec i s = .next (moved t 4)
    let placed := x % 2 ^ 18 = 0 ∧ x < 2 ^ 42
    (¬ placed → ∀ i ∈ all, answers i 3 s1) ∧
    (placed → s1.hasMemory (n * 2 ^ 18) = false → y = 0 → ∀ i ∈ all, answers i 4 s1) ∧
    (placed → 2 ≤ y.toNat → answers (.foffer d a b e f) 3 s1) ∧
    (placed → y ≠ 0 → y.toNat < 1000 ∨ 1000000000 < y.toNat → answers (.flend d a b e f) 3 s1) ∧
    (placed → y ≠ 0 → answers (.faccept d a b e f) 3 s1 ∧ answers (.frecall d a b e f) 3 s1 ∧
      answers (.freturn d a b e f) 3 s1) ∧
    (placed → s1.hasMemory (n * 2 ^ 18) = true → c.st = .revoking →
      let waits := fun (i : Instr) (o : Deal) => exec i s = .next ((custodyNow s1 n
        { c with line := c.line ++ [{ thread := k, deal := o, side := me', arg := y }] }).setThread k
          { cur s1 with waiting := some none }).stallsNow
      (y.toNat < 2 → waits (.foffer d a b e f) .offer) ∧
      (y = 0 ∨ (1000 ≤ y.toNat ∧ y.toNat ≤ 1000000000) → waits (.flend d a b e f) .lend) ∧
      (y = 0 → waits (.faccept d a b e f) .accept ∧ waits (.frecall d a b e f) .recall ∧ waits (.freturn d a b e f) .give)) ∧
    (placed → s1.hasMemory (n * 2 ^ 18) = true → c.st ≠ .revoking →
      let changed := fun (i : Instr) (c' : Custody) (kind : Nat) (deadline : Nat) =>
        ∀ t, notice other kind (some me') n deadline s1.time (custodyNow s1 n c') = .ok () t → t.run.cur = k → cur t = cur s →
          answers i 0 t
      (y.toNat < 2 →
        (c.owner ≠ some me' → answers (.foffer d a b e f) 2 s1) ∧
        (c.owner = some me' → c.st ≠ .owned → answers (.foffer d a b e f) 1 s1) ∧
        (c.owner = some me' → c.st = .owned →
          changed (.foffer d a b e f) { c with st := .offered, keep := y.getLsbD 0 } 1 0)) ∧
      (y = 0 ∨ (1000 ≤ y.toNat ∧ y.toNat ≤ 1000000000) →
        (c.owner ≠ some me' → answers (.flend d a b e f) 2 s1) ∧
        (c.owner = some me' → c.st ≠ .owned → answers (.flend d a b e f) 1 s1) ∧
        (c.owner = some me' → c.st = .owned → changed (.flend d a b e f)
          { c with st := .lent, borrower := some other
                   interval := if y = 0 then 200000 else BitVec.ofNat 32 y.toNat } 4 0)) ∧
      (y = 0 →
        (c.owner ≠ some me' → answers (.frecall d a b e f) 2 s1) ∧
        (c.owner = some me' → c.st ≠ .offered → c.st ≠ .lent → answers (.frecall d a b e f) 1 s1) ∧
        (c.owner = some me' → c.st = .offered →
          changed (.frecall d a b e f) { c with st := .owned, keep := false } 2 0) ∧
        (c.owner = some me' → c.st = .lent →
          changed (.frecall d a b e f) { c with st := .recalling
                                                deadline := BitVec.ofNat 64 (s1.time + c.interval.toNat) } 5
            ((s1.time + c.interval.toNat) % 2 ^ 64)) ∧
        (c.st = .free → ∀ t, zeroFrame n s1 = .ok () t → t.run.cur = k → cur t = cur s →
          answers (.faccept d a b e f) 0 (custodyNow t n { line := (t.custody n).line, st := .owned, owner := some me' })) ∧
        (c.st ≠ .free → c.st ≠ .offered → c.owner ≠ some me' → answers (.faccept d a b e f) 1 s1) ∧
        (c.st ≠ .free → c.owner = some me' → answers (.faccept d a b e f) 2 s1) ∧
        (c.owner ≠ some me' → c.st = .owned → answers (.freturn d a b e f) 2 s1) ∧
        (c.borrower ≠ some me' → c.st = .lent ∨ c.st = .recalling → answers (.freturn d a b e f) 2 s1) ∧
        (c.owner = some me' → c.st = .offered → answers (.freturn d a b e f) 1 s1) ∧
        (let waits := fun (i : Instr) (side : Side) (w : After) => ∀ t,
            revoke side n w (some k) s1.time (s1.setThread k { cur s1 with waiting := some none }) = .ok () t →
            exec i s = .next t.stallsNow
         (c.st = .offered → c.owner ≠ some me' → waits (.faccept d a b e f) other (.accept !c.keep)) ∧
         (c.st = .owned → c.owner = some me' → waits (.freturn d a b e f) me' .free) ∧
         (c.st = .lent ∨ c.st = .recalling → c.borrower = some me' → waits (.freturn d a b e f) me' (.back false)))))

/-- R372, R379, R381: a transaction that has been served while its thread waited answers its status, with an acquire after it, and until then its
thread waits; FQUERY answers the record's
halves, 0 for another selector, and all ones for a malformed address or a frame without memory, and changes nothing.
Where it rests on the model's own choices: log entry 28. -/
def Sys2Proof.Claims.FrameAnswers : Prop :=
  ∀ (s : State) (d a b : Reg) (e f : Bool), quiet s → full s a → full s b → free s d → (cur s).lists = [] →
    let k := s.run.cur
    let x := (g s a).toNat
    let y := (g s b).toNat
    let w := custodyWord (s.custody (x / 2 ^ 18))
    let ok := x % 2 ^ 18 = 0 ∧ x < 2 ^ 42 ∧ s.hasMemory (x / 2 ^ 18 * 2 ^ 18) = true
    let all : List Instr := [.foffer d a b e f, .faccept d a b e f, .flend d a b e f, .frecall d a b e f, .freturn d a b e f]
    (∀ st, (cur s).waiting = some (some st) → ∀ t, acquire k .package
        (wrote (s.setThread k { cur s with waiting := none }) 0 d (BitVec.ofNat 64 st)) = .ok () t → t.run.cur = k → quiet t →
      ∀ i ∈ all, exec i s = .next (moved t 4)) ∧
    ((cur s).waiting = some none → ∀ i ∈ all, exec i s = .next s.stallsNow) ∧
    (s.boot.rdycore.getLsbD 8 = true →
      (¬ ok → exec (.fquery d a b e f) s = .next (wrote s 4 d (BitVec.allOnes 64))) ∧
      (ok → y = 0 → exec (.fquery d a b e f) s = .next (wrote s 4 d (BitVec.ofNat 64 w))) ∧
      (ok → y = 1 → exec (.fquery d a b e f) s = .next (wrote s 4 d (BitVec.ofNat 64 (w / 2 ^ 64)))) ∧
      (ok → 2 ≤ y → exec (.fquery d a b e f) s = .next (wrote s 4 d 0)))

/-- R375 to R377: the deadline of a recall begins the borrower's revocation, whose end counts an overrun; a revocation takes the
side's grants, translations and lines of the frame away; when it ends, the accesses under way have been performed and the copies
that they filled are gone, and the frame is FREE, OWNED by the acceptor, or back
with its owner, the notices carry TIME of what began it, the transaction that began it has its status 0, and those that wait at the frame are
served in their order. -/
def Sys2Proof.Claims.FrameRevocations : Prop :=
  ∀ (s : State) (fr : BitVec 24),
    let n := fr.toNat
    let c := s.custody n
    (∀ x t, c.st = .recalling → c.borrower = some x → c.deadline.toNat ≤ s.time →
      revoke x n (.back true) none c.deadline.toNat s = .ok () t → exec (.recallDeadline fr) s = .next t) ∧
    (c.st ≠ .recalling ∨ s.time < c.deadline.toNat → exec (.recallDeadline fr) s = .next s) ∧
    (∀ (x : Side) w k (began : Nat) t,
      let side := fun (who : Nat) => match x with | .host => isHub who | .device => !isHub who
      let s0 := custodyNow s n { c with st := .revoking, deadline := 0, revoked := some x, after := w, waiter := k,
                                        began := BitVec.ofNat 64 began }
      (do dropTlbs side fun e => match e.target with
            | .phys b => decide (b / 2 ^ 18 ≤ n) && decide (n < b / 2 ^ 18 + e.units)
            | .remote _ _ => false
          modify fun st => { st with walks := st.walks.filter fun q => !side (q.thread / 8) }
          flushAll side fun l => match l.home with | .here p => p / 4096 == n | .away _ _ => false : M Unit)
        { s0 with dies := s0.dies.map fun d => (d.1, { d.2 with
            grants := d.2.grants.map fun q => (q.1, q.2.filter fun z => z != (x == .host, n)) }) } = .ok () t →
      revoke x n w k began s = .ok () t) ∧
    (c.st ≠ .revoking → exec (.revocationComplete fr) s = .next s) ∧
    (c.st = .revoking → ∀ s1,
      (do drainWhere fun r => r.pline / 4096 == n
          match c.revoked with
          | none => pure ()
          | some x => flushAll (fun who => match x with | .host => isHub who | .device => !isHub who) fun l =>
              match l.home with | .here p => p / 4096 == n | .away _ _ => false : M Unit) s = .ok () s1 → s1.fcu = s.fcu →
      let becomes := fun (st : State) (o : Option Side) => custodyNow st n
        { line := (st.custody n).line, st := if o.isSome then .owned else .free, owner := o }
      let wakes := fun (st : State) => match c.waiter with
        | some k => st.setThread k { st.thread k with waiting := (st.thread k).waiting.map fun _ => some 0 }
        | none => st
      let ends := fun (st : State) => ∀ t, serveTurns n c.line.length (wakes st) = .ok () t →
        exec (.revocationComplete fr) s = .next t
      (c.after = .free → ends (becomes s1 none)) ∧
      (∀ x t, c.after = .accept false → c.revoked = some x →
        notice x 3 (some x.other) n 0 c.began.toNat (becomes s1 (some x.other)) = .ok () t → ends t) ∧
      (∀ x s2 t, c.after = .accept true → c.revoked = some x → zeroFrame n s1 = .ok () s2 →
        notice x 3 (some x.other) n 0 c.began.toNat (becomes s2 (some x.other)) = .ok () t → ends t) ∧
      (∀ x o t, c.after = .back false → c.revoked = some x → c.owner = some o →
        notice o 6 (some x) n 0 c.began.toNat (becomes s1 (some o)) = .ok () t → ends t) ∧
      (∀ x o t, c.after = .back true → c.revoked = some x → c.owner = some o →
        let counted := fun (st : State) =>
          { st with fcu := { st.fcu with overruns := Nat.min (st.fcu.overruns + 1) (2 ^ 32 - 1) } }
        (do notice o 7 none n 0 c.began.toNat; notice x 7 none n 0 c.began.toNat : M Unit) (counted (becomes s1 (some o))) =
          .ok () t → ends t)) ∧
    (∀ x rest q, c.line = x :: rest → c.st ≠ .revoking →
      (∀ st t u, deal x.deal x.side n x.arg x.thread (custodyNow s n { c with line := rest }) = .ok (some st) t →
        serveTurns n q (t.setThread x.thread { t.thread x.thread with
          waiting := (t.thread x.thread).waiting.map fun _ => some st }) = .ok () u → serveTurns n (q + 1) s = .ok () u) ∧
      (∀ t u, deal x.deal x.side n x.arg x.thread (custodyNow s n { c with line := rest }) = .ok none t →
        serveTurns n q t = .ok () u → serveTurns n (q + 1) s = .ok () u)) ∧
    (c.line = [] ∨ c.st = .revoking → ∀ q, serveTurns n q s = .ok () s)

/-- R412 to R414: PWRSET answers 4 off the hub die, 3 for malformed operands, 2 for a trip that does not let it, 1 where a
context or a frame holds the die, and otherwise changes the die's power between a release and an acquire and answers 0, at
once or, from P3, once the die has come up. A thermal trip stops a die that has power and interrupts its kernels.
Where it rests on the model's own choices: log entry 36. -/
def Sys2Proof.Claims.PowerResults : Prop :=
  ∀ (s s1 : State) (d a : Reg), quiet s →
    (full s a → free s d → (cur s).lists = [] →
      let k := s.run.cur
      let x := (g s a).toNat
      let die := x / 4 % 4
      let goal : PState := match x % 4 with | 0 => .p0 | 1 => .p1 | 2 => .p2 | _ => .p3
      let r := (s.die die).regs
      ((cur s).waiting ≠ none →
        (r.pchange ≠ none → exec (.pwrset d a) s = .next s.stallsNow) ∧
        (r.pchange = none → ∀ t, acquire k .package (s.setThread k { cur s with waiting := none }) = .ok () t →
          t.run.cur = k → quiet t → free t d → exec (.pwrset d a) s = .next (wrote t 4 d 0))) ∧
      ((cur s).waiting = none →
      (isHub (k / 8) = false → exec (.pwrset d a) s = .next (wrote s 4 d 4)) ∧
      (isHub (k / 8) = true → 16 ≤ x → exec (.pwrset d a) s = .next (wrote s 4 d 3)) ∧
      (isHub (k / 8) = true → x < 16 → r.power = .trip → goal = .p1 ∨ r.tripClear = false →
        exec (.pwrset d a) s = .next (wrote s 4 d 2)) ∧
      (isHub (k / 8) = true → x < 16 → r.power ≠ .trip ∨ (goal ≠ .p1 ∧ r.tripClear = true) →
        (goal = .p2 ∨ goal = .p3 → contextOn s die s = .ok true s → exec (.pwrset d a) s = .next (wrote s 4 d 1)) ∧
        (goal = .p3 → contextOn s die s = .ok false s → framesUsed s die = true →
          exec (.pwrset d a) s = .next (wrote s 4 d 1)) ∧
        ((goal = .p2 ∨ goal = .p3 → contextOn s die s = .ok false s) → (goal = .p3 → framesUsed s die = false) →
          ∀ s2, release k .package s = .ok () s1 → s1.run.cur = k → changePower die goal s1 = .ok () s2 → s2.run.cur = k →
          ((s2.die die).regs.pchange ≠ none →
            exec (.pwrset d a) s = .next (s2.setThread k { cur s2 with waiting := some none }).stallsNow) ∧
          (∀ t, (s2.die die).regs.pchange = none → acquire k .package s2 = .ok () t → t.run.cur = k → quiet t →
            free t d → exec (.pwrset d a) s = .next (wrote t 4 d 0)))))) ∧
    (∀ die : BitVec 2,
      let r := (s.die die.toNat).regs
      (r.power = .p3 ∨ r.power = .trip → exec (.thermalTrip die) s = .next s) ∧
      (r.power ≠ .p3 → r.power ≠ .trip → ∃ t, exec (.thermalTrip die) s = .next t ∧
        (t.die die.toNat).regs.power = .trip ∧ (t.die die.toNat).regs.tripClear = false ∧ t.mem = s.mem ∧
        t.threads = s.threads ∧
        (t.core 0x2000).irqs = (s.core 0x2000).irqs ++ [BitVec.ofNat 64 (3 + die.toNat * 2 ^ 24)] ∧
        (t.core (die.toNat * 2048)).irqs =
          (s.core (die.toNat * 2048)).irqs ++ [BitVec.ofNat 64 (3 + die.toNat * 2 ^ 24)]))

/-- R323, R356, R400: KILLCORE answers its refusals, or kills a core of the die; DICT and KLOAD answer 1 where target and
issuer are not compute cores of one die, 2 for a range outside the table, and otherwise read the words and put them into the
target's dictionary or constant bank after a release.
Where it rests on the model's own choices: log entry 26. -/
def Obligations.KillAndLoad : Prop :=
  ∀ (s s1 : State) (d a : Reg), quiet s → full s a → free s d →
    let k := s.run.cur
    let x := (g s a).toNat
    (let who := x % 2 ^ 14
     (cur s).lists = [] → release k .die s = .ok () s1 → s1.run.cur = k → quiet s1 → cur s1 = cur s →
      (isHub (k / 8) = true → exec (.killcore d a) s = .next (wrote s1 4 d 4)) ∧
      (isHub (k / 8) = false →
        (2 ^ 14 ≤ x → exec (.killcore d a) s = .next (wrote s1 4 d 3)) ∧
        (x < 2 ^ 14 → isHub who = true ∨ dieOf who ≠ dieOf (k / 8) ∨ isDevKernel who = true →
          exec (.killcore d a) s = .next (wrote s1 4 d 1)) ∧
        (x < 2 ^ 14 → isHub who = false → dieOf who = dieOf (k / 8) → isDevKernel who = false →
          ((s1.core who).killed = true → exec (.killcore d a) s = .next (wrote s1 4 d 2)) ∧
          ((s1.core who).killed = false → ∀ t, killCore who 0 false s1 = .ok () t → t.run.cur = k → quiet t →
            exec (.killcore d a) s = .next (wrote t 4 d 0))))) ∧
    (full s (a + 1) → noRemote s →
      let z := (g s (a + 1)).toNat
      let who := z / 2 ^ 21 % 2 ^ 14
      let apart := isHub (k / 8) = true ∨ isHub who = true ∨ dieOf who ≠ dieOf (k / 8)
      let words := fun (half : Bool) (bs : List Byte) => (List.range (bs.length / 4)).map fun i =>
        if half then BitVec.ofNat 32 (number ((bs.drop (4 * i)).take 2) * 2 ^ 16 + number ((bs.drop (4 * i + 2)).take 2))
        else BitVec.ofNat 32 (number ((bs.drop (4 * i)).take 4))
      (apart → exec (.dict d a) s = .next (wrote s.askAgain 4 d 1) ∧ exec (.kload d a) s = .next (wrote s.askAgain 4 d 1)) ∧
      (¬ apart →
        (let first := z % 2 ^ 10
         let n := z / 2 ^ 10 % 2 ^ 11
         let good := z < 2 ^ 35 ∧ 1 ≤ n ∧ n ≤ 1024 ∧ first + n ≤ 1024
         (¬ good → exec (.dict d a) s = .next (wrote s.askAgain 4 d 2)) ∧
         (good → carriedFrom s.askAgain s (.dict d a) (do release k .package; readWords (x % 2 ^ 52) n) fun bs t =>
           (wrote (t.setCore who { t.core who with dict := putWords (t.core who).dict first (words true bs) }) 4 d 0).dropWaits
             k)) ∧
        (let first := z % 2 ^ 8
         let n := z / 2 ^ 9 % 2 ^ 9
         let good := z < 2 ^ 35 ∧ z / 2 ^ 8 % 2 = 0 ∧ z / 2 ^ 18 % 8 = 0 ∧ 1 ≤ n ∧ n ≤ 256 ∧ first + n ≤ 256
         (¬ good → exec (.kload d a) s = .next (wrote s.askAgain 4 d 2)) ∧
         (good → carriedFrom s.askAgain s (.kload d a) (do release k .package; readWords (x % 2 ^ 52) n) fun bs t =>
           (wrote (t.setCore who { t.core who with bank := putWords (t.core who).bank first (words false bs) }) 4 d 0).dropWaits
             k))))


namespace Sys2Proof.Claims
open Sys2Proof.Machine

/-- A ready bit set in its register (R409). -/
def raised (s : State) (f : ReadyFn) : State :=
  { s with boot := match f with
    | .core b => { s.boot with rdycore := s.boot.rdycore ||| BitVec.ofNat 64 (2 ^ b) }
    | .mem b => { s.boot with rdymem := s.boot.rdymem ||| BitVec.ofNat 64 (2 ^ b) }
    | .link b => { s.boot with rdylink := s.boot.rdylink ||| BitVec.ofNat 64 (2 ^ b) }
    | .eng b => { s.boot with rdyeng := s.boot.rdyeng ||| BitVec.ofNat 64 (2 ^ b) } }

/-- Whether a function of the package has still to come up: it exists, its bit is clear, and it has not failed (R409, R410). -/
abbrev rising (s : State) (f : ReadyFn) : Prop :=
  f ∉ s.boot.failed ∧ match f with
    | .core b => (b < 4 ∨ b = 8) ∧ s.boot.rdycore.getLsbD b = false
    | .mem b => b < 12 ∧ s.boot.rdymem.getLsbD b = false
    | .link b => b < 26 ∧ s.boot.rdylink.getLsbD b = false
    | .eng b => b < 14 ∧ s.boot.rdyeng.getLsbD b = false

/-- Whether the function is up or powered: a link that works, a die that has power (R409, R412). -/
abbrev powered (s : State) (f : ReadyFn) : Prop :=
  match f with
  | .core b => b < 4 → (s.die b).regs.power ≠ .p3
  | .mem b => (s.die (b % 4)).regs.power ≠ .p3
  | .link b => if b < 16 then (s.link b).works = true else (s.route (b - 16)).works = true
  | .eng b => b < 12 → (s.die (b % 4)).regs.power ≠ .p3

/-- A thread that bring-up has started (R407): RUNNABLE at an entry address, without its bit 0 (log entry 75), in KERNEL
mode, interrupts disabled, every register 0 and full. -/
def startedAt (x : Thread) (entry : Word) : Prop :=
  x.st = .runnable ∧ x.pc.toNat = entry.toNat % 2 ^ 52 / 2 * 2 ∧ x.kern.kmode = true ∧ x.kern.kstatus = 0 ∧ x.kern.kvec = 0 ∧
    x.kern.ctxid = 0 ∧ ∀ r, x.reg r = 0 ∧ x.isEmpty r = false

/-- The words of a message to class 14 about a link (R279, R390). -/
def linkWords (byte3 : Nat) (code : Nat) : List Byte :=
  lowBytes 2 0x2000 ++ [0x09, BitVec.ofNat 8 byte3] ++ lowBytes 2 0 ++ lowBytes 2 (BitVec.ofNat 64 code) ++
    List.replicate 24 0

/-- The state with one message about a link for every device kernel of a die that is not isolated. -/
def announced (s : State) (byte3 code : Nat) : State :=
  { s with sysmsgs := s.sysmsgs ++ ((List.range 4).filter fun d => !(s.die d).isolated).map fun d =>
      { src := 0x2000, dst := d * 2048, pool := 14, cls := 14, place := none, header := 0, bytes := linkWords byte3 code } }

/-- A port, or rim path `p - 16`, in a state. -/
def ported (s : State) (p : Nat) (x : LinkState) : State :=
  { s with links :=
      if p < 16 then { s.links with ports := s.links.ports.setIfInBounds p x }
      else { s.links with rims := s.links.rims.setIfInBounds (p - 16) x } }

/-- An answer kept with a request to another device that waits for it; a posted store is over, and its abort is kept for the
next release of its thread (R124, R393, R394). -/
def answered (s : State) (w : LinkWait) (status : Nat) (data : List Byte) : State :=
  if w.posted then
    let s' := { s with links := { s.links with waits := s.links.waits.filter fun x => x.id != w.id } }
    if status = 0 then s' else s'.setThread w.thread { s.thread w.thread with
      lost := (s.thread w.thread).lost ++ [{ order := w.order, faddr := w.faddr, link := some (status - 1), finfo := w.finfo }] }
  else { s with links := { s.links with
    waits := s.links.waits.map fun x => if x.id = w.id then { x with answer := some (status, data) } else x } }

/-- The requests that could not be sent in `before` and can now are sent now: TIMEOUT counts from here (R393, R394, R410). -/
def letGo (before s : State) : State :=
  { s with links := { s.links with waits := s.links.waits.map fun w =>
      if w.answer.isNone = true ∧ before.unsent w = true ∧ s.unsent w = false then { w with sent := s.time } else w } }

end Sys2Proof.Claims

/-- R407 to R410: package reset brings every record to its reset value and every link to TRAINING, and keeps the memory's
contents. A function's bring-up sets its ready bit, once, and does nothing for a failed function; a die's clusters start the
device kernel at DEVENTRY where an image is booted; the last function that the boot ROM waits for runs it: with a valid slot
the hub cores start at HOSTENTRY and the body stands at LOAD, and with none hub core 0 halts; a slot that is copied only to be
verified leaves its copy.
Where it rests on the model's own choices: log entries 34, 35, 39 and 75. -/
def Sys2Proof.Claims.BringUpResults : Prop :=
  ∀ (s : State),
    exec .packageReset s = .next { State.reset with
      mem := s.mem
      bad := s.bad
      latent := s.latent
      badLocal := s.badLocal
      latentLocal := s.latentLocal
      links := { ports := Vector.replicate 16 .training, rims := Vector.replicate 20 .training }
      boot := { farBytes := s.boot.farBytes, minver := s.boot.minver, fuses := s.boot.fuses, failed := s.boot.failed }
      run := { s.run with cur := 0, pipe := [] } } ∧
    (∀ f, ¬ rising s f → exec (.functionReady f) s = .next s) ∧
    (∀ f, rising s f → powered s f → (raised s f).romReady = false →
      ((∀ d, f ≠ .core d ∨ d = 8) → exec (.functionReady f) s = .next (raised s f)) ∧
      (∀ d, f = .core d → d < 4 → s.boot.rdycore.getLsbD 9 = false →
        exec (.functionReady f) s = .next ((raised s f).setDie d { s.die d with
          regs := { (s.die d).regs with pchange := none } })) ∧
      (∀ d, f = .core d → d < 4 → s.boot.rdycore.getLsbD 9 = true → ∃ t, exec (.functionReady f) s = .next t ∧
        (∀ h, h < 8 → startedAt (t.thread (d * 16384 + h)) s.boot.deventry) ∧ t.mem = s.mem ∧ t.boot = (raised s f).boot)) ∧
    (∀ f, rising s f → powered s f → (∀ d, f ≠ .core d ∨ d = 8) → (raised s f).romReady = true →
      let u := raised s f
      (bootSlot u = none → ∃ t, exec (.functionReady f) s = .next t ∧ (t.core 0x2000).halted = true ∧
        t.boot.romDone = true ∧ t.threads = s.threads ∧
        t.mem = (([0, 1].filter fun i => !slotFieldBad u i).foldl (fun x i => copyBody i x) u).mem) ∧
      (∀ slot, bootSlot u = some slot →
        let u0 := if slotFieldBad u (1 - slot) then u else copyBody (1 - slot) u
        ∃ t, exec (.functionReady f) s = .next t ∧
        t.boot.romDone = true ∧ t.boot.rdycore.getLsbD 9 = true ∧
        t.mem = memRestore u0.mem (slotLoad u0 slot) (slotLength u0 slot)
          (memSlice u0.mem (placeFlash (slot * 0x8000000 + 0x1000)) (slotLength u0 slot) 0) (slotLoad u0 slot) ∧
        ∀ k, k < 128 → startedAt (t.thread (0x2000 * 8 + k)) (BitVec.ofNat 64 (slotField s slot 24 8))))

/-- R411: the hub die answers every SPDM request that arrives while a port works, each answer signed: GET_MEASUREMENTS with the
digest of the item asked for, or of all four; GET_DIGESTS and GET_CERTIFICATE with the certificate chain, which both
signatures of the device certificate close; CHALLENGE with a nonce; GET_VERSION with version 1.3; a request that it does not
support with an error.
Where it rests on the model's own choices: log entry 45, which holds the codes and layouts, those of SPDM 1.3. -/
def Sys2Proof.Claims.MeasurementAnswers : Prop :=
  ∀ (s : State) (r : SpdmReq),
    let c := r.code.toNat
    let param := fun (i : Nat) => number ((r.body.drop i).take 1)
    let nonce := (List.range 32).map fun i => BitVec.ofNat 8 ((Config.freeLine s.run.free).toNat / 2 ^ (8 * i))
    let answers := fun (a : List Byte) => exec (.spdmRequest r) s = .next { s with
      run := { s.run with free := s.run.free + 1 }
      boot := { s.boot with spdmOut := s.boot.spdmOut ++ [a ++ Config.ecdsaSign (r.body ++ a)] } }
    let slot := s.boot.bootstat.toNat % 2
    let block := fun (i kind : Nat) (item : List Byte) =>
      let d := Config.sha384 item
      [BitVec.ofNat 8 i, 1] ++ lowBytes 2 (BitVec.ofNat 64 (d.length + 3)) ++ [BitVec.ofNat 8 kind] ++
        lowBytes 2 (BitVec.ofNat 64 d.length) ++ d
    let m1 := block 1 0 Config.bootRom
    let m2 := block 2 3 (slotBytes s slot 0 192)
    let m3 := block 3 1 (slotBytes s slot 0x1000 (slotLength s slot))
    let m4 := block 4 2 (s.boot.fuses ++ lowBytes 4 (BitVec.ofNat 64 s.boot.minver))
    let record := fun (n : Nat) (ms : List Byte) =>
      [0x13, 0x60, 0, 0, BitVec.ofNat 8 n] ++ lowBytes 3 (BitVec.ofNat 64 ms.length) ++ ms ++ nonce ++ [0, 0] ++
        (r.body.drop 35).take 8
    let cert := Config.sha384 Config.rootCert ++ Config.deviceCert ++ Config.issuerEcdsa Config.deviceCert ++
      Config.issuerLms Config.deviceCert
    let chain := lowBytes 4 (BitVec.ofNat 64 (cert.length + 4)) ++ cert
    let off := number ((r.body.drop 2).take 2)
    let n := min (number ((r.body.drop 4).take 2)) (chain.length - off)
    ((∀ p, p < 16 → (s.link p).works = false) → exec (.spdmRequest r) s = .next s) ∧
    ((∃ p, p < 16 ∧ (s.link p).works = true) →
      (c = 0x84 → answers [0x10, 0x04, 0, 0, 0, 1, 0, 0x13]) ∧
      (c = 0x81 → answers ([0x13, 0x01, 1, 1] ++ Config.sha384 chain)) ∧
      (c = 0x82 → param 0 = 0 → off < chain.length → answers ([0x13, 0x02, 0, 0] ++ lowBytes 2 (BitVec.ofNat 64 n) ++
        lowBytes 2 (BitVec.ofNat 64 (chain.length - off - n)) ++ (chain.drop off).take n)) ∧
      (c = 0x83 → param 0 = 0 → param 1 = 0 → answers ([0x13, 0x03, 0, 1] ++ Config.sha384 chain ++ nonce ++ [0, 0] ++
        (r.body.drop 34).take 8)) ∧
      (c = 0xE0 →
        (param 1 = 1 → answers (record 1 m1)) ∧ (param 1 = 2 → answers (record 1 m2)) ∧
        (param 1 = 3 → answers (record 1 m3)) ∧ (param 1 = 4 → answers (record 1 m4)) ∧
        (param 1 = 0xFF → answers (record 4 (m1 ++ m2 ++ m3 ++ m4)))) ∧
      (c = 0xE1 ∨ c = 0xE3 → ∃ a, answers a ∧ a.take 4 = [0x13, BitVec.ofNat 8 (c - 0x80), 0, 0]) ∧
      (c ∉ [0x81, 0x82, 0x83, 0x84, 0xE0, 0xE1, 0xE3] → answers [0x13, 0x7F, 7, BitVec.ofNat 8 c]))

/-- R369: GO starts the die's migration or refuses it; END ends a migration that is DONE and is ignored otherwise; each step
copies the next line at OLD's home, and the step of the last line adds to MIGOBJ and sets DONE.
Where it rests on the model's own choices: log entries 29 and 42. -/
def Obligations.MigrationResults : Prop :=
  ∀ (s : State) (k : Nat) (old new : BitVec 24) (die : BitVec 2), quiet s →
    let d := dieOf (k / 8)
    let migrated := fun (t : State) (n : Nat) (m : Migration) => t.setDie n { t.die n with mig := m }
    let m := (s.die d).mig
    let pool := (s.die d).regs.swpool.toNat
    let refused := m.st ≠ .idle ∨ old.toNat / 2 ^ 22 ≠ d ∨ s.hasMemory (new.toNat * 2 ^ 18) = false ∨
      (pool % 2 ^ 42 / 2 ^ 18 ≤ old.toNat ∧ old.toNat < pool % 2 ^ 42 / 2 ^ 18 + pool / 2 ^ 42) ∨
      ∃ e ∈ s.homes.dir, e.1 / 4096 = old.toNat ∧ e.2.pinned = true
    (refused → exec (.migrationGo k old new) s = .next (migrated s d { m with refused := true })) ∧
    (¬ refused → exec (.migrationGo k old new) s = .next (migrated s d
      { st := .running, old := old.toNat, new := new.toNat, obj := (s.die d).regs.migobj, thread := k })) ∧
    (m.st = .done → exec (.migrationEnd k) s = .next (migrated s d {})) ∧
    (m.st ≠ .done → exec (.migrationEnd k) s = .next (migrated s d m)) ∧
    (let x := (s.die die.toNat).mig
     let line := fun (frame : Nat) => frame * 4096 + x.copied
     let may := x.st = .running ∧ (s.dirOf (line x.old)).busy = none ∧ (s.dirOf (line x.new)).busy = none ∧
       s.memReady (line x.old) = true ∧ s.memReady (line x.new) = true
     (¬ may → exec (.migrationLineCopy die) s = .next s) ∧
     (may → ∀ t, x.copied < 4096 →
       moveLine (line x.old) (line x.new) { who := x.thread / 8, ctx := 0, engine := true } s = .ok () t →
       (x.copied < 4095 → exec (.migrationLineCopy die) s = .next
         (migrated t die.toNat { (t.die die.toNat).mig with copied := (t.die die.toNat).mig.copied + 1 })) ∧
       (x.copied = 4095 → ∀ u, migrationAdd x die.toNat
           (migrated t die.toNat { (t.die die.toNat).mig with copied := (t.die die.toNat).mig.copied + 1 }) = .ok () u →
         ∃ v, exec (.migrationLineCopy die) s = .next v ∧ v.mem = u.mem ∧ (v.die die.toNat).mig.st = .done ∧
           (v.die die.toNat).mig.stat = 2)))

/-- R388 and R390: PORTCMD TRAIN begins training from DOWN and FAILED; training ends UP with 8 lanes, DEGRADED with 4 to 7
and DOWN with fewer, which ends the requests that no port reaches any more; requests that waited for the port go; a lane lost takes an UP link to DEGRADED; a failure takes a working port to FAILED, and DOWN takes any
port to DOWN, with a message to the device kernels where the state changes so.
Where it rests on the model's own choices: log entries 28, 30, 33 and 43. -/
def Sys2Proof.Claims.PortResults : Prop :=
  ∀ (s : State) (p : BitVec 4) (l lanes : Nat),
    let n := p.toNat
    (s.link n = .down ∨ s.link n = .failed → exec (.portTrain p) s = .next (ported s n .training)) ∧
    (s.link n ≠ .down → s.link n ≠ .failed → exec (.portTrain p) s = .next s) ∧
    (s.link n = .failed → exec (.portDown p) s = .next (announced (ported s n .down) n 0)) ∧
    (s.link n = .training → ∀ t, endUnreachable (ported s n .down) = .ok () t →
      exec (.portDown p) s = .next (announced t n 0)) ∧
    (s.link n = .down → exec (.portDown p) s = .next s) ∧
    ((s.link n).works = true → ∀ t, portLost n (ported s n .down) = .ok () t →
      exec (.portDown p) s = .next (announced t n 0)) ∧
    (s.link l ≠ .training → exec (.linkTrainingDone l lanes) s = .next s) ∧
    (s.link l = .training → l < 16 →
      let ready := fun (t : State) => raised t (.link l)
      let up' := (.link l ∉ s.boot.failed)
      (8 ≤ lanes → up' → l ∉ s.links.wasFailed →
        exec (.linkTrainingDone l lanes) s = .next (letGo s (ready (ported s l .up)))) ∧
      (8 ≤ lanes → up' → l ∈ s.links.wasFailed → ∃ t, exec (.linkTrainingDone l lanes) s = .next t ∧ t.link l = .up ∧
        l ∉ t.links.wasFailed ∧ t.sysmsgs = (announced s l 2).sysmsgs ∧ t.mem = s.mem ∧ t.threads = s.threads) ∧
      (4 ≤ lanes → lanes < 8 → up' →
        exec (.linkTrainingDone l lanes) s = .next (letGo s (ready (ported s l .degraded)))) ∧
      (lanes < 4 ∨ ¬ up' → ∀ t, endUnreachable (ported s l .down) = .ok () t →
        exec (.linkTrainingDone l lanes) s = .next t)) ∧
    (s.link l = .training → 16 ≤ l →
      let route := (l - 16) / 2
      let up' := (.link (16 + route) ∉ s.boot.failed)
      (8 ≤ lanes → up' → l ∉ s.links.wasFailed →
        exec (.linkTrainingDone l lanes) s = .next (letGo s (raised (ported s l .up) (.link (16 + route))))) ∧
      (4 ≤ lanes → lanes < 8 → up' →
        exec (.linkTrainingDone l lanes) s = .next (letGo s (raised (ported s l .degraded) (.link (16 + route))))) ∧
      (lanes < 4 ∨ ¬ up' → (ported s l .down).route route ≠ .failed →
        exec (.linkTrainingDone l lanes) s = .next (ported s l .down)) ∧
      (lanes < 4 ∨ ¬ up' → (ported s l .down).route route = .failed → ∀ t, routeFailed route (ported s l .down) = .ok () t →
        exec (.linkTrainingDone l lanes) s = .next t)) ∧
    (s.link l ≠ .up → exec (.laneLost l) s = .next s) ∧
    (s.link l = .up → ∃ t, exec (.laneLost l) s = .next t ∧ (l < 36 → t.link l = .degraded) ∧ t.mem = s.mem ∧
      t.threads = s.threads ∧ t.sysmsgs = s.sysmsgs) ∧
    ((s.link l).works = false → exec (.linkFailure l) s = .next s) ∧
    ((s.link l).works = true → l < 16 → ∀ t, portLost l { ported s l .failed with links := { (ported s l .failed).links with
        wasFailed := (l :: s.links.wasFailed).eraseDups } } = .ok () t →
      exec (.linkFailure l) s = .next (announced t l 4))

/-- R159, R391 to R394: a response answers its request, 0 or the abort it names, and one that answers nothing or is malformed
changes nothing; a request without a response for 100 ms ends with TIMEOUT; a request from another device is served in
pieces and answered 0 with its data, 1 where its translation fails and 2 where the memory withholds; one of a single piece may
be left at its home among other requests; all its pages are checked before a byte is read or placed; one for another device, or that
R392 does not allow, is no request.
Where it rests on the model's own choices: log entries 4, 17, 32, 44, 74 and 82. -/
def Sys2Proof.Claims.LinkRequestResults : Prop :=
  ∀ (s : State) (id : Nat) (status : BitVec 8) (data : List Byte) (r : LinkReq) (w : LinkWait),
    (let open' := s.links.waits.find? fun w => w.id == id && w.answer.isNone
     (open' = none → exec (.linkResponse id status data) s = .next s ∧ exec (.linkTimeout id) s = .next s) ∧
     (open' = some w →
       let want := if status ≠ 0 then 0 else match w.op with
         | .load => w.len
         | .atomic => if w.atop.testBit 7 then 8 else 4
         | _ => 0
       (s.unsent w = true ∨ 2 < status.toNat ∨ data.length ≠ want → exec (.linkResponse id status data) s = .next s) ∧
       (s.unsent w = false → status.toNat ≤ 2 → data.length = want → exec (.linkResponse id status data) s =
         .next (letGo s (answered s w (if status = 0 then 0 else status.toNat + 2) data))) ∧
       (s.unsent w = true ∨ s.time < w.sent + 100000000 → exec (.linkTimeout id) s = .next s) ∧
       (s.unsent w = false → w.sent + 100000000 ≤ s.time →
         exec (.linkTimeout id) s = .next (letGo s (answered s w 6 []))))) ∧
    (let here := r.dst.toNat = (s.die 0).regs.devtag.toNat % 2 ^ 8 ∧ ∃ p, p < 16 ∧ (s.link p).works = true
     let ps := pieces r.va.toNat (if r.op = .atomic then if r.atop.getLsbD 7 then 8 else 4 else r.len)
     let o1 := if ps.length = 1 then s.run.oracle.tail else s.run.oracle
     let back := decide (r.op = .store) && decide (o1.headD 0 % 2 = 1)
     let s1 := { s with
       links := { s.links with nextId := s.links.nextId + 1 }
       run := { s.run with oracle := if r.op = .store then o1.tail else o1 } }
     let served := fun (link : Option Nat) => (do
       checkPages r ps
       ps.mapM fun p => servePiece r p.1 p.2 back link : M (List (List Byte)))
     let ans := fun (t : State) (status : Nat) (data : List Byte) => { t with links := { t.links with
       answers := t.links.answers ++ [⟨s.links.nextId, r.src.toNat, status, data⟩] } }
     (¬ here ∨ linkFormed r = false → exec (.linkRequest r) s = .next s) ∧
     (here → linkFormed r = true → (ps.length = 1 → s.run.oracle.headD 0 % 2 = 0) →
       (∀ t parts, served none s1 = .ok parts t → exec (.linkRequest r) s = .next (ans t 0 parts.flatten)) ∧
       (∀ t x, served none s1 = .error (.trap x) t →
         ∃ u, exec (.linkRequest r) s = .next u ∧ u.mem = t.mem ∧ u.links.answers =
           t.links.answers ++ [⟨s.links.nextId, r.src.toNat, if x.cause = .memabort then 2 else 1, []⟩])) ∧
     (here → linkFormed r = true → ps.length = 1 → s.run.oracle.headD 0 % 2 = 1 → ∀ t parts,
       served (some s.links.nextId) { s1 with links := { s1.links with
         incoming := s1.links.incoming.put s.links.nextId r.src.toNat } } = .ok parts t →
       exec (.linkRequest r) s = .next t))


namespace Sys2Proof.Claims
open Sys2Proof.Machine

/-- A queue's record replaced. -/
def queueNow (s : State) (d q : Nat) (r : Queue) : State :=
  s.setDie d { s.die d with queues := (s.die d).queues.put q r }

/-- The status of a thread's last QCMD (R333). -/
def queueStatus (s : State) (k n : Nat) : State :=
  s.setThread k { s.thread k with kern := { (s.thread k).kern with qstat := BitVec.ofNat 2 n } }

/-- A queue that waits: its state, what for, and, where it was ACTIVE, QWAIT to the device kernel with the queue and the
entry's address (R331). -/
def queueWaits (s : State) (d q : Nat) (w : QWait) (idx : Nat) : State :=
  let r := s.queue d q
  let t := queueNow s d q { r with st := .waiting, wait := some w }
  let address := (r.base + 64 * (idx % Nat.max r.size 1)) % 2 ^ 52
  let bytes : List Byte := lowBytes 2 (BitVec.ofNat 64 (d * 2048)) ++ [0x08, 0] ++ lowBytes 2 (BitVec.ofNat 64 (q / 512)) ++
    lowBytes 2 (BitVec.ofNat 64 (q % 512)) ++ lowBytes 8 (BitVec.ofNat 64 address) ++ List.replicate 16 0
  let message : Flight :=
    { src := d * 2048, dst := d * 2048, cls := 14, place := none, header := 0, bytes := bytes, pool := 14,
      origin := .front d }
  if r.st = .active then { t with sysmsgs := t.sysmsgs ++ [message] } else t

/-- A front end begins to look at a queue: its notify bit is cleared (R328); one that it looks at already keeps it. -/
def looksAt (s : State) (d q : Nat) : State :=
  let r := s.queue d q
  if r.looking then s
  else queueNow { s with notified := s.notified.filter (· != q) } d q { r with notify := false, looking := true }

/-- A queue that may take its next entry. -/
def queueGoesOn (s : State) (d q : Nat) : State :=
  queueNow s d q { s.queue d q with st := .resident, inHand := none, wait := none }

/-- Bytes of a command's entry as a number, lowest first. -/
def body (c : Command) (o n : Nat) : Nat := number ((c.bytes.drop o).take n)

/-- A launch's record replaced. -/
def launchNow (s : State) (id : Nat) (l : Launch) : State := { s with launches := s.launches.put id l }

end Sys2Proof.Claims

/-- R331, R333, R335: SWAPIN, SWAPOUT, RESTART and THAW answer 3 on a hub core and 1 for a queue in another state; SWAPIN
answers 2 with all sixteen slots taken, and otherwise makes the queue RESIDENT, or WAITING where a wait is recorded, or
ACTIVE where a command is in hand, with its RD; SWAPOUT and THAW make it READY; a SWAPOUT of an ACTIVE queue waits.
Where it rests on the model's own choices: log entry 61. -/
def Sys2Proof.Claims.QueueStates : Prop :=
  ∀ (s : State) (k : Nat) (ctx : BitVec 16) (qn : BitVec 9) (prio : BitVec 3), quiet s →
    let d := dieOf (k / 8)
    let q := ctx.toNat * 512 + qn.toNat
    let r := s.queue d q
    (isHub (k / 8) = true → ∀ i ∈ [Instr.swapin k ctx qn prio, .swapout k ctx qn, .restart k ctx qn, .thaw k ctx qn],
      exec i s = .next (queueStatus s k 3)) ∧
    let fin := fun (t : State) (n : Nat) => queueStatus (t.dropAsked k) k n
    (isHub (k / 8) = false →
      (r.st ≠ .idle → r.st ≠ .ready → exec (.swapin k ctx qn prio) s = .next (fin s.askAgain 1)) ∧
      (r.st = .idle ∨ r.st = .ready → ∀ hdr s1, tableHdr d q s.askAgain = .ok (some hdr) s1 →
        (16 ≤ residents s1 d → quiet s1 → exec (.swapin k ctx qn prio) s = .next (fin s1 2)) ∧
        (residents s1 d < 16 → ∀ s2 s3 bs, learnNotify d (q / 512) s1 = .ok () s2 →
          readPlain (queueAgent d q) (hdr % 2 ^ 52) 64 s2 = .ok bs s3 → ringBad hdr bs = false → quiet s3 →
          exec (.swapin k ctx qn prio) s = .next (fin (queueNow s3 d q { s3.queue d q with
            st := if (s3.queue d q).wait.isSome then .waiting
              else if (s3.queue d q).inHand.isSome then .active else .resident
            hdr := some hdr
            prio := prio.toNat
            size := number ((bs.drop 16).take 4)
            base := number ((bs.drop 24).take 8)
            rd := BitVec.ofNat 32 (number (bs.take 4))
            notify := true }) 0))) ∧
      (r.st = .resident ∨ r.st = .waiting →
        exec (.swapout k ctx qn) s = .next
          (fin ((queueNow s.askAgain d q { r with st := .ready, looking := false }).dropWaits (queueAgent d q).k) 0)) ∧
      (r.st = .active → exec (.swapout k ctx qn) s = .next ({ s with links := s.askAgain.links } : State).stallsNow) ∧
      (r.st ∈ [.idle, .ready, .error, .frozen] → exec (.swapout k ctx qn) s = .next (fin s.askAgain 1)) ∧
      (r.st ≠ .error → exec (.restart k ctx qn) s = .next (fin s.askAgain 1)) ∧
      (r.st = .error → ∀ h bs s1 s2, r.hdr = some h → readPlain (queueAgent d q) (h % 2 ^ 52) 64 s.askAgain = .ok bs s1 →
        let s1' := queueNow s1 d q { s1.queue d q with rd := BitVec.ofNat 32 (number (bs.take 4)) }
        (s1.queue d q).hdr = some h →
        writeVa (queueAgent d q) ((h + 36) % 2 ^ 52) [0, 0] 0 s1' = .ok () s2 → quiet s2 →
        exec (.restart k ctx qn) s = .next (fin (queueNow s2 d q { s2.queue d q with st := .ready }) 0)) ∧
      (r.st ≠ .frozen → exec (.thaw k ctx qn) s = .next (fin s.askAgain 1)) ∧
      (r.st = .frozen → ∀ h s2, r.hdr = some h →
        writeVa (queueAgent d q) ((h + 36) % 2 ^ 52) [0, 0] 0 s.askAgain = .ok () s2 → quiet s2 →
        exec (.thaw k ctx qn) s = .next (fin (queueNow s2 d q { s2.queue d q with st := .ready }) 0)))

/-- R326, R328, R329, R331, R332: a front end takes the entry at the head of the first queue in the order of R332 that its
context lets run: its notify bit is cleared, RD rises and the queue is ACTIVE with the command in hand. A LAUNCH enters
QUEUED, a COPY becomes an engine of the context, a NOP does nothing, a SIGNAL adds to its completion object; each lets the
queue go on. A WAIT goes on where COUNT has reached the
target, and otherwise holds the queue WAITING, as does SERIAL or a SIGNAL while earlier commands run; QWAIT is sent once, as the
queue leaves ACTIVE; a queue WAITING for a COUNT that has come, or for earlier commands that have completed, goes on.
Where it rests on the model's own choices: log entry 61. -/
def Sys2Proof.Claims.QueueWork : Prop :=
  ∀ (s : State) (die : BitVec 2) (q : Nat),
    let d := die.toNat
    let r := s.queue d q
    ((∃ x ∈ (s.die d).queues, x.2.st = .active) ∨ queueOrder s d = [] → exec (.queueEntryTake die) s = .next s) ∧
    ((∀ x ∈ (s.die d).queues, x.2.st ≠ .active) → ∀ rest n s1, queueOrder s d = q :: rest →
      contextState d (q / 512) s = .ok n s1 → n % 8 = 3 → ∀ kind bs s2 s3,
      let a1 := (looksAt s1 d q).askAgain
      let r1 := a1.queue d q
      readHead d q r1 a1 = .ok (.entry kind bs) s2 →
      let s2' := queueNow s2 d q { s2.queue d q with looking := false }
      ∀ h, (s2'.queue d q).hdr = some h →
      writeVa (queueAgent d q) (h % 2 ^ 52) (lowBytes 4 (BitVec.ofNat 64 (r1.rd.toNat + 1))) 0 s2' = .ok () s3 →
      let t := queueNow s3 d q { s3.queue d q with
        st := .active, rd := r1.rd + 1, notify := true, inHand := some ⟨kind, bs, r1.rd.toNat⟩ }
      let u := t.dropAsked (queueAgent d q).k
      exec (.queueEntryTake die) s = .next (u.setDie d { u.die d with turn := (u.die d).turn.put r1.prio q })) ∧
    (∀ kind, inHandOf s d kind = none →
      (kind = 1 → exec (.launchCommand die) s = .next s) ∧ (kind = 2 → exec (.waitCommand die) s = .next s) ∧
      (kind = 3 → exec (.signalCommand die) s = .next s) ∧ (kind = 4 → exec (.copyCommand die) s = .next s) ∧
      (kind = 5 → exec (.nopCommand die) s = .next s)) ∧
    (∀ c kind, inHandOf s d kind = some (q, c) → r.inHand = some c → r.st = .active →
      let a := s.askAgain
      let fin := fun (t : State) => t.dropAsked (queueAgent d q).k
      let serial := body c 2 2 % 2 = 1
      (r.live ≠ [] → (serial ∨ kind = 3) →
        let held := fin (queueWaits a d q .launches c.idx)
        (kind = 1 → exec (.launchCommand die) s = .next held) ∧ (kind = 2 → exec (.waitCommand die) s = .next held) ∧
        (kind = 3 → exec (.signalCommand die) s = .next held) ∧ (kind = 4 → exec (.copyCommand die) s = .next held) ∧
        (kind = 5 → exec (.nopCommand die) s = .next held)) ∧
      (¬ serial ∨ r.live = [] →
        (kind = 1 → ∀ h s1, readPlain (queueAgent d q) (body c 8 8 % 2 ^ 52) 64 a = .ok h s1 →
          let flags := number ((h.drop 1).take 1)
          let id := s1.launches.length
          let l : Launch :=
            { ctx := q / 512, die := d, queue := q, record := body c 8 8, dep := decide (flags % 2 = 1),
              early := decide (flags / 2 % 2 = 1), pred := (s1.queue d q).lastLaunch, entry := c.idx,
              doneobj := some (number ((h.drop 48).take 8) % 2 ^ 52) }
          exec (.launchCommand die) s = .next (fin (queueGoesOn (queueNow (launchNow s1 id l) d q { s1.queue d q with
            live := (s1.queue d q).live ++ [id], lastLaunch := some id }) d q))) ∧
        (kind = 2 → ∀ bs s1, readVa (queueAgent d q) (body c 8 8 % 2 ^ 52) 8 0 a = .ok bs s1 → number bs < 2 ^ 63 →
          (body c 16 8 % 2 ^ 63 ≤ number bs → exec (.waitCommand die) s = .next (fin (queueGoesOn s1 d q))) ∧
          (number bs < body c 16 8 % 2 ^ 63 → (s1.queue d q).inHand = some c → exec (.waitCommand die) s =
            .next (fin (queueWaits s1 d q (.count (body c 8 8) (body c 16 8)) c.idx)))) ∧
        (kind = 3 → r.live = [] →
          (∀ s1, objectAt (body c 8 8 % 2 ^ 52) = true → engineAtomic (queueAgent d q) (body c 8 8 % 2 ^ 52)
              { op := 16, wide := true, b := 0, b1 := 0 } a = .ok () s1 →
            exec (.signalCommand die) s = .next (fin (queueGoesOn s1 d q))) ∧
          (objectAt (body c 8 8 % 2 ^ 52) = false →
            exec (.signalCommand die) s = .next (fin (queueGoesOn a d q)))) ∧
        (kind = 4 →
          let e : Engine := { id := s.engineSeq
                              op := .qcopy (body c 8 8 % 2 ^ 52) (body c 16 8 % 2 ^ 52) (body c 24 4) (d * 2 ^ 26 + q) c.idx
                              thread := d * 2048 * 8, obj := BitVec.ofNat 64 (body c 32 8 % 2 ^ 52), fn := 0x0A
                              ctx := q / 512, user := true }
          exec (.copyCommand die) s = .next (fin (queueGoesOn (queueNow { a with
            engines := a.engines ++ [e], engineSeq := a.engineSeq + 1 } d q { r with
              live := r.live ++ [2 ^ 32 + s.engineSeq] }) d q))) ∧
        (kind = 5 → exec (.nopCommand die) s = .next (fin (queueGoesOn a d q))))) ∧
    (r.st ≠ .waiting ∨ s.ctxHalted (q / 512) = true ∨ r.wait = none →
      exec (.queueWaitMet die q) s = .next s) ∧
    (r.st = .waiting → s.ctxHalted (q / 512) = false →
      let a := s.askAgain
      let fin := fun (t : State) => t.dropAsked (queueAgent d q).k
      (∀ obj target bs s1, r.wait = some (.count obj target) →
        readVa (queueAgent d q) (obj % 2 ^ 52) 8 0 a = .ok bs s1 → number bs < 2 ^ 63 →
        (target % 2 ^ 63 ≤ number bs → exec (.queueWaitMet die q) s = .next (fin (queueGoesOn s1 d q))) ∧
        (number bs < target % 2 ^ 63 → exec (.queueWaitMet die q) s = .next (fin s1))) ∧
      (∀ c, r.wait = some .launches → r.inHand = some c →
        (r.live ≠ [] → exec (.queueWaitMet die q) s = .next s) ∧
        (r.live = [] →
          (c.kind = 5 → exec (.queueWaitMet die q) s = .next (fin (queueGoesOn a d q))) ∧
          (c.kind = 2 → ∀ bs s1, readVa (queueAgent d q) (body c 8 8 % 2 ^ 52) 8 0 a = .ok bs s1 → number bs < 2 ^ 63 →
            number bs < body c 16 8 % 2 ^ 63 → (s1.queue d q).inHand = some c →
            exec (.queueWaitMet die q) s =
              .next (fin (queueWaits s1 d q (.count (body c 8 8) (body c 16 8)) c.idx))))))

/-- R314, R316, R317, R318, R320: a queued launch becomes BINDING where it does not depend on another, or its predecessor is DONE
or has triggered enough; a binding one goes with an early predecessor that fails or is cancelled; one whose record passes the
checks and whose resources are free is bound and sends its start messages, one whose record fails ends FAULTED with the check's
STATUS; a releasing one with no message left to send is RUNNING, or DRAINING where the stages that received one have ended,
and the channels that its messages fed settle. A stage that may not end stays; one that may ends with its feeders.
A launch that has begun to fail freezes its queue. A draining launch with nothing outstanding is unbound and ends with STATUS 0,
0x20 or 1, and its DONEOBJ, where it is a completion object, counts it.
Where it rests on the model's own choices: log entry 60. -/
def Obligations.LaunchProgress : Prop :=
  ∀ (s : State) (id : Nat) (l : Launch), s.launches.find? id = some l →
    let pred := if l.dep then l.pred.bind s.launch? else none
    let going := fun (p : Launch) => p.failing = true ∨ p.cancelling = true
    let a := s.askAgain
    let agent := frontAgent l.die l.ctx id
    let fin := fun (t : State) => t.dropAsked agent.k
    let does := fun (i : Instr) (m : M Unit) (s1 : State) => ∀ t, m s1 = .ok () t → exec i s = .next (fin t)
    (l.st = .queued →
      (pred = none → exec (.launchBinding id) s = .next (fin (launchNow a id { l with st := .binding }))) ∧
      (∀ p, pred = some p → p.st = .done ∨
          (l.early = true ∧ p.trign ≤ p.triggers ∧ ¬ going p ∧ p.st ≠ .cancelled ∧ p.st ≠ .faulted) →
        exec (.launchBinding id) s = .next (fin (launchNow a id { l with st := .binding }))) ∧
      (∀ p, pred = some p → p.st = .cancelled ∨ p.st = .faulted → does (.launchBinding id) (cancelLaunch id) a) ∧
      (∀ p, pred = some p → p.st ∉ [.done, .cancelled, .faulted] → l.early = false ∨ going p ∨ p.triggers < p.trign →
        exec (.launchBinding id) s = .next (fin a))) ∧
    (l.st = .binding →
      (∀ p, pred = some p → l.early = true → going p → does (.launchBinding id) (cancelLaunch id) a) ∧
      ((l.early = true → ∀ p, pred = some p → ¬ going p) → ∀ h p s1 s2,
        readPlain agent (l.record % 2 ^ 52) 64 a = .ok h s1 → s1.launches = s.launches →
        let s1' := launchNow s1 id { l with doneobj := some (number ((h.drop 48).take 8) % 2 ^ 52) }
        (headerBad h = true → does (.launchBinding id) (faultLaunch id 0x10) s1') ∧
        (headerBad h = false → readPlan agent h s1' = .ok p s2 →
          (∀ code, planStatus s2 p = some code → does (.launchBinding id) (faultLaunch id code) s2) ∧
          (planStatus s2 p = none → resourcesFree s2 p = false → exec (.launchBinding id) s = .next (fin s2)) ∧
          (∀ s3, planStatus s2 p = none → resourcesFree s2 p = true → contextBinds l p s2 = .ok false s3 →
            exec (.launchBinding id) s = .next (fin s3)) ∧
          (∀ s3, planStatus s2 p = none → resourcesFree s2 p = true → contextBinds l p s2 = .ok true s3 →
            does (.launchBinding id) (do bindLaunch id l p; sendStarts (p.msgs.length + 1) id) s3)))) ∧
    (l.st = .releasing → l.msgs = [] →
      let a' := launchNow a id { l with st := l.afterStarts }
      (l.starts = [] → exec (.launchBinding id) s = .next (fin a')) ∧
      does (.launchBinding id) (l.starts.forM fun i => match l.chans[i]? with
        | some pl => settleChannel pl
        | none => pure ()) a') ∧
    (l.st ∈ [.running, .draining, .done, .cancelled, .faulted] → exec (.launchBinding id) s = .next (fin a)) ∧
    (∀ stage,
      (l.st ∉ [.releasing, .running, .draining] ∨ s.ctxHalted l.ctx = true ∨ stage ∉ endable s l →
        exec (.stageEnd id stage) s = .next s) ∧
      (l.st ∈ [.releasing, .running, .draining] → s.ctxHalted l.ctx = false → stage ∈ endable s l →
        ∃ t, exec (.stageEnd id stage) s = .next t ∧
        t.mem = s.mem ∧ t.threads = s.threads ∧ ∃ l', t.launches.find? id = some l' ∧
          l'.stages.map (·.ended) = l.stages.zipIdx.map (fun x => x.1.ended ||
            (feeders s l l.stages.length [stage]).contains x.2) ∧
          ∀ i st, (feeders s l l.stages.length [stage]).contains i = true → l.stages[i]? = some st →
            ∀ w ∈ st.cores, ∀ e ∈ (t.core w).inbox.eps, e.2.isOpen = false)) ∧
    (l.unsaid = true → does (.launchDone id) (do
      modLaunch id fun l => { l with unsaid := false }
      if l.failing then freezeQueue l.die l.queue l.entry 0x10
      cancelDependents (← get).launches.length id) a) ∧
    (l.unsaid = false → l.st ≠ .draining ∨ launchIdle s id l = false ∨ s.ctxHalted l.ctx = true →
      exec (.launchDone id) s = .next (fin a)) ∧
    (l.unsaid = false → l.st = .draining → launchIdle s id l = true → s.ctxHalted l.ctx = false →
      (l.failing = true → does (.launchDone id) (do unbind id l; faultLaunch id 0x20) a) ∧
      (l.failing = false → l.cancelling = true → does (.launchDone id) (do unbind id l; cancelLaunch id) a) ∧
      (l.failing = false → l.cancelling = false → ∀ s1, unbind id l a = .ok () s1 → s1.launches = s.launches →
        let s1' := queueNow (launchNow s1 id { l with st := .done, status := 0, msgs := [] }) l.die l.queue
          { s1.queue l.die l.queue with live := (s1.queue l.die l.queue).live.filter (· != id) }
        ∀ s2, isLocal ((l.record + 60) % 2 ^ 52) = false →
          writeVa agent ((l.record + 60) % 2 ^ 52) (lowBytes 4 0) 0 s1' = .ok () s2 →
          (l.doneobj = none → exec (.launchDone id) s = .next (fin s2)) ∧
          (∀ o, l.doneobj = some o →
            (objectAt o = false → exec (.launchDone id) s = .next (fin s2)) ∧
            (objectAt o = true →
              does (.launchDone id) (engineAtomic agent o { op := 16, wide := true, b := 0, b1 := 0 }) s2))))


/-- A step in which a thread's turn comes runs the instruction that the bytes at its PC decode to: where nothing comes before
it (R76, R346, R395), the fetch answers, and the word decodes on the thread's core to an instruction its mode may run, the step
is that instruction's effect at the state the fetch left, the thread's turn noted (`begun`) and passed to the core's other
threads (`rotated`); an instruction that must wait for an agent stays the thread's (`holding`) and is issued again as it is,
with no new fetch. A word that does not decode raises ILL with its subcode (R66), a barred one PRIV (R68), a fetch that traps
its trap (R52). The follower of a REP is fetched with it (R88); a REP whose instances run goes on without a fetch (R67), and
one that does not decode leaves REPCNT 0. A thread that may not issue, that another of higher priority outranks, or whose turn
has not come does nothing. Nothing else happens in such a step but the passing of time (`settled`).
Where it rests on the model's own choices: log entries 3 and 17. -/
def Obligations.StepRunsDecoded : Prop :=
  ∀ (s s1 : State) (k w len : Nat) (rest : List Act) (lit : BitVec 32),
    let u0 := (s.settled.withAgenda rest).focus k
    let u := u0.rotated k
    let t := u.thread k
    let a := u.askAgain
    let runs := fun (i : Instr) (x : State) => step s = match exec i x with
      | .next y => .next (if y.run.stalled.contains k then y.setThread k { y.thread k with doing := some i } else y)
      | o => o
    s.settled.run.agenda = .issue k :: rest → knownThread k = true →
    (u0.mayIssue k = false ∨ u0.outranked k = true ∨ u0.outOfTurn k = true → step s = .next u0) ∧
    (u0.mayIssue k = true → u0.outranked k = false → u0.outOfTurn k = false →
      (k % 8 = 0 → u.interruptible (k / 8) = false) →
      (∀ i, t.doing = some i → runs i (u.begun k)) ∧
      (∀ r, t.doing = none → t.rep = some r → (∀ x ∈ u.links.waits, x.thread ≠ k) → u.mismatchOf k = none →
        runs (.rep r.count r.sd r.sa r.sb) (a.begun k)) ∧
      (t.doing = none → t.rep = none →
        (∀ e, fetchInstr t.pc a = .error (.trap e) s1 → step s = finish (throw (.trap e)) (s1.dropWaits k)) ∧
        (∀ s0 f, fetchInstr t.pc a = .ok (w, lit, len) s0 →
          let rep := decide (len = 4) && decide (w / 2 ^ 26 % 2 ^ 6 = 0x16)
          (if rep then fetchInstr (t.pc + 4) s0 = .ok f s1 else s1 = s0) →
          s1.run.cur = k → (s1.thread k).kern = t.kern → (∀ x ∈ s1.links.waits, x.thread ≠ k) →
          let kernel := t.kern.kmode
          let found := decodeFetched (offerOf (k / 8) kernel) w lit len
          let x := s1.thread k
          (∀ i, found = .ok i → barred i kernel = false → s1.mismatchOf k = none → runs i (s1.begun k)) ∧
          (∀ i, found = .ok i → barred i kernel = true →
            step s = finish (throw (.trap ⟨.priv, 0, t.pc.setWidth 64, BitVec.ofNat 64 w⟩)) s1) ∧
          (∀ e, found = .error e →
            step s = finish (throw (.trap ⟨.ill, e.num, t.pc.setWidth 64,
              BitVec.ofNat 64 (if len = 2 then w * 2 ^ 32 + 2 ^ 48 else w)⟩))
                (if rep then s1.setThread k { x with ctl := { x.ctl with repcnt := 0 } } else s1)))))

/-- R47, R52, R358: a thread in KERNEL mode on a core without tables fetches each parcel from the two bytes of memory at its
address, the lower one first, where its cluster's instruction cache does not hold the line, nothing is on its way to the line's
home and the line's copies need no asking; the fetch leaves memory and every thread as they are. A line that the cache holds
may be used as it is. Two parcels make a word, the one at the lower address its upper half; a parcel
with bits 15:13 set is an instruction of its own, and one of major 0x0C is followed by a literal word (R48, R63).
Where it rests on the model's own choices: log entries 4, 12 and 46. -/
def Obligations.FetchReadsMemory : Prop :=
  ∀ (s s' : State) (pc : BitVec 52) (p q r t : Nat),
    let k := s.run.cur
    let here := pc.toNat
    let granted : M Unit := do
      let w ← walkerOf (homeDie (here / 64)) (Config.sliceOf (here / 64 % 2 ^ 33)).toNat
      checkCustody (viewOf k (cur s)) w (here / 2 ^ 18) false (pc.setWidth 64) 0
    (untranslated s (viewOf k (cur s)) = true → here < 2 ^ 42 → pc.getLsbD 0 = false →
      granted s = .ok () s' →
      s'.hasMemory (here / 64 * 64) = true → s'.memReady (here / 64) = true →
      s'.routeWaits (dieOf (k / 8)) (homeDie (here / 64)) = false → s'.cutOff (k / 8) (homeDie (here / 64)) = false →
      s'.redirect (here / 64) = here / 64 →
      s'.homes.dir.find? (here / 64) = none → (s'.homes.reqs.all fun x => x.pline != here / 64) = true →
      here / 64 ∉ s'.bad → here / 64 ∉ s'.latent →
      isHub (k / 8) = true ∨ (∀ x ∈ (s'.cluster (k / 8 / 8)).code, x.pline ≠ here / 64) →
      ∃ u, fetchParcel pc s = .ok (leNat (s'.mem.bytes here 2)) u ∧ u.mem = s'.mem ∧ u.threads = s.threads ∧ u.run = s'.run) ∧
    (untranslated s (viewOf k (cur s)) = true → here < 2 ^ 42 → pc.getLsbD 0 = false →
      granted s = .ok () s' → s'.cutOff (k / 8) (homeDie (here / 64)) = false →
      ∀ x, isHub (k / 8) = false → (s'.cluster (k / 8 / 8)).code.find? (·.pline == here / 64) = some x →
        s'.run.oracle.headD 0 % 2 = 0 →
        ∃ u, fetchParcel pc s = .ok (x.data.toNat / 2 ^ (8 * (here % 64)) % 2 ^ 16) u ∧ u.mem = s'.mem) ∧
    (∀ s1 s2 s3 s4, fetchParcel pc s = .ok p s1 → fetchParcel (pc + 2) s1 = .ok q s2 →
      fetchParcel (pc + 4) s2 = .ok r s3 → fetchParcel (pc + 6) s3 = .ok t s4 →
      (p / 2 ^ 13 % 8 = 7 → fetchInstr pc s = .ok (p, 0, 2) s1) ∧
      (p / 2 ^ 10 % 64 = 0x0C → fetchInstr pc s = .ok (p * 2 ^ 16 + q, BitVec.ofNat 32 (r * 2 ^ 16 + t), 8) s4) ∧
      (p / 2 ^ 13 % 8 ≠ 7 → p / 2 ^ 10 % 64 ≠ 0x0C → fetchInstr pc s = .ok (p * 2 ^ 16 + q, 0, 4) s2))

/-- R408, R407, R345, R372: what the machine holds at reset: every thread DORMANT, in KERNEL mode on the device-kernel and hub
cores and in USER mode elsewhere; every link in training (R388); the control registers that R408 lists at the values it gives; every frame FREE. Memory lists
nothing and is in canonical form.
Where it rests on the model's own choices: log entry 2. -/
def Obligations.ResetState : Prop :=
  let s := State.reset
  (∀ k, (s.thread k).st = .dormant ∧ (s.thread k).kern.kmode = (isHub (k / 8) || isDevKernel (k / 8)) ∧
    (s.thread k).kern.kstatus = 0 ∧ (s.thread k).kern.kvec = 0 ∧ (s.thread k).kern.kepc = 0 ∧ (s.thread k).kern.kirq = 0 ∧
    (s.thread k).kern.ctxid = 0 ∧ (s.thread k).kern.qstat = 0 ∧ (s.thread k).kern.ctxstat = 0) ∧
  (∀ w, (s.core w).regs.kptroot = 0 ∧ (s.core w).regs.ecaplim = 1024 ∧ (s.core w).regs.allocbase = 0 ∧
    (s.core w).regs.cspbase = 0 ∧ (s.core w).regs.cspsize = 0 ∧ (s.core w).regs.clsbase = 0 ∧ (s.core w).regs.clssize = 0 ∧
    ∀ i : Fin 16, (s.core w).regs.classes[i] = 0) ∧
  (∀ d, (s.die d).regs.ctxroot = 0 ∧ (s.die d).regs.l2mode = 0 ∧ (s.die d).regs.tracectl = 0 ∧ (s.die d).regs.swpool = 0 ∧
    (s.die d).regs.retbase = 0 ∧ (s.die d).regs.devtag = 0 ∧ (s.die d).regs.domtab = 0 ∧ (s.die d).regs.errce = 0 ∧
    (s.die d).regs.errue = 0 ∧ (s.die d).regs.errpipe = 0 ∧ (s.die d).regs.errkill = 0 ∧ (s.die d).regs.errstore = 0 ∧
    (s.die d).regs.errdbl = 0) ∧
  (∀ l, l < 36 → s.link l = .training) ∧ (∀ d, (s.die d).mig.st = .idle ∧ (s.die d).mig.stat = 0) ∧
  (∀ f, (s.custody f).st = .free) ∧ s.fcu.ringHost = 0 ∧ s.fcu.ringDevice = 0 ∧ s.fcu.overruns = 0 ∧ s.fcu.dropped = 0 ∧ s.mem = [] ∧ Memory.wf s.mem = true

/-- Whatever step the machine makes from a state whose memory is in canonical form, it is so afterwards: addresses rise
strictly and no entry holds what an unlisted address reads as.
Where it rests on the model's own choices: log entry 2. -/
def Obligations.StepKeepsMemoryCanonical : Prop :=
  ∀ s t : State, Memory.wf s.mem = true → step s = .next t → Memory.wf t.mem = true

/-- R47 to R66: every well-formed instruction that has an encoding decodes back from it, with every operand at every value;
and whatever decodes, decodes to a well-formed instruction whose encoding it begins with, so no two encodings give one
instruction and no bit of one is dropped.
Where it rests on the model's own choices: log entry 46. -/
def Obligations.EncodeDecode : Prop :=
  (∀ (i : Instr) (ps qs : List Nat), i.wf = true → encode i = some ps → decodeParcels (ps ++ qs) = some (.ok i)) ∧
  (∀ (i : Instr) (ps : List Nat), (∀ p ∈ ps, p < 2 ^ 16) → decodeParcels ps = some (.ok i) →
    i.wf = true ∧ ∃ own rest, encode i = some own ∧ ps = own ++ rest)

/-- Words that the spec's programs print, bit by bit, and the instructions their listings name; a literal word beside the
last (R48, R63, R64). -/
def Obligations.DecodeWords : Prop :=
  let reads := fun (w : Nat) (i : Instr) => decodeWord w 0 = .ok i
  reads 0b01100010011000011000110000000000 (.ld true 6 3 .self .u64 false 0) ∧
  reads 0b00001100111000000000000000000000 (.addi false 14 0 false 0) ∧
  reads 0b00010000110101101000000000000111 (.andi false 13 13 false 7) ∧
  reads 0b10011101101000000000000000000000 (.crr 13 0) ∧
  reads 0b00011100111101101000000000100100 (.slli false 15 13 false 36) ∧
  reads 0b10011001001001110111000000000100 (.bload 9 7 14) ∧
  reads 0b00101010000000000000000011110001 (.movi 16 0xF1) ∧
  reads 0b00000101000010000011000000000000 (.add false 16 16 12 false false) ∧
  reads 0b00000101000101010010110000000010 (.mul 17 10 11 false false) ∧
  reads 0b10010010000110011101100000000000 (.vld true 1 19 22 .self 0 false) ∧
  reads 0b10010010000110100101100000000100 (.vst true 1 20 22 .self 0 false) ∧
  reads 0b01001010110101010011111111111010 (.br 22 21 .ne 0x1FFA) ∧
  reads 0b01110001100001001101110000001000 (.waitc 24 9 23 false false) ∧
  reads 0b00000101110010000111010000011101 (.fatset false 28 16 29 false false) ∧
  reads 0b10011000000111001101000100000001 (.mweave 28 26 false true) ∧
  reads 0b10011000010110000000000100000011 (.mread 2 24 false .bf) ∧
  reads 0b10010100110001000000000000000000 (.vclaim 12 8 false) ∧
  reads 0b10001100001100010000000000001110 (.mset 1 17) ∧
  reads 0b10000100010000100000100100000010 (.vfmul 2 2 1 1) ∧
  reads 0b01000001010110010101000000000111 (.fmax 21 18 20 false false false) ∧
  reads 0b01000001100010011110010000000101 (.fma 24 19 25 false false false) ∧
  reads 0b10001111001001010000000000000001 (.vext 25 5 0) ∧
  reads 0b01010100000000000000000000000100 .endact ∧
  decodeWord 0b00110010111000000000000000000001 0b11111111100000000000000000000000 = .ok (.movlz 23 0xFF800000) ∧
  decodeParcels [0xE000 + 5 * 8] = some (.ok (.d16 5))

namespace Sys2Proof.Claims
open Sys2Proof.Machine

/-- The state in which a register whose result came from the other pipe has been looked at: the oracle's number is used, and the
register is no longer marked; `late` says that its result has not come, so that it is empty until a write-back (R78, R80). -/
def looked (s : State) (r : Reg) (late : Bool) : State :=
  let bit := (1 : BitVec 32) <<< r.toNat
  let s' := { s with run := { s.run with oracle := s.run.oracle.tail } }
  let t := { cur s with fromAccess := (cur s).fromAccess &&& ~~~bit, fromExecute := (cur s).fromExecute &&& ~~~bit }
  s'.setThread s.run.cur
    (if late then { t with empty := t.empty ||| bit, results := t.results ++ [(r.toNat, t.reg r)] } else t)

end Sys2Proof.Claims

/-- R57, R78, R79 and R80: an empty source register with empty-bit 0, or one that no empty-bit governs, parks its thread with
nothing else changed; with empty-bit 1 it raises EMPTY; an empty destination parks its thread; a source whose latest result is
one of the other pipe is read, or is empty still. Said of ADD, ADDI, BR and a load; g0 is never empty.
Where it rests on the model's own choices: log entries 4, 14 and 40. -/
def Obligations.EmptyRegisters : Prop :=
  ∀ (s : State) (d a b : Reg) (p e f : Bool) (c : Cond) (o : BitVec 13) (i : BitVec 14) (l : Policy) (w : LoadWidth)
    (off : BitVec 9), quiet s →
    let parks := fun (x : Instr) (r : Reason) => exec x s = .next (s.setThread s.run.cur { cur s with st := .parked r })
    full s 0 ∧
    (¬ free s a →
      parks (.add p d a b false f) (.empty a.toNat) ∧ raises s (.add p d a b true f) 0x03 0 0 ∧
      parks (.addi p d a false i) (.empty a.toNat) ∧ raises s (.addi p d a true i) 0x03 0 0 ∧
      parks (.ld p d a l w false off) (.empty a.toNat) ∧ raises s (.ld p d a l w true off) 0x03 0 0 ∧
      parks (.br a b c o) (.empty a.toNat)) ∧
    (ready p s a → ¬ free s b →
      parks (.add p d a b e false) (.empty b.toNat) ∧ raises s (.add p d a b e true) 0x03 0 0) ∧
    (full s a → ¬ free s b → parks (.br a b c o) (.empty b.toNat)) ∧
    (ready p s a → ready p s b → ¬ free s d →
      parks (.add p d a b e f) (.dest d.toNat) ∧ parks (.addi p d a e i) (.dest d.toNat) ∧
      parks (.ld p d a l w e off) (.dest d.toNat)) ∧
    (free s a → (cur s).crosses p a = true →
      (s.run.oracle.headD 0 % 2 = 0 → free s d → exec (.addi p d a e i) s =
        .next (wroteBy p (looked s a false) 4 d (BitVec.ofInt 64 ((g s a).toInt + i.toInt)))) ∧
      (s.run.oracle.headD 0 % 2 = 1 →
        let t := looked s a true
        exec (.addi p d a false i) s = .next (t.setThread s.run.cur { cur t with st := .parked (.empty a.toNat) }) ∧
        (s.allocating s.run.cur = false → localVector s.run.cur (cur s) = false →
          exec (.addi p d a true i) s = .next (trapped t 0x03 0 0))))

/-- What the integer instructions of majors 0x01 and 0x02 write. -/
def Obligations.IntegerResults : Prop :=
  Claims.IntegerResults ∧ Claims.WordResults ∧ Claims.DivisionResults

/-- An enabled floating-point exception is reported after its instruction. -/
def Obligations.FloatExceptions : Prop :=
  Claims.FloatExceptionParks ∧ Claims.FloatExceptionEntersVector

/-- Calls push the return stack; a full stack spills; a collecting call opens a list. -/
def Obligations.CallResults : Prop :=
  Claims.CallResults ∧ Claims.PushSpillsOldest ∧ Claims.CollectingCallResults

/-- Loads, stores and atomics of the local window, with their frames. -/
def Obligations.LocalAccesses : Prop :=
  Claims.LocalLoads ∧ Claims.LocalStores ∧ Claims.LocalAtomics

/-- Fences perform their release and acquire; an acquire drops SELF copies. -/
def Obligations.Fences : Prop :=
  Claims.FenceResults ∧ Claims.AcquireDropsSelfCopies

/-- SPMAP and SPUNMAP. -/
def Obligations.Mappings : Prop :=
  Claims.MapResults ∧ Claims.UnmapResults

/-- SEND, SENDR and TSEND: what is sent, and what each channel state answers. -/
def Obligations.Sends : Prop :=
  Claims.SendResults ∧ Claims.SendStatuses

/-- Engine completions perform their whole operation and then add. -/
def Obligations.EnginesComplete : Prop :=
  Claims.CopyEnginesComplete ∧ Claims.MulticastCompletes ∧ Claims.AllocatorServes ∧ Claims.ApplicationCompletes

/-- The moves of homes and L1s. -/
def Obligations.Coherence : Prop :=
  Claims.HomesServeRequests ∧ Claims.CoherenceMoves

/-- GINFO, GSET, GRED and a complete reduction. -/
def Obligations.Groups : Prop :=
  Claims.GroupResults ∧ Claims.ReductionPerformed

/-- Barrier instructions and phases. -/
def Obligations.Barriers : Prop :=
  Claims.BarrierResults ∧ Claims.BarrierPhases

/-- Vector floating point: results, flags, exceptions. -/
def Obligations.VectorFloat : Prop :=
  Claims.VectorFloatResults ∧ Claims.VectorFloatExceptionParks

/-- Data movement, reductions and masks. -/
def Obligations.VectorMoves : Prop :=
  Claims.VectorMoves ∧ Claims.VectorReductions

/-- Vector loads and stores of the local window and of the slices. -/
def Obligations.VectorMemory : Prop :=
  Claims.VectorMemoryResults ∧ Claims.SliceAccesses

/-- The wired barrier of a gang, and what waits for its queue. -/
def Obligations.Gangs : Prop :=
  Claims.TileWaits ∧ Claims.GangInstructions

/-- BLOAD forks and completes. -/
def Obligations.SlabLoads : Prop :=
  Claims.SlabLoadForks ∧ Claims.SlabLoadCompletes

/-- CRR and CRW on the control registers of the thread and its core, and on read-only and unassigned numbers. -/
def Obligations.ControlRegisters : Prop :=
  Claims.ControlRegisterReads ∧ Claims.ControlRegisterWrites

/-- TRAPI, ECALL and ERET: exception entry and return. -/
def Obligations.Traps : Prop :=
  Claims.TrapInstructions ∧ Claims.ExceptionReturn

/-- D16 performs its dictionary word; REP performs its follower. -/
def Obligations.DictionaryAndRepeat : Prop :=
  Claims.DictionaryResults ∧ Claims.RepeatResults

/-- Context commands, gang-stop and gang-resume. -/
def Obligations.Contexts : Prop :=
  Claims.ContextCommands ∧ Claims.StopAndResume

/-- Frame custody: transactions, answers, revocations. -/
def Obligations.Frames : Prop :=
  Claims.FrameTransactions ∧ Claims.FrameAnswers ∧ Claims.FrameRevocations

/-- Power states, package bring-up, and measurement answers. -/
def Obligations.PowerAndBringUp : Prop :=
  Claims.PowerResults ∧ Claims.BringUpResults ∧ Claims.MeasurementAnswers

/-- Ports, and requests between devices. -/
def Obligations.Links : Prop :=
  Claims.PortResults ∧ Claims.LinkRequestResults

/-- Command queues: their states and the work they hand out. -/
def Obligations.Queues : Prop :=
  Claims.QueueStates ∧ Claims.QueueWork
end

