-- ==== Sys2Proof/Laws/Monad.lean ====
section
/-! SUPPORT. How a meaning runs on a state: one equation for each way of putting meanings together, and one for each
operation that only reads or changes the state. -/

namespace Sys2Proof.Machine

theorem M.run_bind {α β : Type} (m : M α) (f : α → M β) (s : State) :
    (m >>= f) s = match m s with | .ok a s' => f a s' | .error e s' => .error e s' := by
  show EStateM.bind m f s = _
  unfold EStateM.bind
  cases m s <;> rfl

theorem M.run_bind_ok {α β : Type} {m : M α} {f : α → M β} {s s' : State} {a : α} (h : m s = .ok a s') :
    (m >>= f) s = f a s' := by rw [M.run_bind, h]

theorem M.run_bind_error {α β : Type} {m : M α} {f : α → M β} {s s' : State} {e : Stop} (h : m s = .error e s') :
    (m >>= f) s = .error e s' := by rw [M.run_bind, h]

/-- A sequence completes only where both parts do. -/
theorem M.bind_ok_iff {α β : Type} {m : M α} {f : α → M β} {s t : State} {b : β} :
    (m >>= f) s = .ok b t ↔ ∃ a s', m s = .ok a s' ∧ f a s' = .ok b t := by
  rw [M.run_bind]
  cases h : m s with
  | ok a s' => exact ⟨fun g => ⟨a, s', rfl, g⟩, fun ⟨_, _, h, g⟩ => by cases h; exact g⟩
  | error e s' => simp

@[simp] theorem M.run_pure {α : Type} (a : α) (s : State) : (pure a : M α) s = .ok a s := rfl
@[simp] theorem M.run_get (s : State) : (get : M State) s = .ok s s := rfl
@[simp] theorem M.run_set (t s : State) : (set t : M Unit) s = .ok () t := rfl
@[simp] theorem M.run_modify (f : State → State) (s : State) : (modify f : M Unit) s = .ok () (f s) := rfl
@[simp] theorem M.run_throw {α : Type} (e : Stop) (s : State) : (throw e : M α) s = .error e s := rfl
@[simp] theorem M.run_map {α β : Type} (f : α → β) (m : M α) (s : State) :
    (f <$> m) s = match m s with | .ok a s' => .ok (f a) s' | .error e s' => .error e s' := by
  show EStateM.map f m s = _
  unfold EStateM.map
  cases m s <;> rfl

@[simp] theorem me_run (s : State) : me s = .ok s.run.cur s := rfl
@[simp] theorem myWho_run (s : State) : myWho s = .ok (s.run.cur / 8) s := rfl
@[simp] theorem getThread_run (k : Nat) (s : State) : getThread k s = .ok (s.thread k) s := rfl
@[simp] theorem modThread_run (k : Nat) (f : Thread → Thread) (s : State) :
    modThread k f s = .ok () (s.setThread k (f (s.thread k))) := rfl
@[simp] theorem myThread_run (s : State) : myThread s = .ok (s.thread s.run.cur) s := rfl
@[simp] theorem modMe_run (f : Thread → Thread) (s : State) :
    modMe f s = .ok () (s.setThread s.run.cur (f (s.thread s.run.cur))) := rfl
@[simp] theorem getCore_run (w : Nat) (s : State) : getCore w s = .ok (s.core w) s := rfl
@[simp] theorem modCore_run (w : Nat) (f : Core → Core) (s : State) : modCore w f s = .ok () (s.setCore w (f (s.core w))) := rfl
@[simp] theorem getCluster_run (n : Nat) (s : State) : getCluster n s = .ok (s.cluster n) s := rfl
@[simp] theorem modCluster_run (n : Nat) (f : Cluster → Cluster) (s : State) :
    modCluster n f s = .ok () (s.setCluster n (f (s.cluster n))) := rfl
@[simp] theorem getDie_run (d : Nat) (s : State) : getDie d s = .ok (s.die d) s := rfl
@[simp] theorem modDie_run (d : Nat) (f : Die → Die) (s : State) : modDie d f s = .ok () (s.setDie d (f (s.die d))) := rfl
@[simp] theorem modDieRegs_run (d : Nat) (f : DieRegs → DieRegs) (s : State) :
    modDieRegs d f s = .ok () (s.setDie d { s.die d with regs := f (s.die d).regs }) := rfl
@[simp] theorem trap_run {α : Type} (c : Cause) (sub : Nat) (fa fi : Word) (s : State) :
    (trap c sub fa fi : M α) s = .error (.trap ⟨c, sub, fa, fi⟩) s := rfl
@[simp] theorem park_run {α : Type} (r : Reason) (s : State) : (park r : M α) s = .error (.park r) s := rfl
@[simp] theorem inKernel_run (s : State) : inKernel s = .ok (s.thread s.run.cur).kern.kmode s := rfl
@[simp] theorem collecting_run (s : State) : collecting s = .ok (!(s.thread s.run.cur).lists.isEmpty) s := rfl

theorem attempt_run {α : Type} (m : M α) (s : State) : attempt m s = match m s with
    | .ok a s' => .ok (.ok a) s' | .error (.trap t) s' => .ok (.error t) s' | .error e s' => .error e s' := rfl

end Sys2Proof.Machine
end

