-- ==== Sys2Proof/Laws/Store.lean ====
section
/-! SUPPORT. Laws of the sparse tables: a read after a write to the same key gives what was written, a write leaves every
other key alone, and a second write to a key replaces the first. They hold of every list of pairs. -/

namespace Sys2Proof.Machine

/-- What is written under a key is found under it. -/
theorem Store.find?_put_same {α : Type} (st : Store α) (k : Nat) (a : α) : (st.put k a).find? k = some a := by
  induction st with
  | nil => simp [Store.put, Store.find?]
  | cons h t ih =>
    simp only [Store.put]
    split
    · simp [Store.find?]
    · split
      · simp [Store.find?]
      · simp_all [Store.find?]

/-- A write leaves every other key alone. -/
theorem Store.find?_put_ne {α : Type} (st : Store α) {k j : Nat} (a : α) (h : j ≠ k) :
    (st.put k a).find? j = st.find? j := by
  induction st with
  | nil => simp [Store.put, Store.find?, h]
  | cons c t ih =>
    simp only [Store.put]
    split
    · simp [Store.find?, h]
    · split
      · rename_i h1 h2
        subst h2
        simp [Store.find?, h]
      · simp only [Store.find?, ih]

/-- Reading what a filter on keys keeps. -/
theorem Store.find?_filter {α : Type} (st : Store α) (p : Nat → Bool) (k : Nat) :
    Store.find? (st.filter fun x => p x.1) k = if p k then st.find? k else none := by
  induction st with
  | nil => simp [Store.find?]
  | cons c t ih =>
    by_cases hc : p c.1 = true
    · rw [List.filter_cons_of_pos (by simpa using hc)]
      simp only [Store.find?, ih]
      split
      · rename_i h; subst h; simp [hc]
      · rfl
    · rw [List.filter_cons_of_neg (by simpa using hc), ih]
      simp only [Store.find?]
      split
      · split
        · rename_i h; subst h; contradiction
        · rfl
      · rfl

/-- A removed key is gone. -/
theorem Store.find?_del_same {α : Type} (st : Store α) (k : Nat) : (st.del k).find? k = none := by
  simp [Store.del, Store.find?_filter st (fun j => j != k)]

/-- Removing a key leaves every other key alone. -/
theorem Store.find?_del_ne {α : Type} (st : Store α) {k j : Nat} (h : j ≠ k) : (st.del k).find? j = st.find? j := by
  simp [Store.del, Store.find?_filter st (fun i => i != k), h]

/-- A second write to a key replaces the first. -/
theorem Store.put_put {α : Type} (st : Store α) (k : Nat) (a b : α) : (st.put k a).put k b = st.put k b := by
  induction st with
  | nil => simp [Store.put]
  | cons c t ih =>
    simp only [Store.put]
    split
    · simp [Store.put]
    · split
      · simp [Store.put]
      · simp_all [Store.put]

@[simp] theorem Store.get_put_same {α : Type} (st : Store α) (k : Nat) (a d : α) : (st.put k a).get k d = a := by
  simp [Store.get, Store.find?_put_same]

theorem Store.get_put_ne {α : Type} (st : Store α) {k j : Nat} (a d : α) (h : j ≠ k) :
    (st.put k a).get j d = st.get j d := by
  simp [Store.get, Store.find?_put_ne st a h]

end Sys2Proof.Machine
end

