-- ==== Sys2Proof/Laws/State.lean ====
section
/-! SUPPORT. One lemma per field of the state and per update: what the update leaves and what it writes; and the laws of the
records of threads, cores, clusters and dies. -/

set_option Elab.async false

namespace Sys2Proof.Machine

@[simp] theorem State.setThread_time (s : State) (k : Nat) (t : Thread) : (s.setThread k t).time = s.time := rfl
@[simp] theorem State.setThread_mem (s : State) (k : Nat) (t : Thread) : (s.setThread k t).mem = s.mem := rfl
@[simp] theorem State.setThread_cores (s : State) (k : Nat) (t : Thread) : (s.setThread k t).cores = s.cores := rfl
@[simp] theorem State.setThread_clusters (s : State) (k : Nat) (t : Thread) : (s.setThread k t).clusters = s.clusters := rfl
@[simp] theorem State.setThread_dies (s : State) (k : Nat) (t : Thread) : (s.setThread k t).dies = s.dies := rfl
@[simp] theorem State.setThread_homes (s : State) (k : Nat) (t : Thread) : (s.setThread k t).homes = s.homes := rfl
@[simp] theorem State.setThread_fcu (s : State) (k : Nat) (t : Thread) : (s.setThread k t).fcu = s.fcu := rfl
@[simp] theorem State.setThread_bad (s : State) (k : Nat) (t : Thread) : (s.setThread k t).bad = s.bad := rfl
@[simp] theorem State.setThread_latent (s : State) (k : Nat) (t : Thread) : (s.setThread k t).latent = s.latent := rfl
@[simp] theorem State.setThread_badLocal (s : State) (k : Nat) (t : Thread) : (s.setThread k t).badLocal = s.badLocal := rfl
@[simp] theorem State.setThread_latentLocal (s : State) (k : Nat) (t : Thread) : (s.setThread k t).latentLocal = s.latentLocal := rfl
@[simp] theorem State.setThread_notified (s : State) (k : Nat) (t : Thread) : (s.setThread k t).notified = s.notified := rfl
@[simp] theorem State.setThread_notifyAt (s : State) (k : Nat) (t : Thread) : (s.setThread k t).notifyAt = s.notifyAt := rfl
@[simp] theorem State.setThread_engines (s : State) (k : Nat) (t : Thread) : (s.setThread k t).engines = s.engines := rfl
@[simp] theorem State.setThread_engineSeq (s : State) (k : Nat) (t : Thread) : (s.setThread k t).engineSeq = s.engineSeq := rfl
@[simp] theorem State.setThread_flights (s : State) (k : Nat) (t : Thread) : (s.setThread k t).flights = s.flights := rfl
@[simp] theorem State.setThread_sysmsgs (s : State) (k : Nat) (t : Thread) : (s.setThread k t).sysmsgs = s.sysmsgs := rfl
@[simp] theorem State.setThread_errmsgs (s : State) (k : Nat) (t : Thread) : (s.setThread k t).errmsgs = s.errmsgs := rfl
@[simp] theorem State.setThread_launches (s : State) (k : Nat) (t : Thread) : (s.setThread k t).launches = s.launches := rfl
@[simp] theorem State.setThread_walks (s : State) (k : Nat) (t : Thread) : (s.setThread k t).walks = s.walks := rfl
@[simp] theorem State.setThread_saved (s : State) (k : Nat) (t : Thread) : (s.setThread k t).saved = s.saved := rfl
@[simp] theorem State.setThread_stopping (s : State) (k : Nat) (t : Thread) : (s.setThread k t).stopping = s.stopping := rfl
@[simp] theorem State.setThread_links (s : State) (k : Nat) (t : Thread) : (s.setThread k t).links = s.links := rfl
@[simp] theorem State.setThread_boot (s : State) (k : Nat) (t : Thread) : (s.setThread k t).boot = s.boot := rfl
@[simp] theorem State.setThread_run (s : State) (k : Nat) (t : Thread) : (s.setThread k t).run = s.run := rfl

@[simp] theorem State.setCore_time (s : State) (w : Nat) (c : Core) : (s.setCore w c).time = s.time := rfl
@[simp] theorem State.setCore_mem (s : State) (w : Nat) (c : Core) : (s.setCore w c).mem = s.mem := rfl
@[simp] theorem State.setCore_threads (s : State) (w : Nat) (c : Core) : (s.setCore w c).threads = s.threads := rfl
@[simp] theorem State.setCore_clusters (s : State) (w : Nat) (c : Core) : (s.setCore w c).clusters = s.clusters := rfl
@[simp] theorem State.setCore_dies (s : State) (w : Nat) (c : Core) : (s.setCore w c).dies = s.dies := rfl
@[simp] theorem State.setCore_homes (s : State) (w : Nat) (c : Core) : (s.setCore w c).homes = s.homes := rfl
@[simp] theorem State.setCore_fcu (s : State) (w : Nat) (c : Core) : (s.setCore w c).fcu = s.fcu := rfl
@[simp] theorem State.setCore_bad (s : State) (w : Nat) (c : Core) : (s.setCore w c).bad = s.bad := rfl
@[simp] theorem State.setCore_latent (s : State) (w : Nat) (c : Core) : (s.setCore w c).latent = s.latent := rfl
@[simp] theorem State.setCore_badLocal (s : State) (w : Nat) (c : Core) : (s.setCore w c).badLocal = s.badLocal := rfl
@[simp] theorem State.setCore_latentLocal (s : State) (w : Nat) (c : Core) : (s.setCore w c).latentLocal = s.latentLocal := rfl
@[simp] theorem State.setCore_notified (s : State) (w : Nat) (c : Core) : (s.setCore w c).notified = s.notified := rfl
@[simp] theorem State.setCore_notifyAt (s : State) (w : Nat) (c : Core) : (s.setCore w c).notifyAt = s.notifyAt := rfl
@[simp] theorem State.setCore_engines (s : State) (w : Nat) (c : Core) : (s.setCore w c).engines = s.engines := rfl
@[simp] theorem State.setCore_engineSeq (s : State) (w : Nat) (c : Core) : (s.setCore w c).engineSeq = s.engineSeq := rfl
@[simp] theorem State.setCore_flights (s : State) (w : Nat) (c : Core) : (s.setCore w c).flights = s.flights := rfl
@[simp] theorem State.setCore_sysmsgs (s : State) (w : Nat) (c : Core) : (s.setCore w c).sysmsgs = s.sysmsgs := rfl
@[simp] theorem State.setCore_errmsgs (s : State) (w : Nat) (c : Core) : (s.setCore w c).errmsgs = s.errmsgs := rfl
@[simp] theorem State.setCore_launches (s : State) (w : Nat) (c : Core) : (s.setCore w c).launches = s.launches := rfl
@[simp] theorem State.setCore_walks (s : State) (w : Nat) (c : Core) : (s.setCore w c).walks = s.walks := rfl
@[simp] theorem State.setCore_saved (s : State) (w : Nat) (c : Core) : (s.setCore w c).saved = s.saved := rfl
@[simp] theorem State.setCore_stopping (s : State) (w : Nat) (c : Core) : (s.setCore w c).stopping = s.stopping := rfl
@[simp] theorem State.setCore_links (s : State) (w : Nat) (c : Core) : (s.setCore w c).links = s.links := rfl
@[simp] theorem State.setCore_boot (s : State) (w : Nat) (c : Core) : (s.setCore w c).boot = s.boot := rfl
@[simp] theorem State.setCore_run (s : State) (w : Nat) (c : Core) : (s.setCore w c).run = s.run := rfl

@[simp] theorem State.setCluster_time (s : State) (n : Nat) (c : Cluster) : (s.setCluster n c).time = s.time := rfl
@[simp] theorem State.setCluster_mem (s : State) (n : Nat) (c : Cluster) : (s.setCluster n c).mem = s.mem := rfl
@[simp] theorem State.setCluster_threads (s : State) (n : Nat) (c : Cluster) : (s.setCluster n c).threads = s.threads := rfl
@[simp] theorem State.setCluster_cores (s : State) (n : Nat) (c : Cluster) : (s.setCluster n c).cores = s.cores := rfl
@[simp] theorem State.setCluster_dies (s : State) (n : Nat) (c : Cluster) : (s.setCluster n c).dies = s.dies := rfl
@[simp] theorem State.setCluster_homes (s : State) (n : Nat) (c : Cluster) : (s.setCluster n c).homes = s.homes := rfl
@[simp] theorem State.setCluster_fcu (s : State) (n : Nat) (c : Cluster) : (s.setCluster n c).fcu = s.fcu := rfl
@[simp] theorem State.setCluster_bad (s : State) (n : Nat) (c : Cluster) : (s.setCluster n c).bad = s.bad := rfl
@[simp] theorem State.setCluster_latent (s : State) (n : Nat) (c : Cluster) : (s.setCluster n c).latent = s.latent := rfl
@[simp] theorem State.setCluster_badLocal (s : State) (n : Nat) (c : Cluster) : (s.setCluster n c).badLocal = s.badLocal := rfl
@[simp] theorem State.setCluster_latentLocal (s : State) (n : Nat) (c : Cluster) : (s.setCluster n c).latentLocal = s.latentLocal := rfl
@[simp] theorem State.setCluster_notified (s : State) (n : Nat) (c : Cluster) : (s.setCluster n c).notified = s.notified := rfl
@[simp] theorem State.setCluster_notifyAt (s : State) (n : Nat) (c : Cluster) : (s.setCluster n c).notifyAt = s.notifyAt := rfl
@[simp] theorem State.setCluster_engines (s : State) (n : Nat) (c : Cluster) : (s.setCluster n c).engines = s.engines := rfl
@[simp] theorem State.setCluster_engineSeq (s : State) (n : Nat) (c : Cluster) : (s.setCluster n c).engineSeq = s.engineSeq := rfl
@[simp] theorem State.setCluster_flights (s : State) (n : Nat) (c : Cluster) : (s.setCluster n c).flights = s.flights := rfl
@[simp] theorem State.setCluster_sysmsgs (s : State) (n : Nat) (c : Cluster) : (s.setCluster n c).sysmsgs = s.sysmsgs := rfl
@[simp] theorem State.setCluster_errmsgs (s : State) (n : Nat) (c : Cluster) : (s.setCluster n c).errmsgs = s.errmsgs := rfl
@[simp] theorem State.setCluster_launches (s : State) (n : Nat) (c : Cluster) : (s.setCluster n c).launches = s.launches := rfl
@[simp] theorem State.setCluster_walks (s : State) (n : Nat) (c : Cluster) : (s.setCluster n c).walks = s.walks := rfl
@[simp] theorem State.setCluster_saved (s : State) (n : Nat) (c : Cluster) : (s.setCluster n c).saved = s.saved := rfl
@[simp] theorem State.setCluster_stopping (s : State) (n : Nat) (c : Cluster) : (s.setCluster n c).stopping = s.stopping := rfl
@[simp] theorem State.setCluster_links (s : State) (n : Nat) (c : Cluster) : (s.setCluster n c).links = s.links := rfl
@[simp] theorem State.setCluster_boot (s : State) (n : Nat) (c : Cluster) : (s.setCluster n c).boot = s.boot := rfl
@[simp] theorem State.setCluster_run (s : State) (n : Nat) (c : Cluster) : (s.setCluster n c).run = s.run := rfl

@[simp] theorem State.setDie_time (s : State) (d : Nat) (x : Die) : (s.setDie d x).time = s.time := rfl
@[simp] theorem State.setDie_mem (s : State) (d : Nat) (x : Die) : (s.setDie d x).mem = s.mem := rfl
@[simp] theorem State.setDie_threads (s : State) (d : Nat) (x : Die) : (s.setDie d x).threads = s.threads := rfl
@[simp] theorem State.setDie_cores (s : State) (d : Nat) (x : Die) : (s.setDie d x).cores = s.cores := rfl
@[simp] theorem State.setDie_clusters (s : State) (d : Nat) (x : Die) : (s.setDie d x).clusters = s.clusters := rfl
@[simp] theorem State.setDie_homes (s : State) (d : Nat) (x : Die) : (s.setDie d x).homes = s.homes := rfl
@[simp] theorem State.setDie_fcu (s : State) (d : Nat) (x : Die) : (s.setDie d x).fcu = s.fcu := rfl
@[simp] theorem State.setDie_bad (s : State) (d : Nat) (x : Die) : (s.setDie d x).bad = s.bad := rfl
@[simp] theorem State.setDie_latent (s : State) (d : Nat) (x : Die) : (s.setDie d x).latent = s.latent := rfl
@[simp] theorem State.setDie_badLocal (s : State) (d : Nat) (x : Die) : (s.setDie d x).badLocal = s.badLocal := rfl
@[simp] theorem State.setDie_latentLocal (s : State) (d : Nat) (x : Die) : (s.setDie d x).latentLocal = s.latentLocal := rfl
@[simp] theorem State.setDie_notified (s : State) (d : Nat) (x : Die) : (s.setDie d x).notified = s.notified := rfl
@[simp] theorem State.setDie_notifyAt (s : State) (d : Nat) (x : Die) : (s.setDie d x).notifyAt = s.notifyAt := rfl
@[simp] theorem State.setDie_engines (s : State) (d : Nat) (x : Die) : (s.setDie d x).engines = s.engines := rfl
@[simp] theorem State.setDie_engineSeq (s : State) (d : Nat) (x : Die) : (s.setDie d x).engineSeq = s.engineSeq := rfl
@[simp] theorem State.setDie_flights (s : State) (d : Nat) (x : Die) : (s.setDie d x).flights = s.flights := rfl
@[simp] theorem State.setDie_sysmsgs (s : State) (d : Nat) (x : Die) : (s.setDie d x).sysmsgs = s.sysmsgs := rfl
@[simp] theorem State.setDie_errmsgs (s : State) (d : Nat) (x : Die) : (s.setDie d x).errmsgs = s.errmsgs := rfl
@[simp] theorem State.setDie_launches (s : State) (d : Nat) (x : Die) : (s.setDie d x).launches = s.launches := rfl
@[simp] theorem State.setDie_walks (s : State) (d : Nat) (x : Die) : (s.setDie d x).walks = s.walks := rfl
@[simp] theorem State.setDie_saved (s : State) (d : Nat) (x : Die) : (s.setDie d x).saved = s.saved := rfl
@[simp] theorem State.setDie_stopping (s : State) (d : Nat) (x : Die) : (s.setDie d x).stopping = s.stopping := rfl
@[simp] theorem State.setDie_links (s : State) (d : Nat) (x : Die) : (s.setDie d x).links = s.links := rfl
@[simp] theorem State.setDie_boot (s : State) (d : Nat) (x : Die) : (s.setDie d x).boot = s.boot := rfl
@[simp] theorem State.setDie_run (s : State) (d : Nat) (x : Die) : (s.setDie d x).run = s.run := rfl

@[simp] theorem State.focus_time (s : State) (k : Nat) : (s.focus k).time = s.time := rfl
@[simp] theorem State.focus_mem (s : State) (k : Nat) : (s.focus k).mem = s.mem := rfl
@[simp] theorem State.focus_threads (s : State) (k : Nat) : (s.focus k).threads = s.threads := rfl
@[simp] theorem State.focus_cores (s : State) (k : Nat) : (s.focus k).cores = s.cores := rfl
@[simp] theorem State.focus_clusters (s : State) (k : Nat) : (s.focus k).clusters = s.clusters := rfl
@[simp] theorem State.focus_dies (s : State) (k : Nat) : (s.focus k).dies = s.dies := rfl
@[simp] theorem State.focus_homes (s : State) (k : Nat) : (s.focus k).homes = s.homes := rfl
@[simp] theorem State.focus_fcu (s : State) (k : Nat) : (s.focus k).fcu = s.fcu := rfl
@[simp] theorem State.focus_bad (s : State) (k : Nat) : (s.focus k).bad = s.bad := rfl
@[simp] theorem State.focus_latent (s : State) (k : Nat) : (s.focus k).latent = s.latent := rfl
@[simp] theorem State.focus_badLocal (s : State) (k : Nat) : (s.focus k).badLocal = s.badLocal := rfl
@[simp] theorem State.focus_latentLocal (s : State) (k : Nat) : (s.focus k).latentLocal = s.latentLocal := rfl
@[simp] theorem State.focus_notified (s : State) (k : Nat) : (s.focus k).notified = s.notified := rfl
@[simp] theorem State.focus_notifyAt (s : State) (k : Nat) : (s.focus k).notifyAt = s.notifyAt := rfl
@[simp] theorem State.focus_engines (s : State) (k : Nat) : (s.focus k).engines = s.engines := rfl
@[simp] theorem State.focus_engineSeq (s : State) (k : Nat) : (s.focus k).engineSeq = s.engineSeq := rfl
@[simp] theorem State.focus_flights (s : State) (k : Nat) : (s.focus k).flights = s.flights := rfl
@[simp] theorem State.focus_sysmsgs (s : State) (k : Nat) : (s.focus k).sysmsgs = s.sysmsgs := rfl
@[simp] theorem State.focus_errmsgs (s : State) (k : Nat) : (s.focus k).errmsgs = s.errmsgs := rfl
@[simp] theorem State.focus_launches (s : State) (k : Nat) : (s.focus k).launches = s.launches := rfl
@[simp] theorem State.focus_walks (s : State) (k : Nat) : (s.focus k).walks = s.walks := rfl
@[simp] theorem State.focus_saved (s : State) (k : Nat) : (s.focus k).saved = s.saved := rfl
@[simp] theorem State.focus_stopping (s : State) (k : Nat) : (s.focus k).stopping = s.stopping := rfl
@[simp] theorem State.focus_links (s : State) (k : Nat) : (s.focus k).links = s.links := rfl
@[simp] theorem State.focus_boot (s : State) (k : Nat) : (s.focus k).boot = s.boot := rfl

@[simp] theorem State.withAgenda_time (s : State) (l : List Act) : (s.withAgenda l).time = s.time := rfl
@[simp] theorem State.withAgenda_mem (s : State) (l : List Act) : (s.withAgenda l).mem = s.mem := rfl
@[simp] theorem State.withAgenda_threads (s : State) (l : List Act) : (s.withAgenda l).threads = s.threads := rfl
@[simp] theorem State.withAgenda_cores (s : State) (l : List Act) : (s.withAgenda l).cores = s.cores := rfl
@[simp] theorem State.withAgenda_clusters (s : State) (l : List Act) : (s.withAgenda l).clusters = s.clusters := rfl
@[simp] theorem State.withAgenda_dies (s : State) (l : List Act) : (s.withAgenda l).dies = s.dies := rfl
@[simp] theorem State.withAgenda_homes (s : State) (l : List Act) : (s.withAgenda l).homes = s.homes := rfl
@[simp] theorem State.withAgenda_fcu (s : State) (l : List Act) : (s.withAgenda l).fcu = s.fcu := rfl
@[simp] theorem State.withAgenda_bad (s : State) (l : List Act) : (s.withAgenda l).bad = s.bad := rfl
@[simp] theorem State.withAgenda_latent (s : State) (l : List Act) : (s.withAgenda l).latent = s.latent := rfl
@[simp] theorem State.withAgenda_badLocal (s : State) (l : List Act) : (s.withAgenda l).badLocal = s.badLocal := rfl
@[simp] theorem State.withAgenda_latentLocal (s : State) (l : List Act) : (s.withAgenda l).latentLocal = s.latentLocal := rfl
@[simp] theorem State.withAgenda_notified (s : State) (l : List Act) : (s.withAgenda l).notified = s.notified := rfl
@[simp] theorem State.withAgenda_notifyAt (s : State) (l : List Act) : (s.withAgenda l).notifyAt = s.notifyAt := rfl
@[simp] theorem State.withAgenda_engines (s : State) (l : List Act) : (s.withAgenda l).engines = s.engines := rfl
@[simp] theorem State.withAgenda_engineSeq (s : State) (l : List Act) : (s.withAgenda l).engineSeq = s.engineSeq := rfl
@[simp] theorem State.withAgenda_flights (s : State) (l : List Act) : (s.withAgenda l).flights = s.flights := rfl
@[simp] theorem State.withAgenda_sysmsgs (s : State) (l : List Act) : (s.withAgenda l).sysmsgs = s.sysmsgs := rfl
@[simp] theorem State.withAgenda_errmsgs (s : State) (l : List Act) : (s.withAgenda l).errmsgs = s.errmsgs := rfl
@[simp] theorem State.withAgenda_launches (s : State) (l : List Act) : (s.withAgenda l).launches = s.launches := rfl
@[simp] theorem State.withAgenda_walks (s : State) (l : List Act) : (s.withAgenda l).walks = s.walks := rfl
@[simp] theorem State.withAgenda_saved (s : State) (l : List Act) : (s.withAgenda l).saved = s.saved := rfl
@[simp] theorem State.withAgenda_stopping (s : State) (l : List Act) : (s.withAgenda l).stopping = s.stopping := rfl
@[simp] theorem State.withAgenda_links (s : State) (l : List Act) : (s.withAgenda l).links = s.links := rfl
@[simp] theorem State.withAgenda_boot (s : State) (l : List Act) : (s.withAgenda l).boot = s.boot := rfl

@[simp] theorem State.setThread_thread_same (s : State) (k : Nat) (t : Thread) : (s.setThread k t).thread k = t := Store.get_put_same _ _ _ _
theorem State.setThread_thread_ne (s : State) (k : Nat) (t : Thread) {j : Nat} (h : j ≠ k) : (s.setThread k t).thread j = s.thread j :=
  Store.get_put_ne _ _ _ h
@[simp] theorem State.setThread_setThread (s : State) (k : Nat) (t : Thread) (t' : Thread) : (s.setThread k t).setThread k t' = s.setThread k t' := by
  simp [State.setThread, Store.put_put]
@[simp] theorem State.setThread_core (s : State) (k : Nat) (t : Thread) (j : Nat) : (s.setThread k t).core j = s.core j := rfl
@[simp] theorem State.setThread_cluster (s : State) (k : Nat) (t : Thread) (j : Nat) : (s.setThread k t).cluster j = s.cluster j := rfl
@[simp] theorem State.setThread_die (s : State) (k : Nat) (t : Thread) (j : Nat) : (s.setThread k t).die j = s.die j := rfl
@[simp] theorem State.focus_thread (s : State) (k : Nat) (j : Nat) : (s.focus k).thread j = s.thread j := rfl
@[simp] theorem State.withAgenda_thread (s : State) (l : List Act) (j : Nat) : (s.withAgenda l).thread j = s.thread j := rfl

@[simp] theorem State.setCore_core_same (s : State) (w : Nat) (c : Core) : (s.setCore w c).core w = c := Store.get_put_same _ _ _ _
theorem State.setCore_core_ne (s : State) (w : Nat) (c : Core) {j : Nat} (h : j ≠ w) : (s.setCore w c).core j = s.core j :=
  Store.get_put_ne _ _ _ h
@[simp] theorem State.setCore_setCore (s : State) (w : Nat) (c : Core) (c' : Core) : (s.setCore w c).setCore w c' = s.setCore w c' := by
  simp [State.setCore, Store.put_put]
@[simp] theorem State.setCore_thread (s : State) (w : Nat) (c : Core) (j : Nat) : (s.setCore w c).thread j = s.thread j := rfl
@[simp] theorem State.setCore_cluster (s : State) (w : Nat) (c : Core) (j : Nat) : (s.setCore w c).cluster j = s.cluster j := rfl
@[simp] theorem State.setCore_die (s : State) (w : Nat) (c : Core) (j : Nat) : (s.setCore w c).die j = s.die j := rfl
@[simp] theorem State.focus_core (s : State) (k : Nat) (j : Nat) : (s.focus k).core j = s.core j := rfl
@[simp] theorem State.withAgenda_core (s : State) (l : List Act) (j : Nat) : (s.withAgenda l).core j = s.core j := rfl

@[simp] theorem State.setCluster_cluster_same (s : State) (n : Nat) (c : Cluster) : (s.setCluster n c).cluster n = c := Store.get_put_same _ _ _ _
theorem State.setCluster_cluster_ne (s : State) (n : Nat) (c : Cluster) {j : Nat} (h : j ≠ n) : (s.setCluster n c).cluster j = s.cluster j :=
  Store.get_put_ne _ _ _ h
@[simp] theorem State.setCluster_setCluster (s : State) (n : Nat) (c : Cluster) (c' : Cluster) : (s.setCluster n c).setCluster n c' = s.setCluster n c' := by
  simp [State.setCluster, Store.put_put]
@[simp] theorem State.setCluster_thread (s : State) (n : Nat) (c : Cluster) (j : Nat) : (s.setCluster n c).thread j = s.thread j := rfl
@[simp] theorem State.setCluster_core (s : State) (n : Nat) (c : Cluster) (j : Nat) : (s.setCluster n c).core j = s.core j := rfl
@[simp] theorem State.setCluster_die (s : State) (n : Nat) (c : Cluster) (j : Nat) : (s.setCluster n c).die j = s.die j := rfl
@[simp] theorem State.focus_cluster (s : State) (k : Nat) (j : Nat) : (s.focus k).cluster j = s.cluster j := rfl
@[simp] theorem State.withAgenda_cluster (s : State) (l : List Act) (j : Nat) : (s.withAgenda l).cluster j = s.cluster j := rfl

@[simp] theorem State.setDie_die_same (s : State) (d : Nat) (x : Die) : (s.setDie d x).die d = x := Store.get_put_same _ _ _ _
theorem State.setDie_die_ne (s : State) (d : Nat) (x : Die) {j : Nat} (h : j ≠ d) : (s.setDie d x).die j = s.die j :=
  Store.get_put_ne _ _ _ h
@[simp] theorem State.setDie_setDie (s : State) (d : Nat) (x : Die) (x' : Die) : (s.setDie d x).setDie d x' = s.setDie d x' := by
  simp [State.setDie, Store.put_put]
@[simp] theorem State.setDie_thread (s : State) (d : Nat) (x : Die) (j : Nat) : (s.setDie d x).thread j = s.thread j := rfl
@[simp] theorem State.setDie_core (s : State) (d : Nat) (x : Die) (j : Nat) : (s.setDie d x).core j = s.core j := rfl
@[simp] theorem State.setDie_cluster (s : State) (d : Nat) (x : Die) (j : Nat) : (s.setDie d x).cluster j = s.cluster j := rfl
@[simp] theorem State.focus_die (s : State) (k : Nat) (j : Nat) : (s.focus k).die j = s.die j := rfl
@[simp] theorem State.withAgenda_die (s : State) (l : List Act) (j : Nat) : (s.withAgenda l).die j = s.die j := rfl

@[simp] theorem State.focus_cur (s : State) (k : Nat) : (s.focus k).run.cur = k := rfl
@[simp] theorem State.withAgenda_agenda (s : State) (l : List Act) : (s.withAgenda l).run.agenda = l := rfl
@[simp] theorem State.withAgenda_cur (s : State) (l : List Act) : (s.withAgenda l).run.cur = s.run.cur := rfl
@[simp] theorem State.withAgenda_oracle (s : State) (l : List Act) : (s.withAgenda l).run.oracle = s.run.oracle := rfl

end Sys2Proof.Machine
end

