-- ==== Sys2Proof/Laws/Ops.lean ====
section
/-! SUPPORT. What each shared operation over registers does: reading a source, checking and writing a destination, the
operand forms, and how a meaning ends. -/

set_option Elab.async false

namespace Sys2Proof.Machine

/-! ## Threads -/

@[simp] theorem Thread.reg_zero (t : Thread) : t.reg 0 = 0 := rfl
@[simp] theorem Thread.setReg_zero (t : Thread) (v : Word) : t.setReg 0 v = t := rfl

theorem Thread.setReg_of_ne {t : Thread} {r : Reg} {v : Word} (h : r ≠ 0) :
    t.setReg r v = { t with g := t.g.set r.toNat v, empty := t.empty &&& ~~~regBit r,
                            fromAccess := t.fromAccess &&& ~~~regBit r, fromExecute := t.fromExecute &&& ~~~regBit r } := by
  exact if_neg h

/-- A register that was written reads as what was written (g0 reads as zero). -/
theorem Thread.reg_setReg_same {t : Thread} {r : Reg} {v : Word} (h : r ≠ 0) : (t.setReg r v).reg r = v := by
  rw [Thread.setReg_of_ne h, Thread.reg, if_neg h]
  simp

/-- A write leaves every other register alone. -/
theorem Thread.reg_setReg_ne {t : Thread} {r q : Reg} {v : Word} (h : q ≠ r) : (t.setReg r v).reg q = t.reg q := by
  unfold Thread.setReg Thread.reg
  split
  · rfl
  · split
    · rfl
    · have : r.toNat ≠ q.toNat := fun e => h (BitVec.eq_of_toNat_eq e.symm)
      simp [this]

@[simp] theorem Thread.setReg_fpx (t : Thread) (r : Reg) (v : Word) : (t.setReg r v).fpx = t.fpx := by
  unfold Thread.setReg; split <;> rfl
@[simp] theorem Thread.setReg_pc (t : Thread) (r : Reg) (v : Word) : (t.setReg r v).pc = t.pc := by
  unfold Thread.setReg; split <;> rfl
@[simp] theorem Thread.setReg_ctl (t : Thread) (r : Reg) (v : Word) : (t.setReg r v).ctl = t.ctl := by
  unfold Thread.setReg; split <;> rfl
@[simp] theorem Thread.setReg_kern (t : Thread) (r : Reg) (v : Word) : (t.setReg r v).kern = t.kern := by
  unfold Thread.setReg; split <;> rfl
@[simp] theorem Thread.setReg_vec (t : Thread) (r : Reg) (v : Word) : (t.setReg r v).vec = t.vec := by
  unfold Thread.setReg; split <;> rfl
@[simp] theorem Thread.setReg_st (t : Thread) (r : Reg) (v : Word) : (t.setReg r v).st = t.st := by
  unfold Thread.setReg; split <;> rfl
@[simp] theorem Thread.setReg_lists (t : Thread) (r : Reg) (v : Word) : (t.setReg r v).lists = t.lists := by
  unfold Thread.setReg; split <;> rfl
@[simp] theorem Thread.setReg_rstack (t : Thread) (r : Reg) (v : Word) : (t.setReg r v).rstack = t.rstack := by
  unfold Thread.setReg; split <;> rfl
@[simp] theorem Thread.setReg_act (t : Thread) (r : Reg) (v : Word) : (t.setReg r v).act = t.act := by
  unfold Thread.setReg; split <;> rfl
@[simp] theorem Thread.madeBy_fpx (t : Thread) (p : Bool) (r : Reg) : (t.madeBy p r).fpx = t.fpx := by
  unfold Thread.madeBy; repeat' split <;> try rfl
@[simp] theorem Thread.madeBy_pc (t : Thread) (p : Bool) (r : Reg) : (t.madeBy p r).pc = t.pc := by
  unfold Thread.madeBy; repeat' split <;> try rfl
@[simp] theorem Thread.madeBy_reg (t : Thread) (p : Bool) (r q : Reg) : (t.madeBy p r).reg q = t.reg q := by
  unfold Thread.madeBy; repeat' split <;> try rfl
@[simp] theorem Thread.setReg_waiting (t : Thread) (r : Reg) (v : Word) : (t.setReg r v).waiting = t.waiting := by
  unfold Thread.setReg; split <;> rfl

/-! ## Reading and writing registers -/

/-- A full source of the same pipe reads as its value. -/
theorem readIn_full {s : State} {p e : Bool} {r : Reg} (h : (s.thread s.run.cur).isEmpty r = false)
    (c : (s.thread s.run.cur).crosses p r = false) : readIn p r e s = .ok ((s.thread s.run.cur).reg r) s := by
  simp [readIn, M.run_bind, h, c]

/-- An empty source traps EMPTY with empty-bit 1 and parks with 0 (R57). -/
theorem readIn_empty {s : State} {p e : Bool} {r : Reg} (h : (s.thread s.run.cur).isEmpty r = true) :
    readIn p r e s = .error (if e then .trap ⟨.empty, 0, 0, 0⟩ else .park (.empty r.toNat)) s := by
  cases e <;> simp [readIn, M.run_bind, h]

/-- A result of the other pipe that has come is read (R78, R80). -/
theorem readIn_came {s : State} {p e : Bool} {r : Reg} (h : (s.thread s.run.cur).isEmpty r = false)
    (c : (s.thread s.run.cur).crosses p r = true) (o : s.run.oracle = []) :
    readIn p r e s = .ok ((s.thread s.run.cur).reg r) (s.setThread s.run.cur ((s.thread s.run.cur).crossed r)) := by
  simp [readIn, M.run_bind, h, c, choose, o]

theorem readG_full {s : State} {r : Reg} {e : Bool} (h : (s.thread s.run.cur).isEmpty r = false)
    (c : (s.thread s.run.cur).crosses false r = false) : readG r e s = .ok ((s.thread s.run.cur).reg r) s :=
  readIn_full h c

theorem readG_empty {s : State} {r : Reg} {e : Bool} (h : (s.thread s.run.cur).isEmpty r = true) :
    readG r e s = .error (if e then .trap ⟨.empty, 0, 0, 0⟩ else .park (.empty r.toNat)) s := readIn_empty h

theorem readP_full {s : State} {r : Reg} (h : (s.thread s.run.cur).isEmpty r = false)
    (c : (s.thread s.run.cur).crosses false r = false) : readP r s = .ok ((s.thread s.run.cur).reg r) s := readG_full h c

theorem readP_empty {s : State} {r : Reg} (h : (s.thread s.run.cur).isEmpty r = true) :
    readP r s = .error (.park (.empty r.toNat)) s := readG_empty h

theorem checkDest_full {s : State} {r : Reg} (h : (s.thread s.run.cur).isEmpty r = false) : checkDest r s = .ok () s := by
  simp [checkDest, M.run_bind, h]

theorem checkDest_empty {s : State} {r : Reg} (h : (s.thread s.run.cur).isEmpty r = true) :
    checkDest r s = .error (.park (.dest r.toNat)) s := by
  simp [checkDest, M.run_bind, h]

@[simp] theorem writeIn_run (p : Bool) (r : Reg) (v : Word) (s : State) :
    writeIn p r v s = .ok () (s.setThread s.run.cur (((s.thread s.run.cur).setReg r v).madeBy p r)) := rfl

@[simp] theorem writeG_run (r : Reg) (v : Word) (s : State) :
    writeG r v s = .ok () (s.setThread s.run.cur (((s.thread s.run.cur).setReg r v).madeBy false r)) := rfl

@[simp] theorem advance_run (len : Nat) (s : State) : advance len s = .ok () (s.setThread s.run.cur
    { s.thread s.run.cur with pc := after (s.thread s.run.cur).pc len }) := rfl

/-- The state after a straight instruction of pipe `p` that writes `v` to `d`. -/
def State.wroteIn (s : State) (p : Bool) (len : Nat) (d : Reg) (v : Word) : State :=
  s.setThread s.run.cur { ((s.thread s.run.cur).setReg d v).madeBy p d with pc := after (s.thread s.run.cur).pc len }

/-- The same in the execute pipe. -/
def State.wrote (s : State) (len : Nat) (d : Reg) (v : Word) : State := s.wroteIn false len d v

theorem straight_ok {len : Nat} {m : M Unit} {s t : State} (h : m s = .ok () t) :
    straight len m s = .ok () (t.setThread t.run.cur { t.thread t.run.cur with pc := after (t.thread t.run.cur).pc len }) := by
  simp [straight, M.run_bind, h]

theorem straight_error {len : Nat} {m : M Unit} {s t : State} {e : Stop} (h : m s = .error e t) :
    straight len m s = .error e t := by
  simp [straight, M.run_bind, h]

/-- Writing a register and moving past the instruction is one change of the thread. -/
theorem straight_writeIn {p : Bool} {len : Nat} {m : M Unit} {s : State} {d : Reg} {v : Word}
    (h : m s = .ok () (s.setThread s.run.cur (((s.thread s.run.cur).setReg d v).madeBy p d))) :
    straight len m s = .ok () (s.wroteIn p len d v) := by
  rw [straight_ok h]
  simp [State.wroteIn]

theorem straight_write {len : Nat} {m : M Unit} {s : State} {d : Reg} {v : Word}
    (h : m s = .ok () (s.setThread s.run.cur (((s.thread s.run.cur).setReg d v).madeBy false d))) :
    straight len m s = .ok () (s.wrote len d v) := straight_writeIn h

/-! ## How a meaning ends -/

/-- With no exception report held, nothing follows an instruction. -/
theorem settleFpx_none {s : State} (h : (s.thread s.run.cur).fpx = none) : settleFpx s = .ok () s := by
  simp [settleFpx, M.run_bind, h]

/-- A meaning that completes, with no exception report held, answers the state it left. -/
theorem finish_ok {m : M Unit} {s t : State} (h : m s = .ok () t) (q : (t.thread t.run.cur).fpx = none) :
    finish m s = .next t := by
  simp [finish, h, settleFpx_none q]

theorem finish_park {m : M Unit} {s t : State} {r : Reason} (h : m s = .error (.park r) t) :
    finish m s = .next (t.setThread t.run.cur { t.thread t.run.cur with st := .parked r }) := by
  simp [finish, h, takePark]

theorem finish_wrote {m : M Unit} {s : State} {len : Nat} {d : Reg} {v : Word} (h : m s = .ok () (s.wrote len d v))
    (q : (s.thread s.run.cur).fpx = none) : finish m s = .next (s.wrote len d v) :=
  finish_ok h (by simp [State.wrote, State.wroteIn, q])

/-! ## Operand forms -/

section forms
variable {s : State} {d a b : Reg} {e f : Bool} {len : Nat}

theorem formRIn_run {p : Bool} {op : Word → Word → Word} (ha : (s.thread s.run.cur).isEmpty a = false)
    (hb : (s.thread s.run.cur).isEmpty b = false) (hd : (s.thread s.run.cur).isEmpty d = false)
    (ca : (s.thread s.run.cur).crosses p a = false) (cb : (s.thread s.run.cur).crosses p b = false) :
    formRIn p d a b e f len op s =
      .ok () (s.wroteIn p len d (op ((s.thread s.run.cur).reg a) ((s.thread s.run.cur).reg b))) :=
  straight_writeIn (by simp [M.run_bind, readIn_full ha ca, readIn_full hb cb, checkDest_full hd])

theorem formIIn_run {p : Bool} {op : Word → Word} (ha : (s.thread s.run.cur).isEmpty a = false)
    (hd : (s.thread s.run.cur).isEmpty d = false) (ca : (s.thread s.run.cur).crosses p a = false) :
    formIIn p d a e len op s = .ok () (s.wroteIn p len d (op ((s.thread s.run.cur).reg a))) :=
  straight_writeIn (by simp [M.run_bind, readIn_full ha ca, checkDest_full hd])

theorem formW_run {v : Word} (hd : (s.thread s.run.cur).isEmpty d = false) :
    formW d len v s = .ok () (s.wrote len d v) :=
  straight_write (by simp [M.run_bind, checkDest_full hd])

theorem formPc_run {op : BitVec 52 → Word} (hd : (s.thread s.run.cur).isEmpty d = false) :
    formPc d len op s = .ok () (s.wrote len d (op (s.thread s.run.cur).pc)) :=
  straight_write (by simp [M.run_bind, checkDest_full hd])

end forms

end Sys2Proof.Machine
end

