-- ==== Sys2Proof/Laws/Issue.lean ====
section
/-! SUPPORT. What surrounds an instruction in a step: which fields the issue of a thread leaves alone, how a trap ends a
meaning, and what a step is for each kind of move. -/

set_option Elab.async false

namespace Sys2Proof.Machine

/-! ## The state around an instruction -/

section
variable (s : State) (k : Nat) (i : Instr)

@[simp] theorem State.focus_agenda : (s.focus k).run.agenda = s.run.agenda := rfl

@[simp] theorem State.rotated_mem : (s.rotated k).mem = s.mem := rfl
@[simp] theorem State.rotated_threads : (s.rotated k).threads = s.threads := rfl
@[simp] theorem State.rotated_run : (s.rotated k).run = s.run := rfl
@[simp] theorem State.rotated_homes : (s.rotated k).homes = s.homes := rfl
@[simp] theorem State.rotated_dies : (s.rotated k).dies = s.dies := rfl

@[simp] theorem State.begun_mem : (s.begun k).mem = s.mem := rfl
@[simp] theorem State.begun_cores : (s.begun k).cores = s.cores := rfl
@[simp] theorem State.begun_run : (s.begun k).run = s.run := rfl
@[simp] theorem State.begun_homes : (s.begun k).homes = s.homes := rfl

@[simp] theorem State.holding_mem : (s.holding k i).mem = s.mem := by
  unfold State.holding; split <;> rfl
@[simp] theorem State.holding_cores : (s.holding k i).cores = s.cores := by
  unfold State.holding; split <;> rfl
@[simp] theorem State.holding_run : (s.holding k i).run = s.run := by
  unfold State.holding; split <;> rfl
@[simp] theorem State.holding_homes : (s.holding k i).homes = s.homes := by
  unfold State.holding; split <;> rfl

@[simp] theorem held_next : held k i (.next s) = .next (s.holding k i) := rfl
@[simp] theorem held_fault (f : Fault) : held k i (.fault f) = .fault f := rfl
@[simp] theorem held_refused (r : Refusal) : held k i (.refused r) = .refused r := rfl

end

/-! ## How a trap or a wait ends a meaning -/

/-- A trap is taken in the state that its meaning left. -/
theorem finish_trap {m : M Unit} {s t u : State} {x : Trap} (h : m s = .error (.trap x) t)
    (ha : s.allocating s.run.cur = false) (hu : takeTrap x t = .ok () u) : finish m s = .next u := by
  simp [finish, h, ha, hu]

/-- A trap waits, with no effect yet, while an ALLOC of its thread is outstanding (R81). -/
theorem finish_trap_waits {m : M Unit} {s t : State} {x : Trap} (h : m s = .error (.trap x) t)
    (ha : s.allocating s.run.cur = true) : finish m s = .next s.stallsNow := by
  simp [finish, h, ha]

/-- An instruction that waits keeps what it has done so far (log entry 17). -/
theorem finish_stall {m : M Unit} {s t : State} (h : m s = .error .stall t) : finish m s = .next t.stallsNow := by
  simp [finish, h]

/-- Whatever ends an agent's move, what it performed stays. -/
theorem agentStep_ok {m : M Unit} {s t : State} (h : m s = .ok () t) : agentStep m s = .next t := by
  simp [agentStep, h]

/-! ## The step -/

/-- A step whose move the run names. -/
theorem step_agenda {s : State} {a : Act} {rest : List Act} (h : s.settled.run.agenda = a :: rest) :
    step s = act a (s.settled.withAgenda rest) := by
  simp only [step, h]

/-- A thread that may not issue, that another outranks, or whose turn it is not, does nothing (R76). -/
theorem issue_idle {s : State} {k : Nat} (hk : knownThread k = true)
    (h : (s.focus k).mayIssue k = false ∨ (s.focus k).outranked k = true ∨ (s.focus k).outOfTurn k = true) :
    issue k s = .next (s.focus k) := by
  rcases h with h | h | h <;> simp [issue, hk, h]

/-- A thread whose instruction is under way issues it again (log entry 17). -/
theorem issue_doing {s : State} {k : Nat} {i : Instr} (hk : knownThread k = true)
    (hm : (s.focus k).mayIssue k = true) (ho : (s.focus k).outranked k = false) (ht : (s.focus k).outOfTurn k = false)
    (hi : (k % 8 == 0 && ((s.focus k).rotated k).interruptible (k / 8)) = false)
    (hd : (((s.focus k).rotated k).thread k).doing = some i) :
    issue k s = held k i (exec i (((s.focus k).rotated k).begun k)) := by
  simp [issue, hk, hm, ho, ht, hi, hd]

end Sys2Proof.Machine
end

