-- ==== Sys2Proof/Laws/Mem.lean ====
section
/-! SUPPORT. Laws of byte memory: what a read gives after a write, and that every operation on memory keeps the canonical form
(log entry 2): addresses rise strictly, and no entry holds what an unlisted address reads as. -/

namespace Sys2Proof.Machine

/-! ## The canonical form -/

theorem Mem.wfFrom_cons {lo j : Nat} {b : Byte} {m : Mem} :
    Mem.wfFrom lo ((j, b) :: m) = true ↔ lo ≤ j ∧ b ≠ Mem.unlisted ∧ Mem.wfFrom (j + 1) m = true := by
  simp [Mem.wfFrom, and_assoc]

theorem Mem.wfFrom_mono {lo lo' : Nat} {m : Mem} (h : Mem.wfFrom lo m = true) (hl : lo' ≤ lo) : Mem.wfFrom lo' m = true := by
  cases m with
  | nil => rfl
  | cons c m =>
    obtain ⟨h1, h2, h3⟩ := Mem.wfFrom_cons.1 h
    exact Mem.wfFrom_cons.2 ⟨Nat.le_trans hl h1, h2, h3⟩

/-- Below its first address a canonical memory lists nothing. -/
theorem Mem.byte_below {lo a : Nat} {m : Mem} (h : Mem.wfFrom lo m = true) (ha : a < lo) : m.byte a = Mem.unlisted := by
  cases m with
  | nil => rfl
  | cons c m =>
    obtain ⟨h1, _, _⟩ := Mem.wfFrom_cons.1 h
    simp only [Mem.byte]
    rw [if_pos (Nat.lt_of_lt_of_le ha h1)]

theorem Mem.setByte_wfFrom {m : Mem} : ∀ {lo a : Nat} {v : Byte}, Mem.wfFrom lo m = true → lo ≤ a →
    Mem.wfFrom lo (m.setByte a v) = true := by
  induction m with
  | nil =>
    intro lo a v _ ha
    simp only [Mem.setByte]
    split
    · rfl
    · rename_i hv
      exact Mem.wfFrom_cons.2 ⟨ha, hv, rfl⟩
  | cons c m ih =>
    intro lo a v h ha
    obtain ⟨h1, h2, h3⟩ := Mem.wfFrom_cons.1 h
    simp only [Mem.setByte]
    split
    · rename_i hlt
      split
      · exact h
      · rename_i hv
        exact Mem.wfFrom_cons.2 ⟨ha, hv, Mem.wfFrom_cons.2 ⟨hlt, h2, h3⟩⟩
    · rename_i hge
      split
      · rename_i heq
        split
        · exact Mem.wfFrom_mono h3 (by omega)
        · rename_i hv
          exact Mem.wfFrom_cons.2 ⟨ha, hv, by rw [heq]; exact h3⟩
      · rename_i hne
        exact Mem.wfFrom_cons.2 ⟨h1, h2, ih h3 (by omega)⟩

/-- Writing one byte keeps the canonical form. -/
theorem Mem.setByte_wf {m : Mem} {a : Nat} {v : Byte} (h : Memory.wf m = true) : Memory.wf (m.setByte a v) = true :=
  Mem.setByte_wfFrom h (Nat.zero_le a)

/-- Writing bytes keeps the canonical form. -/
theorem Mem.setBytes_wf {bs : List Byte} : ∀ {m : Mem} {a : Nat}, Memory.wf m = true → Memory.wf (m.setBytes a bs) = true := by
  induction bs with
  | nil => intro m a h; exact h
  | cons b bs ih => intro m a h; exact ih (Mem.setByte_wf h)

/-- Leaving out entries keeps the canonical form. -/
theorem Mem.filter_wf {p : Host.Cell → Bool} {m : Mem} (h : Memory.wf m = true) : Memory.wf (m.filter p) = true := by
  suffices H : ∀ (m : Mem) (lo : Nat), Mem.wfFrom lo m = true → Mem.wfFrom lo (m.filter p) = true from H m 0 h
  intro m
  induction m with
  | nil => intro _ _; rfl
  | cons c m ih =>
    intro lo h
    obtain ⟨h1, h2, h3⟩ := Mem.wfFrom_cons.1 h
    by_cases hc : p c = true
    · rw [List.filter_cons_of_pos hc]
      exact Mem.wfFrom_cons.2 ⟨h1, h2, ih _ h3⟩
    · rw [List.filter_cons_of_neg hc]
      exact Mem.wfFrom_mono (ih _ h3) (by omega)

/-- Clearing a range keeps the canonical form. -/
theorem Mem.zero_wf {m : Mem} {a n : Nat} (h : Memory.wf m = true) : Memory.wf (m.zero a n) = true := Mem.filter_wf h

/-- Putting bytes back keeps the canonical form, whatever was put aside. -/
theorem memRestore_wf {m part : Mem} {a n shift : Nat} (h : Memory.wf m = true) :
    Memory.wf (memRestore m a n part shift) = true := by
  suffices H : ∀ (part m : Mem), Memory.wf m = true →
      Memory.wf (part.foldl (fun m c => m.setByte (c.1 + shift) c.2) m) = true from H part _ (Mem.zero_wf h)
  intro part
  induction part with
  | nil => intro m h; exact h
  | cons c part ih => intro m h; exact ih _ (Mem.setByte_wf h)

/-- Clearing ranges one after the other keeps the canonical form. -/
theorem Mem.zeros_wf {α : Type} (f : α → Nat) (n : Nat) (gs : List α) {m : Mem} (h : Memory.wf m = true) :
    Memory.wf (gs.foldl (fun m g => m.zero (f g) n) m) = true := by
  induction gs generalizing m with
  | nil => exact h
  | cons g gs ih => exact ih (Mem.zero_wf h)

/-! ## Reads after writes -/

theorem Mem.byte_cons (j : Nat) (b : Byte) (m : Mem) (x : Nat) :
    Mem.byte ((j, b) :: m) x = if x < j then Mem.unlisted else if x = j then b else m.byte x := rfl

theorem Mem.byte_setByteFrom {m : Mem} : ∀ {lo a : Nat} {v : Byte} (x : Nat), Mem.wfFrom lo m = true →
    (m.setByte a v).byte x = if x = a then v else m.byte x := by
  induction m with
  | nil =>
    intro lo a v x _
    by_cases hx : x = a
    · subst hx
      by_cases hv : v = Mem.unlisted <;> simp [Mem.setByte, Mem.byte, hv]
    · by_cases hv : v = Mem.unlisted <;> simp [Mem.setByte, Mem.byte, hv, hx]
  | cons c m ih =>
    intro lo a v x h
    obtain ⟨_, _, h3⟩ := Mem.wfFrom_cons.1 h
    have below : ∀ y, y ≤ c.1 → Mem.byte m y = Mem.unlisted := fun y hy => Mem.byte_below h3 (by omega)
    have rest := ih (a := a) (v := v) x h3
    obtain ⟨j, b⟩ := c
    simp only at below
    simp only [Mem.setByte]
    rcases Nat.lt_trichotomy a j with haj | haj | haj
    · rw [if_pos haj]
      by_cases hv : v = Mem.unlisted
      · rw [if_pos hv]
        by_cases hx : x = a
        · rw [if_pos hx, Mem.byte_cons, if_pos (by omega), hv]
        · rw [if_neg hx]
      · rw [if_neg hv, Mem.byte_cons]
        by_cases hx : x = a
        · simp [hx]
        · simp only [if_neg hx]
          by_cases hxa : x < a
          · rw [if_pos hxa, Mem.byte_cons, if_pos (by omega)]
          · rw [if_neg hxa]
    · rw [if_neg (by omega), if_pos haj]
      by_cases hv : v = Mem.unlisted
      · rw [if_pos hv, Mem.byte_cons]
        by_cases hx : x = a
        · rw [if_pos hx, below x (by omega), hv]
        · rw [if_neg hx]
          by_cases hxj : x < j
          · rw [if_pos hxj, below x (by omega)]
          · rw [if_neg hxj, if_neg (by omega)]
      · rw [if_neg hv, Mem.byte_cons, Mem.byte_cons]
        subst haj
        by_cases hx : x = a
        · rw [if_neg (by omega)]
          simp only [if_pos hx]
        · simp only [if_neg hx]
    · rw [if_neg (by omega), if_neg (by omega), Mem.byte_cons, Mem.byte_cons, rest]
      by_cases hx : x = a
      · rw [if_neg (by omega), if_neg (by omega)]
        simp only [if_pos hx]
      · simp only [if_neg hx]

/-- A byte reads back as it was written; every other byte is as before. -/
theorem Mem.byte_setByte {m : Mem} {a : Nat} {v : Byte} (x : Nat) (h : Memory.wf m = true) :
    (m.setByte a v).byte x = if x = a then v else m.byte x := Mem.byte_setByteFrom x h

/-- Bytes outside a written range are as before. -/
theorem Mem.byte_setBytes_outside {bs : List Byte} : ∀ {m : Mem} {a x : Nat}, Memory.wf m = true →
    x < a ∨ a + bs.length ≤ x → (m.setBytes a bs).byte x = m.byte x := by
  induction bs with
  | nil => intro m a x _ _; rfl
  | cons b bs ih =>
    intro m a x h hx
    simp only [List.length_cons] at hx
    rw [Mem.setBytes, ih (Mem.setByte_wf h) (by omega), Mem.byte_setByte x h, if_neg (by omega)]

/-- Bytes inside a written range read as they were written. -/
theorem Mem.byte_setBytes_inside {bs : List Byte} : ∀ {m : Mem} {a : Nat} (i : Nat), Memory.wf m = true → i < bs.length →
    (m.setBytes a bs).byte (a + i) = bs.getD i 0 := by
  induction bs with
  | nil => intro m a i _ hi; simp at hi
  | cons b bs ih =>
    intro m a i h hi
    cases i with
    | zero =>
      rw [Mem.setBytes, Mem.byte_setBytes_outside (Mem.setByte_wf h) (by omega), Mem.byte_setByte _ h]
      simp
    | succ i =>
      have := ih (m := m.setByte a b) (a := a + 1) i (Mem.setByte_wf h) (by simpa using hi)
      rw [Mem.setBytes, show a + (i + 1) = a + 1 + i by omega, this]
      simp

theorem Mem.bytes_length (m : Mem) (a n : Nat) : (m.bytes a n).length = n := by
  induction n generalizing a with
  | zero => rfl
  | succ n ih => simp [Mem.bytes, ih]

theorem Mem.bytes_congr {m m' : Mem} {n : Nat} : ∀ {a : Nat}, (∀ x, a ≤ x → x < a + n → m.byte x = m'.byte x) →
    m.bytes a n = m'.bytes a n := by
  induction n with
  | zero => intro a _; rfl
  | succ n ih =>
    intro a h
    simp only [Mem.bytes]
    rw [h a (by omega) (by omega), ih fun x h1 h2 => h x (by omega) (by omega)]

/-- What was written reads back. -/
theorem Mem.bytes_setBytes_same {bs : List Byte} : ∀ {m : Mem} {a : Nat}, Memory.wf m = true →
    (m.setBytes a bs).bytes a bs.length = bs := by
  induction bs with
  | nil => intro m a _; rfl
  | cons b bs ih =>
    intro m a h
    simp only [List.length_cons, Mem.bytes, Mem.setBytes]
    rw [ih (Mem.setByte_wf h), Mem.byte_setBytes_outside (Mem.setByte_wf h) (by omega), Mem.byte_setByte _ h, if_pos rfl]

/-- A range that a write does not touch reads as before. -/
theorem Mem.bytes_setBytes_apart {m : Mem} {a x n : Nat} {bs : List Byte} (h : Memory.wf m = true)
    (hx : x + n ≤ a ∨ a + bs.length ≤ x) : (m.setBytes a bs).bytes x n = m.bytes x n :=
  Mem.bytes_congr fun y h1 h2 => Mem.byte_setBytes_outside h (by omega)

/-! ## Equal memories are equal data -/

theorem Mem.ext_from {m : Mem} : ∀ {m' : Mem} {lo : Nat}, Mem.wfFrom lo m = true → Mem.wfFrom lo m' = true →
    (∀ x, m.byte x = m'.byte x) → m = m' := by
  induction m with
  | nil =>
    intro m' lo _ h' e
    cases m' with
    | nil => rfl
    | cons c m' =>
      obtain ⟨_, h2, _⟩ := Mem.wfFrom_cons.1 h'
      have := e c.1
      simp [Mem.byte] at this
      exact absurd this.symm h2
  | cons c m ih =>
    intro m' lo h h' e
    obtain ⟨h1, h2, h3⟩ := Mem.wfFrom_cons.1 h
    cases m' with
    | nil =>
      have := e c.1
      simp [Mem.byte] at this
      exact absurd this h2
    | cons c' m' =>
      obtain ⟨h1', h2', h3'⟩ := Mem.wfFrom_cons.1 h'
      have hc := e c.1
      have hc' := e c'.1
      simp only [Mem.byte] at hc hc'
      have hj : c.1 = c'.1 := by
        rcases Nat.lt_trichotomy c.1 c'.1 with hl | he | hl
        · simp [hl] at hc; exact absurd hc h2
        · exact he
        · simp [hl] at hc'; exact absurd hc'.symm h2'
      obtain ⟨j, b⟩ := c
      obtain ⟨j', b'⟩ := c'
      simp only at hj
      subst hj
      simp at hc
      subst hc
      congr 1
      refine ih h3 h3' fun x => ?_
      have := e x
      simp only [Mem.byte] at this
      by_cases hx : x ≤ j
      · rw [Mem.byte_below h3 (by omega), Mem.byte_below h3' (by omega)]
      · rw [if_neg (by omega), if_neg (by omega), if_neg (by omega), if_neg (by omega)] at this
        exact this

/-- Two canonical memories that read alike everywhere are the same. -/
theorem Mem.ext_wf {m m' : Mem} (h : Memory.wf m = true) (h' : Memory.wf m' = true) (e : ∀ x, m.byte x = m'.byte x) :
    m = m' := Mem.ext_from h h' e

theorem reset_mem_wf : Memory.wf State.reset.mem = true := rfl

end Sys2Proof.Machine
end

