-- ==== Sys2Proof/Laws/Keeps.lean ====
section
/-! SUPPORT. What a meaning keeps: a property of states that holds after it wherever it held before, however it ends. One
law for each way of putting meanings together, one for each end that `finish` makes of them, and the basic operations for the
canonical form of memory. -/

namespace Sys2Proof.Machine

/-- A meaning keeps a property of states, whether it completes or stops. -/
def Keeps (P : State → Prop) {α : Type} (m : M α) : Prop :=
  ∀ s, P s → match m s with | .ok _ t => P t | .error _ t => P t

theorem Keeps.ok {P : State → Prop} {α : Type} {m : M α} (h : Keeps P m) {s t : State} {a : α} (hs : P s)
    (e : m s = .ok a t) : P t := by
  have := h s hs
  rw [e] at this
  exact this

theorem Keeps.error {P : State → Prop} {α : Type} {m : M α} (h : Keeps P m) {s t : State} {x : Stop} (hs : P s)
    (e : m s = .error x t) : P t := by
  have := h s hs
  rw [e] at this
  exact this

theorem Keeps.pure {P : State → Prop} {α : Type} (a : α) : Keeps P (pure a : M α) := fun _ hs => hs

theorem Keeps.bind {P : State → Prop} {α β : Type} {m : M α} {f : α → M β} (hm : Keeps P m) (hf : ∀ a, Keeps P (f a)) :
    Keeps P (m >>= f) := by
  intro s hs
  rw [M.run_bind]
  cases e : m s with
  | ok a t => exact hf a t (hm.ok hs e)
  | error x t => exact hm.error hs e

theorem Keeps.map {P : State → Prop} {α β : Type} {m : M α} (f : α → β) (hm : Keeps P m) : Keeps P (f <$> m) := by
  intro s hs
  rw [M.run_map]
  cases e : m s with
  | ok a t => exact hm.ok hs e
  | error x t => exact hm.error hs e

theorem Keeps.get {P : State → Prop} : Keeps P (get : M State) := fun _ hs => hs
theorem Keeps.throw {P : State → Prop} {α : Type} (e : Stop) : Keeps P (throw e : M α) := fun _ hs => hs
theorem Keeps.trap {P : State → Prop} {α : Type} (c : Cause) (sub : Nat) (fa fi : Word) :
    Keeps P (trap c sub fa fi : M α) := fun _ hs => hs
theorem Keeps.park {P : State → Prop} {α : Type} (r : Reason) : Keeps P (park r : M α) := fun _ hs => hs

theorem Keeps.modify {P : State → Prop} {f : State → State} (h : ∀ s, P s → P (f s)) : Keeps P (modify f : M Unit) :=
  fun s hs => h s hs

theorem Keeps.set {P : State → Prop} {t : State} (h : P t) : Keeps P (set t : M Unit) := fun _ _ => h

theorem Keeps.ite {P : State → Prop} {α : Type} {c : Prop} [Decidable c] {m n : M α} (hm : Keeps P m) (hn : Keeps P n) :
    Keeps P (if c then m else n) := by
  split
  · exact hm
  · exact hn

theorem Keeps.forM {P : State → Prop} {α : Type} {f : α → M Unit} (h : ∀ a, Keeps P (f a)) (l : List α) :
    Keeps P (l.forM f) := by
  induction l with
  | nil => exact Keeps.pure ()
  | cons a l ih => exact Keeps.bind (h a) fun _ => ih

theorem Keeps.foldlM {P : State → Prop} {α β : Type} {f : β → α → M β} (h : ∀ b a, Keeps P (f b a)) (l : List α) :
    ∀ b, Keeps P (l.foldlM f b) := by
  induction l with
  | nil => exact fun b => Keeps.pure b
  | cons a l ih =>
    intro b
    rw [List.foldlM_cons]
    exact Keeps.bind (h b a) fun b' => ih b'

/-- A loop keeps what its body keeps. -/
theorem Keeps.forIn {P : State → Prop} {α β : Type} {f : α → β → M (ForInStep β)} (h : ∀ a b, Keeps P (f a b)) (l : List α) :
    ∀ b, Keeps P (ForIn.forIn l b f) := by
  induction l with
  | nil =>
    intro b
    rw [List.forIn_nil]
    exact Keeps.pure b
  | cons a l ih =>
    intro b
    rw [List.forIn_cons]
    refine Keeps.bind (h a b) fun r => ?_
    cases r with
    | done b' => exact Keeps.pure b'
    | yield b' => exact ih b'

theorem Keeps.mapM {P : State → Prop} {α β : Type} {f : α → M β} (h : ∀ a, Keeps P (f a)) (l : List α) :
    Keeps P (l.mapM f) := by
  induction l with
  | nil =>
    rw [List.mapM_nil]
    exact Keeps.pure _
  | cons a l ih =>
    rw [List.mapM_cons]
    exact Keeps.bind (h a) fun _ => Keeps.bind ih fun _ => Keeps.pure _

/-- Whatever way an instruction ends, `finish` keeps what its three endings keep. -/
theorem Keeps.finish {P : State → Prop} {m : M Unit} {s t : State} (hm : Keeps P m) (hs : P s)
    (hx : Keeps P settleFpx) (hstall : ∀ s, P s → P s.stallsNow) (ht : ∀ x, Keeps P (takeTrap x)) (hp : ∀ r, Keeps P (takePark r))
    (e : Machine.finish m s = .next t) : P t := by
  unfold Machine.finish at e
  cases h : m s with
  | ok u s1 =>
    rw [h] at e
    have h1 := hm.ok hs h
    simp only at e
    cases g : settleFpx s1 with
    | ok v s2 => rw [g] at e; cases e; exact hx.ok h1 g
    | error v s2 => rw [g] at e; cases e; exact hx.error h1 g
  | error x s1 =>
    rw [h] at e
    have h1 := hm.error hs h
    cases x with
    | trap x =>
      simp only at e
      split at e
      · cases e; exact hstall _ hs
      cases g : takeTrap x s1 with
      | ok v s2 => rw [g] at e; cases e; exact (ht x).ok h1 g
      | error v s2 => rw [g] at e; cases e; exact (ht x).error h1 g
    | park r =>
      simp only at e
      cases g : takePark r s1 with
      | ok v s2 => rw [g] at e; cases e; exact (hp r).ok h1 g
      | error v s2 => rw [g] at e; cases e; exact (hp r).error h1 g
    | stall => cases e; exact hstall _ h1
    | fault f => cases e

/-! ## The canonical form of memory -/

/-- Memory is in canonical form. -/
def MemWf (s : State) : Prop := Memory.wf s.mem = true

theorem reset_memWf : MemWf State.reset := reset_mem_wf

/-- A change that leaves memory alone keeps its form. -/
theorem modify_keeps {f : State → State} (h : ∀ s, (f s).mem = s.mem) : Keeps MemWf (modify f : M Unit) :=
  fun s hs => show Memory.wf (f s).mem = true by rw [h s]; exact hs

theorem modThread_keeps (k : Nat) (f : Thread → Thread) : Keeps MemWf (modThread k f) := fun _ hs => hs
theorem modCore_keeps (w : Nat) (f : Core → Core) : Keeps MemWf (modCore w f) := fun _ hs => hs
theorem modCluster_keeps (n : Nat) (f : Cluster → Cluster) : Keeps MemWf (modCluster n f) := fun _ hs => hs
theorem modDie_keeps (d : Nat) (f : Die → Die) : Keeps MemWf (modDie d f) := fun _ hs => hs
theorem modDieRegs_keeps (d : Nat) (f : DieRegs → DieRegs) : Keeps MemWf (modDieRegs d f) := fun _ hs => hs
theorem sendSystem_keeps (src die cls : Nat) (p : List Byte) : Keeps MemWf (sendSystem src die cls p) := fun _ hs => hs

/-- Storing bytes keeps the canonical form; waking threads leaves memory alone. -/
theorem putBytes_keeps (a : Nat) (bs : List Byte) : Keeps MemWf (putBytes a bs) := by
  refine Keeps.bind (fun s hs => Mem.setBytes_wf hs) fun _ => ?_
  exact fun s hs => hs

theorem takePark_keeps (r : Reason) : Keeps MemWf (takePark r) := fun _ hs => hs

theorem doubleFault_keeps (who : Nat) : Keeps MemWf (doubleFault who) := fun _ hs => hs

theorem me_keeps {P : State → Prop} : Keeps P me := fun _ hs => hs
theorem getThread_keeps {P : State → Prop} (k : Nat) : Keeps P (getThread k) := fun _ hs => hs
theorem sendSystemTo_keeps (o : Origin) (src dst pool cls : Nat) (p : List Byte) : Keeps MemWf (sendSystemTo o src dst pool cls p) :=
  fun _ hs => hs

/-- Taking a trap leaves memory alone. -/
theorem takeTrap_keeps (x : Trap) : Keeps MemWf (takeTrap x) := by
  refine Keeps.bind me_keeps fun k => Keeps.bind (modThread_keeps _ _) fun _ => Keeps.bind (getThread_keeps _) fun t => Keeps.ite ?_ ?_
  · exact Keeps.bind (modThread_keeps _ _) fun _ => Keeps.ite (doubleFault_keeps _) (Keeps.pure ())
  · exact Keeps.bind (modThread_keeps _ _) fun _ => sendSystem_keeps _ _ _ _

/-- Reporting a floating-point exception leaves memory alone. -/
theorem settleFpx_keeps : Keeps MemWf settleFpx := by
  refine Keeps.bind me_keeps fun k => Keeps.bind (getThread_keeps _) fun t => ?_
  split
  · exact Keeps.pure ()
  · refine Keeps.ite ?_ ?_
    · exact Keeps.bind (modThread_keeps _ _) fun _ => Keeps.ite (doubleFault_keeps _) (Keeps.pure ())
    · exact Keeps.bind (modThread_keeps _ _) fun _ =>
        Keeps.ite (sendSystemTo_keeps _ _ _ _ _ _) (sendSystem_keeps _ _ _ _)

/-- An instruction whose body keeps the canonical form of memory keeps it, however it ends. -/
theorem finish_memWf {m : M Unit} {s t : State} (hm : Keeps MemWf m) (hs : MemWf s) (e : finish m s = .next t) : MemWf t :=
  Keeps.finish hm hs settleFpx_keeps (fun _ h => by unfold State.stallsNow; dsimp only; repeat' split <;> exact h) takeTrap_keeps takePark_keeps e

end Sys2Proof.Machine
end

