-- ==== Sys2Proof/Tests/Slice0.lean ====
section
/-! SUPPORT. Tests: which instructions are refused as ill-formed, words written out from the encoding tables of the spec and
the instructions they decode to, single steps with results worked out by hand from the rules, and witnesses for the
hypotheses of the statements. -/

set_option Elab.async false

namespace Sys2Proof.Tests

open Sys2Proof Sys2Proof.Machine Sys2Proof.Claims


/-! ## Words and the instructions they decode to, from the encoding tables (R53 to R65) -/

/-- Whether each word decodes to its instruction. -/
def reads (l : List (Nat × Instr)) : Bool :=
  l.all fun x => match decodeWord x.1 0 with | .ok j => decide (j = x.2) | .error _ => false

theorem test_decode_01_a : reads [
    (0x04894800, .add false 8 18 18 false false),
    (0x07D2B401, .sub true 29 5 13 false false),
    (0x04DA9902, .mul 13 21 6 false true),
    (0x05056703, .mulh 16 10 25 true true),
    (0x053F3104, .mulhn 19 30 12 false true),
    (0x056A2805, .div 22 20 10 false false),
    (0x0594F606, .divn 25 9 29 true false),
    (0x05CF6E07, .rem 28 30 27 true false),
    (0x05E9B908, .remn 30 19 14 false true),
    (0x065F1B09, .and true 5 30 6 true true),
    (0x05AE320A, .or false 26 28 12 true false),
    (0x06F79C0B, .xor true 15 15 7 false false)] = true := by decide +kernel

theorem test_decode_01_b : reads [
    (0x0441090C, .andn false 4 2 2 false true),
    (0x0790210D, .sll true 25 0 8 false true),
    (0x04E98F0E, .srl false 14 19 3 true true),
    (0x0633260F, .sra true 3 6 9 true false),
    (0x057D9F10, .rol 23 27 7 true true),
    (0x05A86811, .min 26 16 26 false false),
    (0x05D2B412, .max 29 5 13 false false),
    (0x0402AE13, .minn 0 5 11 true false),
    (0x043D7914, .maxn 3 26 30 false true),
    (0x0467C515, .slt 6 15 17 false true),
    (0x04923E16, .sltn 9 4 15 true false),
    (0x04CC8A17, .seq 12 25 2 true false)] = true := by decide +kernel

theorem test_decode_01_c : reads [
    (0x04F70018, .clz 15 14 false),
    (0x05218019, .ctz 18 3 false),
    (0x055C021A, .popc 21 24 true),
    (0x06AB671B, .padd true 10 22 25 true true),
    (0x05B15E1C, .pdiff 27 2 23 true false),
    (0x0743E91D, .fatset true 20 7 26 false true),
    (0x049D001E, .fatget false 9 26 false)] = true := by decide +kernel

theorem test_decode_02 : reads [
    (0x0840ED00, .addw 4 1 27 false true),
    (0x087B3B01, .subw 7 22 14 true true),
    (0x08A58502, .mulw 10 11 1 false true),
    (0x08D07803, .divw 13 0 30 false false),
    (0x090ACA04, .divnw 16 21 18 true false),
    (0x09351605, .remw 19 10 5 true false),
    (0x096F0D06, .remnw 22 30 3 false true),
    (0x099A5B07, .sllw 25 20 22 true true),
    (0x09C4A708, .srlw 28 9 9 true true),
    (0x09E49C09, .sraw 30 9 7 false false)] = true := by decide +kernel

theorem test_decode_03 : reads [
    (0x0FBBC5BB, .addi true 27 23 true 1467)] = true := by decide +kernel

theorem test_decode_04 : reads [
    (0x110553B9, .andi false 16 10 true 5049)] = true := by decide +kernel

theorem test_decode_05 : reads [
    (0x1654338C, .ori true 5 8 false 13196)] = true := by decide +kernel

theorem test_decode_06 : reads [
    (0x19AD818A, .xori false 26 27 false 394)] = true := by decide +kernel

theorem test_decode_07 : reads [
    (0x1EF74008, .slli true 15 14 true 8),
    (0x1C46101B, .srli false 4 12 false 27),
    (0x1F9F2019, .srai true 25 30 false 25),
    (0x1CE97017, .roli false 14 18 true 23)] = true := by decide +kernel

theorem test_decode_08 : reads [
    (0x21A30C43, .slti 26 6 false 3139)] = true := by decide +kernel

theorem test_decode_09 : reads [
    (0x25DDF1C9, .sltni 29 27 true 12745)] = true := by decide +kernel

theorem test_decode_0A : reads [
    (0x28605985, .movi 3 22917)] = true := by decide +kernel

theorem test_decode_0B : reads [
    (0x2CC0609A, .adr 6 24730)] = true := by decide +kernel

theorem test_decode_0D : reads [
    (0x352067AF, .fmovi 9 26543)] = true := by decide +kernel

theorem test_decode_0E : reads [
    (0x39806EC4, .faddi 12 28356)] = true := by decide +kernel

theorem test_decode_0F : reads [
    (0x3DE075D9, .fmuli 15 30169)] = true := by decide +kernel

theorem test_decode_10_a : reads [
    (0x41270680, .fadd 18 14 1 true false true),
    (0x4151FA81, .fsub 21 3 30 true false true),
    (0x418C4882, .fmul 24 24 18 false false true),
    (0x41BC4103, .fdiv 27 24 16 false true false),
    (0x41E68084, .fsqrt 30 13 false true),
    (0x40115985, .fma 1 2 22 false true true),
    (0x404BD086, .fmin 4 23 20 false false true),
    (0x40761E87, .fmax 7 12 7 true false true),
    (0x40A08288, .fneg 10 1 true true),
    (0x40DB0209, .fabs 13 22 true false),
    (0x4105AF8A, .feq 16 11 11 true true true),
    (0x41307B8B, .flt 19 0 30 true true true)] = true := by decide +kernel

theorem test_decode_10_b : reads [
    (0x416AF08C, .fle 22 21 28 false false true),
    (0x4195008D, .fclass 25 10 false true),
    (0x41CF028E, .fcvti 28 30 true true),
    (0x41EA020F, .fcvtf 30 20 true false),
    (0x40248010, .fcvtp 2 9 false false),
    (0x405F0291, .fcvtit 5 30 true true)] = true := by decide +kernel

theorem test_decode_11 : reads [
    (0x45134400, .fmak 8 19 68),
    (0x4568D701, .faddk 11 8 215),
    (0x45DD6A02, .fmulk 14 29 106),
    (0x4620D203, .movk 17 210)] = true := by decide +kernel

theorem test_decode_12 : reads [
    (0x4A8752F1, .br 20 7 .lt 4849)] = true := by decide +kernel

theorem test_decode_13 : reads [
    (0x4C0052B7, .j 21175)] = true := by decide +kernel

theorem test_decode_14 : reads [
    (0x5340033C, .jal 26 828)] = true := by decide +kernel

theorem test_decode_15 : reads [
    (0x54000000, .jr 0 false),
    (0x543D8201, .jalr 3 27 true),
    (0x54000002, .ret),
    (0x54000003, .align),
    (0x54000004, .endact),
    (0x54000005, .yield),
    (0x54000006, .trigger),
    (0x555CE307, .resume 21 25 24 true true)] = true := by decide +kernel

theorem test_decode_16 : reads [
    (0x5B633800, .rep 216 6 3 4)] = true := by decide +kernel

theorem test_decode_17 : reads [
    (0x5FA00A51, .callc 29 2641)] = true := by decide +kernel

theorem test_decode_18 : reads [
    (0x600DD3C7, .ld false 0 27 .own .s8 true 455)] = true := by decide +kernel

theorem test_decode_19 : reads [
    (0x675CA28A, .st true 21 25 .inv .u8 true 138)] = true := by decide +kernel

theorem test_decode_1A : reads [
    (0x68A62106, .ldx false 10 12 8 false true .self .s32),
    (0x6BEF0E33, .stx true 30 30 3 true false .own .u64),
    (0x694E8259, .ldacq false 20 29 true .thru .u16),
    (0x6A04C378, .strel true 9 16 true true .thru .u8)] = true := by decide +kernel

theorem test_decode_1B : reads [
    (0x6CD098E0, .aadd 13 1 6 false false true .ar),
    (0x6D0B12C1, .aand 16 22 4 true false true .rel),
    (0x6D35DE02, .aor 19 11 23 true false false .rlx),
    (0x6D602963, .axor 22 0 10 false true false .ar),
    (0x6D9021C4, .amin 25 0 8 false true true .rel),
    (0x6DCAEFA5, .amax 28 21 27 true true true .acq),
    (0x6DE53886, .aminn 30 10 14 false false true .rlx),
    (0x6C2F3047, .amaxn 2 30 12 false false false .rel),
    (0x6C5A7A28, .aswap 5 20 30 true false false .acq),
    (0x6C84C989, .acas 8 9 18 false true true .rlx),
    (0x6CBF416A, .afadd 11 30 16 false true .ar)] = true := by decide +kernel

theorem test_decode_1C : reads [
    (0x70000400, .fence .core .acquire),
    (0x70010001, .acq .die),
    (0x70020002, .rel .domain),
    (0x700B8003, .clean 23 false),
    (0x700D0204, .drop 26 true),
    (0x700E8A05, .pref 29 .own true),
    (0x7008AD06, .spmap 0 17 11 false true),
    (0x70330007, .spunmap 3 6 false),
    (0x706DF008, .waitc 6 27 28 false false),
    (0x70980009, .testc 9 16 false)] = true := by decide +kernel

theorem test_decode_1D : reads [
    (0x74C2B700, .ecat 12 5 13 true true),
    (0x74FD0101, .efilt 15 26 0 false true),
    (0x7527CD02, .efiltx 18 15 19 false true),
    (0x740ABD03, .ereb 21 15 false true),
    (0x740C1304, .eapply 24 4 true true),
    (0x740DE405, .eapplyO 27 25 false false),
    (0x740F0006, .edrop 30 false),
    (0x7411A307, .einfo 1 3 8 true true),
    (0x744C6C08, .espill 4 24 27 false false),
    (0x74768009, .eload 7 13 false),
    (0x74A1020A, .callcr 10 2 true)] = true := by decide +kernel

theorem test_decode_1E : reads [
    (0x78DBF900, .send 13 23 30 false true),
    (0x79067501, .sendr 16 12 29 false true),
    (0x7930C302, .tsend 19 1 16 true true),
    (0x796B0C03, .put 22 22 3 false false),
    (0x79958404, .puth 25 11 1 false false),
    (0x79C00205, .recv 28 0 true),
    (0x79EA8006, .msgfree 30 21 false),
    (0x78251507, .chstat 2 10 5 false true),
    (0x785F0208, .alloc 5 30 true),
    (0x78045109, .free 8 20 false true),
    (0x78B4A40A, .copy 11 9 9 false false),
    (0x78EF720B, .copys 14 30 28 true false)] = true := by decide +kernel

theorem test_decode_1F : reads [
    (0x7D19BF00, .ginfo 17 19 15 true true),
    (0x7DE9B501, .gmcast 30 19 13 false true),
    (0x7C240102, .gred 2 8 0 false true),
    (0x7C5ECE03, .gset 5 29 19 true false),
    (0x7C894404, .barcfg 8 18 17 false false),
    (0x7CB38205, .bararr 11 7 true),
    (0x7CEE0006, .barwait 14 28 false),
    (0x7D188007, .bararw 17 17 false),
    (0x7D432108, .barq 20 6 8 false true)] = true := by decide +kernel

theorem test_decode_20_a : reads [
    (0x82FBDD00, .vadd 23 27 27 5),
    (0x8350CB01, .vsub 26 16 25 3),
    (0x83A56602, .vmul 29 5 12 6),
    (0x801AF103, .vmin 0 26 30 1),
    (0x806FEF04, .vmax 3 15 29 7),
    (0x80C48205, .vminn 6 4 16 2),
    (0x81391D06, .vmaxn 9 25 3 5),
    (0x818E0B07, .vand 12 14 1 3),
    (0x81E3A608, .vor 15 3 20 6),
    (0x82589409, .vxor 18 24 18 4),
    (0x82AD2F0A, .vsll 21 13 5 7),
    (0x8302C20B, .vsrl 24 2 24 2)] = true := by decide +kernel

theorem test_decode_20_b : reads [
    (0x8362B00C, .vsra 27 2 22 0),
    (0x80D74B0D, .vcmpeq 6 23 9 3),
    (0x802CE60E, .vcmplt 1 12 28 6),
    (0x8081D40F, .vcmpltn 4 1 26 4)] = true := by decide +kernel

theorem test_decode_21 : reads [
    (0x84F66F00, .vfadd 7 22 13 7),
    (0x854B0501, .vfsub 10 11 0 5),
    (0x85A0F002, .vfmul 13 0 30 0),
    (0x86158B03, .vffma 16 21 17 3),
    (0x866A2104, .vfmin 19 10 4 1),
    (0x86DE1405, .vfmax 22 30 2 4),
    (0x87340506, .vfneg 25 20 5),
    (0x87890007, .vfabs 28 9 0),
    (0x84FE3008, .vfeq 7 30 6 0),
    (0x8453CE09, .vflt 2 19 25 6),
    (0x84A8610A, .vfle 5 8 12 1),
    (0x851D540B, .vfdiv 8 29 10 4)] = true := by decide +kernel

theorem test_decode_22 : reads [
    (0x89720500, .vexp2 11 18 5),
    (0x89C70001, .vlog2 14 7 0),
    (0x8A3C0602, .vrcp 17 28 6),
    (0x8A910103, .vrsqrt 20 17 1)] = true := by decide +kernel

theorem test_decode_23_a : reads [
    (0x8EE60400, .vbcast 23 6 4),
    (0x8F469001, .vext 26 6 18),
    (0x8FA00302, .vidx 29 3),
    (0x8C10C503, .vsel 0 16 24 5),
    (0x8C65B304, .vperm 3 5 22 3),
    (0x8CDA0105, .vcvtfi 6 26 1),
    (0x8D2F0406, .vcvtif 9 15 4),
    (0x8D840207, .vrsum 12 4 2),
    (0x8DF90508, .vfrsum 15 25 5),
    (0x8E4E0009, .vfrmax 18 14 0),
    (0x8CA3300A, .mand 5 3 6),
    (0x8C00080B, .mor 0 0 1)] = true := by decide +kernel

theorem test_decode_23_b : reads [
    (0x8C65000C, .mnot 3 5),
    (0x8FC2000D, .mpop 30 2),
    (0x8C37000E, .mset 1 23)] = true := by decide +kernel

theorem test_decode_24 : reads [
    (0x9292B661, .vld true 9 5 13 .own 3 true),
    (0x91E1A0E4, .vst false 30 3 8 .self 7 false),
    (0x933B3B09, .vlds true 19 22 14 .thru 0 true),
    (0x9084A58D, .vsts false 8 9 9 .inv 4 true),
    (0x93D38290, .vgath true 29 7 .own 4 false false),
    (0x912D01F5, .vscat false 18 26 .inv 7 true),
    (0x92769419, .vldl true 7 13 5 0 true),
    (0x9075ACDC, .vstl false 7 11 11 6 false)] = true := by decide +kernel

theorem test_decode_25 : reads [
    (0x95CF0000, .vclaim 28 30 false),
    (0x94000001, .vrel),
    (0x94200002, .vlen 2)] = true := by decide +kernel

theorem test_decode_26 : reads [
    (0x98000000, .mzero false),
    (0x98089901, .mweave 8 19 false true),
    (0x9968B002, .mweaves 11 8 22 false false),
    (0x99DD0103, .mread 14 29 false .bf),
    (0x9A323804, .bload 17 18 7),
    (0x9A870005, .mstat 20 7),
    (0x98170006, .msave 23 false),
    (0x981A0407, .mrestore 26 true)] = true := by decide +kernel

theorem test_decode_27 : reads [
    (0x9FA0B660, .crr 29 2918),
    (0x9C0027B1, .crw 0 635),
    (0x9C030902, .ecall 3 144),
    (0x9C000003, .eret),
    (0x9C000894, .trapi 137),
    (0x9D8F0005, .tlbi 12 15),
    (0x9DE40006, .gstop 15 4),
    (0x9E590007, .gresume 18 25),
    (0x9EB90008, .dict 21 25),
    (0x9F0E0009, .kload 24 14),
    (0x9F63000A, .pwrset 27 3),
    (0x9FD8000B, .killcore 30 24)] = true := by decide +kernel

theorem test_decode_28 : reads [
    (0xA016BA00, .foffer 1 13 14 true false),
    (0xA0410501, .faccept 4 2 1 false true),
    (0xA07BF902, .flend 7 23 30 false true),
    (0xA0A64A03, .frecall 10 12 18 true false),
    (0xA0D09404, .freturn 13 1 5 false false),
    (0xA10B0C05, .fquery 16 22 3 false false)] = true := by decide +kernel

theorem test_decode_29 : reads [
    (0xA6DB4726, .paddi true 13 22 true 1830)] = true := by decide +kernel
/-! ## Witnesses: states and operands that meet the hypotheses of the statements, clause by clause -/

/-- A state in which thread 0 of core 8 (cluster 1, die 0) issues, the thread made as asked. -/
def base (f : Thread → Thread) : State :=
  { State.reset.setThread 64 (f { Thread.fresh 64 with st := .runnable, pc := 0x1000 }) with run := { cur := 64 } }

/-- A thread with a register set. -/
def gr (r : Reg) (v : Word) (t : Thread) : Thread := t.setReg r v

/-- A state in which thread 0 of the device-kernel core of die 0 issues, in KERNEL mode. -/
def kern (f : Thread → Thread) : State :=
  { State.reset.setThread 0 (f { Thread.fresh 0 with st := .runnable, pc := 0x1000 }) with run := { cur := 0 } }

/-- Whether a meaning completes with a value and a state of a kind. -/
def completes {α : Type} (m : M α) (s : State) (p : α → State → Bool) : Bool :=
  match m s with | .ok a t => p a t | .error _ _ => false

theorem witness_IntegerResults : quiet (base (gr 5 7)) ∧ full (base (gr 5 7)) 5 ∧ full (base (gr 5 7)) 6 ∧
    full (base (gr 5 7)) 7 ∧ g (base (gr 5 7)) 5 = 7 ∧ g (base (gr 5 7)) 6 = 0 := by decide +kernel

theorem witness_ImmediateResults : quiet (base (gr 31 7)) ∧ full (base (gr 31 7)) 31 ∧ full (base (gr 31 7)) 0 := by
  decide +kernel

def fpState (fpc : Word) : State :=
  base fun t => gr 5 0x3F800000 (gr 6 0 { t with ctl := { t.ctl with fpc := fpc } })

theorem witness_FloatResults :
    (fpOf (fpState 0) (.fdiv 7 5 6 false false false)).map (fun x => (x.1, x.2.1, x.2.2.2 &&& enables (fpState 0)))
      = some (4, 7, 0) ∧
    (∀ q ∈ fpReads (.fdiv 7 5 6 false false false), full (fpState 0) q) ∧ free (fpState 0) 7 ∧ quiet (fpState 0) := by decide +kernel

/-- 1.0 / 0.0 with the divide-by-zero flag enabled, in USER mode. -/
theorem witness_FloatExceptions_park :
    ((fpOf (fpState 0x20) (.fdiv 7 5 6 false false false)).any fun x => x.2.2.2 &&& enables (fpState 0x20) != 0) = true ∧
    (∀ q ∈ fpReads (.fdiv 7 5 6 false false false), full (fpState 0x20) q) ∧ free (fpState 0x20) 7 ∧ quiet (fpState 0x20) ∧
    localVector (fpState 0x20).run.cur (cur (fpState 0x20)) = false := by decide +kernel

def fpKernel : State :=
  kern fun t => gr 5 0x3F800000 { t with ctl := { t.ctl with fpc := 0x20 }, kern := { t.kern with kvec := 0x2000 } }

theorem witness_FloatExceptions_vector :
    ((fpOf fpKernel (.fdiv 7 5 6 false false false)).any fun x => x.2.2.2 &&& enables fpKernel != 0) = true ∧
    (∀ q ∈ fpReads (.fdiv 7 5 6 false false false), full fpKernel q) ∧ free fpKernel 7 ∧ quiet fpKernel ∧
    localVector fpKernel.run.cur (cur fpKernel) = true ∧ (cur fpKernel).kern.kvec ≠ 0 ∧
    (cur fpKernel).kern.kvec.getLsbD 0 = false := by decide +kernel

theorem witness_JumpResults :
    quiet (base (gr 5 6)) ∧ full (base (gr 5 6)) 5 ∧ g (base (gr 5 6)) 5 = g (base (gr 5 6)) 5 ∧
    ¬ g (base (gr 5 6)) 5 = g (base (gr 5 6)) 0 ∧ (g (base (gr 5 6)) 5).getLsbD 0 = false ∧
    ¬ full (base fun t => { t with empty := 32 }) 5 ∧ full (base fun t => { t with empty := 32 }) 6 ∧
    full (base (gr 5 0x41)) 5 ∧ (g (base (gr 5 0x41)) 5).getLsbD 0 = true ∧ (base (gr 5 0x41)).allocating 64 = false ∧
    localVector 64 (cur (base (gr 5 0x41))) = false := by decide +kernel

def deep (n : Nat) : State :=
  base fun t => gr 5 0x2000 { t with rstack := List.replicate n 0x40, ctl := { t.ctl with rsptr := 0xF000000000100 } }

/-- Seven entries and eight: the boundary of the on-chip stack; the spill goes to the scratchpad. -/
theorem witness_CallResults :
    quiet (deep 7) ∧ full (deep 7) 5 ∧ full (deep 7) 1 ∧ (cur (deep 7)).rstack.length < 8 ∧
    (g (deep 7) 5).getLsbD 0 = false ∧
    completes (push 0x44) (deep 8) (fun _ t => t.run.cur == 64 && decide (quiet t)) = true ∧
    (cur (deep 8)).rstack = List.replicate 7 0x40 ++ [0x40] ∧ (cur (deep 8)).ctl.rsptr.toNat % 8 = 0 ∧
    completes (spillStore ((cur (deep 8)).ctl.rsptr - 8).toNat 0x40) (deep 8) (fun _ t =>
      t.run.cur == 64 && (cur t).rstack == (cur (deep 8)).rstack && (cur t).ctl == (cur (deep 8)).ctl) = true := by
  decide +kernel

/-- A collecting call with no list, and one below the depth of 4 with descriptor 0 in use. -/
def collectingState (n : Nat) : State :=
  let s := deep 0
  let s := s.setCluster 1 { s.cluster 1 with descrs := (List.range n).map fun i => (i, { list := some { owner := 8 } }) }
  s.setThread 64 { s.thread 64 with lists := List.range n }

theorem witness_CallResults_collecting :
    quiet (collectingState 3) ∧ full (collectingState 3) 5 ∧ isHub 8 = false ∧ (cur (collectingState 3)).lists.length < 4 ∧
    (cur (collectingState 3)).rstack.length < 8 ∧ (cluster (collectingState 3)).list? 3 = none ∧
    (∀ m, m < 3 → ((cluster (collectingState 3)).list? m).isSome = true) ∧
    (g (collectingState 3) 5).getLsbD 0 = false := by decide +kernel

def returning (stack : List Word) (spilled : Nat) : State :=
  let s := collectingState 1
  s.setThread 64 { s.thread 64 with
    rstack := stack, lists := [0], ctl := { (s.thread 64).ctl with spilled := BitVec.ofNat 16 spilled } }

theorem witness_ReturnResults :
    quiet (returning [0x40] 0) ∧ (cur (returning [0x40] 0)).rstack = [0x40] ∧ (0x40 : Word).getLsbD 63 = false ∧
    (cur (returning [0x8000000000000040] 0)).rstack = [0x8000000000000040] ∧
    (0x8000000000000040 : Word).getLsbD 63 = true ∧ full (returning [0x8000000000000040] 0) 3 ∧
    (cur (returning [0x8000000000000040] 0)).lists = [] ++ [0] ∧
    (cluster (returning [0x8000000000000040] 0)).list? 0 = some { owner := 8 } ∧
    (cur (returning [] 0)).rstack = [] ∧ (cur (returning [] 0)).ctl.spilled = 0 ∧
    (cur (returning [] 1)).ctl.spilled ≠ 0 ∧
    completes (fillLoad (cur (returning [] 1)).ctl.rsptr.toNat) (returning [] 1) (fun x t =>
      t.run.cur == 64 && decide (quiet t) && decide (x.toNat / 2 ^ 52 = 0) && !x.getLsbD 0) = true := by
  decide +kernel

/-- A launch holds cores 8 and 9, and thread 0 of core 9 runs. -/
def aligned (a : Option Nat) (two : Bool) : State :=
  let s := base fun t => { t with alignAt := a }
  let s := { s with launches := [(0, { ctx := 1, die := 0, queue := 512, record := 0 })] }
  let s := s.setCore 8 { s.core 8 with held := some (0, 0) }
  if two then (s.setCore 9 { s.core 9 with held := some (0, 0) }).setThread 72 { Thread.fresh 72 with st := .runnable } else s

theorem witness_ActivationControl :
    quiet (aligned none true) ∧ (cur (aligned none false)).alignAt = none ∧ alignMet (aligned none false) 64 = true ∧
    (cur (aligned (some 0) true)).alignAt.isSome = true ∧ alignMet (aligned none true) 64 = false ∧
    (cur (aligned none true)).lists = [] ∧ (aligned none true).allocating 64 = false ∧
    completes (do modThread 64 Thread.settle; release 64 .package) (aligned none true) (fun _ t =>
      t.run.cur == 64 && decide (quiet t)) = true := by decide +kernel

theorem witness_EmptyRegisters :
    let s := base fun t => { t with empty := 0b100000 }
    quiet s ∧ ¬ full s 5 ∧ full s 6 ∧ full s 31 := by decide +kernel

/-- A source whose latest result the other pipe gave, for an instruction of either pipe; the oracle reads it at once, or late. -/
theorem witness_EmptyRegisters_crossing :
    let s := base fun t => { t with fromAccess := 0b100000, fromExecute := 0b1000000 }
    let late := { s with run := { s.run with oracle := [1] } }
    quiet s ∧ free s 5 ∧ free s 6 ∧ free s 4 ∧ quiet late ∧ s.run.oracle.headD 0 % 2 = 0 ∧ late.run.oracle.headD 0 % 2 = 1 ∧
    (((cur s).crosses false 5 = true ∧ (cur s).crosses true 6 = true) ∨
     ((cur s).crosses true 5 = true ∧ (cur s).crosses false 6 = true)) ∧
    late.allocating 64 = false ∧ localVector 64 (cur late) = false := by decide +kernel

def scratchState : State := base fun t => gr 5 0xF000000000040 (gr 6 8 (gr 7 0x1122334455667788 t))

/-- Offset 0x40, offset 0x48, and the last doubleword of the scratchpad. -/
theorem witness_LocalAccesses :
    quiet scratchState ∧ full scratchState 5 ∧ full scratchState 6 ∧ full scratchState 7 ∧ noRemote scratchState ∧
    (cur scratchState).lists = [] ∧ mAddr (g scratchState 5) 0 8 % 8 = 0 ∧
    localPlace scratchState (mAddr (g scratchState 5) 0 8) 8 false = some (placeScratch 8 0x40, 0) ∧
    localPlace scratchState (mAddr (g scratchState 5) 0 8) 8 true = some (placeScratch 8 0x40, 0) ∧
    localPlace scratchState (((g scratchState 5).toNat + (g scratchState 6).toNat) % 2 ^ 52) 8 true
      = some (placeScratch 8 0x48, 0) ∧
    localPlace scratchState 0xF00000000FFF8 8 true = some (placeScratch 8 0xFFF8, 0) ∧
    localPlace scratchState 0xF00000000FFFC 8 true = none ∧ scratchState.badLocal = [] ∧ scratchState.latentLocal = [] ∧
    completes (acquire 64 (regionScopeOf 0)) scratchState (fun _ t =>
      t.run.cur == 64 && decide (quiet t) && decide (noRemote t)) = true ∧
    completes (release 64 (regionScopeOf 0)) scratchState (fun _ t =>
      t.run.cur == 64 && decide (quiet t) && decide (noRemote t)) = true := by decide +kernel

/-- AccessesAreCarried: the scratchpad load and store complete. -/
theorem witness_AccessesAreCarried :
    quiet scratchState ∧ full scratchState 5 ∧
    completes (loadScalar 0xF000000000040 8 .self false 0) scratchState (fun _ t =>
      t.run.cur == 64 && decide (quiet t)) = true ∧
    completes (storeScalar 0xF000000000040 8 .self 1 false 0) scratchState (fun _ t =>
      t.run.cur == 64 && decide (quiet t)) = true ∧
    completes (Machine.atomic 0xF000000000040 ⟨9, true, 1, 2⟩ .ar) scratchState (fun _ t =>
      t.run.cur == 64 && decide (quiet t)) = true := by decide +kernel

/-- A SELF line of the core, all of it valid. -/
def lineState : State :=
  let s := base fun t => gr 5 0x2000_0000_0040 (gr 7 0x11 t)
  let l : L1Line :=
    { vline := 0x80_0000_0001, space := .ctx 0, home := .here 4, kind := .self, valid := BitVec.allOnes 64, dirty := 0,
      reg := 0, data := 0x77, w := true, k := false, trace := false }
  let s := s.setCore 8 { s.core 8 with l1 := [l] }
  { s with boot := { s.boot with rdymem := 0xFFF } }

theorem witness_SelfHitsStayInL1 :
    quiet lineState ∧ full lineState 5 ∧ full lineState 7 ∧ noRemote lineState ∧ (cur lineState).lists = [] ∧
    (let va := mAddr (g lineState 5) 0 8
     ((lineState.core 8).line? (va / 64) (viewOf 64 (cur lineState)).space).any (fun l =>
       l.home == .here 4 && byteMask (va % 64) 8 &&& ~~~l.valid == 0 && !l.k && l.w) = true ∧
     isLocal va = false ∧ va % 8 = 0) ∧
    lineState.waiting (fun r => r.issued && r.src.who == 8 && r.pline == lineState.redirect 4) = [] ∧
    lineState.cutOff 8 (homeDie 4) = false ∧ lineState.hasMemory (4 * 64) = true ∧ (lineState.core 8).l1.length ≤ 512 := by
  decide +kernel

theorem witness_Fences :
    quiet (base id) ∧ (cur (base id)).lists = [] ∧ (cur (collectingState 1)).lists ≠ [] ∧
    completes (acquire 64 .package) lineState (fun _ t => t.run.cur == 64 && decide (quiet t)) = true ∧
    completes (release 64 .package) lineState (fun _ t => t.run.cur == 64 && decide (quiet t)) = true ∧
    completes (acquire 64 .core) lineState (fun _ t => decide (t = lineState)) = true := by decide +kernel

/-- CLEAN and DROP of an address whose line the L1 holds, and of one that it does not. -/
theorem witness_CacheControl :
    quiet lineState ∧ full lineState 5 ∧ isLocal ((g lineState 5).toNat % 2 ^ 52) = false ∧
    ((lineState.core 8).line? ((g lineState 5).toNat % 2 ^ 52 / 64) (viewOf 64 (cur lineState)).space).isSome = true ∧
    ((lineState.core 8).line? ((g lineState 7).toNat % 2 ^ 52 / 64) (viewOf 64 (cur lineState)).space) = none ∧
    (((lineState.core 8).line? ((g lineState 5).toNat % 2 ^ 52 / 64) (viewOf 64 (cur lineState)).space).any fun x =>
      completes (cleanHeld x) lineState fun _ t => t.run.cur == 64 && decide (quiet t)) = true := by decide +kernel

/-- SPMAP of a scratchpad word to a global one on a kernel core without tables. -/
def mapState (n : Nat) : State :=
  let s := kern fun t => gr 5 0xF000000000000 (gr 6 0x10000 (gr 7 64 t))
  let s := { s with
    boot := { s.boot with rdymem := 0xFFF, rdycore := 0x1FF }
    fcu := { s.fcu with records := [(0, { st := .owned, owner := some .device })] } }
  s.setCore 0 { s.core 0 with maps := (List.range n).map fun i =>
    { ctx := 0, localVa := 0xF000000001000 + 64 * i, place := placeScratch 0 (0x1000 + 64 * i), len := 64,
      globalVa := 0x20000 + 64 * i, plines := [] } }

def mapOps (s : State) : Option (Nat × Nat × Nat) :=
  mapOperands (viewOf 0 (cur s)) (cur s).vec (s.core 0).regs (g s 5) (g s 6) (g s 7)

/-- Operands that are none, a clash, a full table, and a free one whose homes can hold the pins. -/
theorem witness_Mappings :
    quiet (mapState 0) ∧ full (mapState 0) 5 ∧ full (mapState 0) 6 ∧ full (mapState 0) 7 ∧ full (mapState 0) 8 ∧
    (cur (mapState 0)).lists = [] ∧
    completes (release 0 .package) (mapState 0) (fun _ t => t.run.cur == 0 && decide (t = mapState 0)) = true ∧
    (mapOps (mapState 0)).isSome = true ∧
    mapOps ((mapState 0).setThread 0 (gr 7 0 ((mapState 0).thread 0))) = none ∧
    ((mapOps (mapState 0)).any fun p => ((mapState 8).core 0).maps.any fun m =>
      m.ctx == 0 && (overlap m.place m.len p.1 p.2.1 || overlap m.globalVa m.len p.2.2 p.2.1)) = false ∧
    ((mapState 8).core 0).maps.length = 8 ∧
    ((mapOps (mapState 0)).any fun p =>
      completes (mapHomes (viewOf 0 (cur (mapState 0))) false (pieces p.2.2 p.2.1)) (mapState 0) fun hs s2 =>
        completes (recallHomes 0 p.1 false hs) s2 fun _ s3 =>
        completes (pinHomes 0 p.1 hs) s3 fun m s4 => m == hs.length && s4.run.cur == 0 &&
          completes (acquire 0 .package) s4 fun _ t => t.run.cur == 0 && decide (quiet t)) = true := by decide +kernel

/-- SPUNMAP where no mapping starts at the address, where one does, and where it was evicted. -/
theorem witness_Mappings_unmap :
    (((mapState 0).core 0).maps.find? fun m => m.ctx == 0 && m.localVa == 0xF000000001000) = none ∧
    (((mapState 1).core 0).maps.find? fun m => m.ctx == 0 && m.localVa == 0xF000000001000).isSome = true ∧
    (((mapState 1).core 0).maps.all fun m => !m.evicted && completes (m.release 0) (mapState 1) fun _ t =>
      t.run.cur == 0 && completes (acquire 0 .package) t fun _ u => u.run.cur == 0 && decide (quiet u)) = true := by
  decide +kernel

def objectState (w : Word) : State :=
  let s := base fun t => gr 5 0xF000000000100 (gr 6 3 t)
  { s with mem := s.mem.setBytes (placeScratch 8 0x100) (leBytes 8 w.toNat) }

/-- The count one below its target, and at it. -/
theorem witness_WaitResults :
    quiet (objectState 3) ∧ full (objectState 3) 5 ∧ full (objectState 3) 6 ∧ full (objectState 3) 7 ∧
    met 3 (g (objectState 3) 6) ∧ ¬ met 2 (g (objectState 3) 6) ∧
    completes (readObject 0xF000000000100) (objectState 3) (fun r t =>
      r.1 == 3 && t.run.cur == 64 && decide (quiet t) &&
      completes (acquire 64 r.2.scope) t fun _ u => u.run.cur == 64 && decide (quiet u)) = true ∧
    completes (readObject 0xF000000000100) (objectState 2) (fun r t =>
      r.1 == 2 && t.run.cur == 64 && decide (quiet t) && (waitPlace t r.2).isSome) = true := by decide +kernel

/-- A store entry of eight bytes at an address. -/
def entry8 (va : Nat) : Entry := { word := BitVec.ofNat 128 va }

/-- Two whole closed lists of core 8, and a third that is full of nothing. -/
def listState (st : ListState) : State :=
  let s := base fun t => gr 5 (0x1_0001_0000) (gr 6 0x1000 (gr 7 0x2000 (gr 8 0x1_0001_0001 t)))
  s.setCluster 1 { s.cluster 1 with descrs :=
    [(0, { gen := 1, list := some { st := st, owner := 8, entries := [entry8 0x1008, entry8 0x3000] } }),
     (1, { gen := 1, list := some { st := .closed, owner := 8, entries := [entry8 0x40] } })] }

theorem witness_ListResults :
    quiet (listState .closed) ∧ full (listState .closed) 5 ∧ full (listState .closed) 6 ∧ full (listState .closed) 7 ∧
    completes (resolveHandle (g (listState .closed) 5)) (listState .closed) (fun r t =>
      r == some (.list 0) && decide (t = listState .closed)) = true ∧
    completes (resolveHandle (g (listState .closed) 8)) (listState .closed) (fun r t =>
      r == some (.list 1) && decide (t = listState .closed)) = true ∧
    ((cluster (listState .closed)).list? 0).any (fun l => l.st == .closed && l.image.isNone && l.owner == 8 &&
      l.entries.all fun t => t.kind != .send && !isLocal ((t.va + (g (listState .closed) 6).toInt).toNat)) = true ∧
    (g (listState .closed) 6).toNat % 8 = 0 ∧ (g (listState .closed) 7).toNat % 8 = 0 ∧
    (g (listState .closed) 6).toNat % 2 ^ 52 ≤ (g (listState .closed) 7).toNat ∧
    (g (listState .closed) 6).toInt % 8 = 0 := by decide +kernel

def imageState : State :=
  let s := mapState 0
  let s := s.setThread 0 (gr 5 0x8000000000010000 (gr 6 0x10000 (s.thread 0)))
  s

theorem witness_ListImages :
    noRemote (listState .closed) ∧ g (listState .closed) 0 = 0 ∧
    g ((listState .closed).setThread 64 (gr 9 1 ((listState .closed).thread 64))) 9 = 1 ∧
    (g (listState .closed) 6).toNat % 64 = 0 ∧ isLocal ((g (listState .closed) 6).toNat % 2 ^ 52) = false ∧
    completes (resolveHandle (g imageState 5)) imageState (fun r t =>
      r == some (.image 0x10000) && decide (t = imageState)) = true := by decide +kernel

/-- ESPILL's own access completes on a kernel core that owns the list. -/
theorem witness_ListImages_spill :
    (let s := imageState.setCluster 0 { imageState.cluster 0 with descrs :=
        [(0, { gen := 1, list := some { st := .closed, owner := 0, entries := [entry8 0x1008] } })] }
     completes (do let image := imageBytes [entry8 0x1008] 0 0
                   writeVa (← threadAgent) 0x10000 image (accessInfo 3 true false 3 false false)
                   modMyList 0 (spilledTo 0x10000)) s fun _ t => t.run.cur == 0 && decide (quiet t)) = true := by
  decide +kernel

def forkState (d z : Word) : State :=
  base fun t => gr 4 d (gr 5 0xF000000000000 (gr 6 0xF000000000800 (gr 7 z t)))

theorem witness_EngineForks :
    quiet (forkState 0x4100 64) ∧ full (forkState 0x4100 64) 4 ∧
    (cur (forkState 0x4100 64)).lists = [] ∧ (g (forkState 0x4100 64) 7).toNat < 2 ^ 32 ∧
    completes (checkObject (g (forkState 0x4100 64) 4)) (forkState 0x4100 64) (fun o t =>
      o == 0x4100 && decide (t = forkState 0x4100 64) &&
      completes (objectRelease o) t fun _ u => u.run.cur == 64 && decide (quiet u)) = true ∧
    completes (checkRange 0xF000000000000 64 false) (forkState 0x4100 64) (fun _ t =>
      decide (t = forkState 0x4100 64)) = true ∧
    completes (checkRange 0xF000000000800 64 true) (forkState 0x4100 64) (fun _ t =>
      decide (t = forkState 0x4100 64)) = true ∧
    completes (release 64 .die) (forkState 0x4100 64) (fun _ t => t.run.cur == 64 && decide (quiet t)) = true ∧
    (g (forkState 0 64) 7).toNat ≠ 0 ∧ (g (forkState 0 65536) 7).toNat ≤ 65536 ∧
    (g (forkState 0x4000 64) 4).toNat % 2 ^ 52 % (64 * 2 ^ sizeClass 64) = 0 := by decide +kernel


/-! Messages and engines -/

/-- Core 8 sends to itself on channel 5 of die 0, of class 2, with slots of 64 bytes, through endpoint 3. -/
def chanState (st : ChanState) (ord : Bool) (y : Word) (used : List Nat) : State :=
  let s := base fun t => gr 5 0xF000000000040 (gr 6 y (gr 7 2 (gr 8 3 t)))
  let s := s.setDie 0 { s.die 0 with chans := [(5,
    { st := st, receiver := 8, cls := 2, allow := 4, size := 64, pool := 0x4000, ord := ord, used := used })] }
  s.setCore 8 { s.core 8 with inbox := { (s.core 8).inbox with
    eps := [(3, { chan := some (0, 5), lastts := 7, isOpen := true })] } }

def sendsWith (kind : SendKind) (ord : Bool) (y : Word) (m : Nat) : Bool :=
  let s := chanState .open ord y []
  decide (quiet s) && decide (full s 5 ∧ full s 6 ∧ full s 4) && decide (noRemote s) && (cur s).lists.isEmpty &&
  completes (checkSend kind (g s 6)) s (fun r t => r == (3, 0, 5) && decide (t = s)) &&
  completes (checkPayload ((g s 5).toNat % 2 ^ 52) ((g s 6).toNat / 2 ^ 16 % 2 ^ 16)) s (fun _ t => decide (t = s)) &&
  completes (release 64 .package) s (fun _ s1 => s1.run.cur == 64 && ((s1.core 8).ep 3).isOpen &&
    completes (takeSlot 0 5 64) s1 fun i s2 => i.isSome && s2.run.cur == 64 &&
      (kind == .sendr || completes (readVa ⟨64, viewOf 64 (cur s2), (cur s2).vec, false⟩ ((g s 5).toNat % 2 ^ 52) m
        (accessInfo 0 false false 3 false false)) s2 fun bs t => bs.length == m && t.run.cur == 64 && decide (quiet t) &&
          decide (noRemote t) && (t.channel 0 5).ord == ord))

/-- A SEND of 16 bytes and one of 100, cut to 64; a SENDR of 8 bytes; a TSEND whose timestamp is LASTTS. -/
theorem witness_SendResults :
    sendsWith .send false 0x100003 16 = true ∧ sendsWith .send false 0x640003 64 = true ∧
    sendsWith .sendr false 0x80003 8 = true ∧ sendsWith .tsend true 0x700100003 16 = true := by decide +kernel

def refusedSend (st : ChanState) (used : List Nat) : Bool :=
  let s := chanState st false 0x80003 used
  decide (quiet s) && decide (full s 5 ∧ full s 6 ∧ full s 4) && decide (noRemote s) && (cur s).lists.isEmpty &&
  completes (checkSend .sendr (g s 6)) s (fun r t => r == (3, 0, 5) && decide (t = s)) && (s.channel 0 5).remote.isNone &&
  completes (release 64 .package) s (fun _ s1 => s1.run.cur == 64 && ((s1.core 8).ep 3).isOpen && decide (quiet s1) &&
    decide (noRemote s1) && (st != .open ||
      completes (takeSlot 0 5 64) s1 fun i s2 => i.isNone && s2.run.cur == 64 && decide (noRemote s2)))

theorem witness_SendStatuses :
    refusedSend .draining [0] = true ∧ refusedSend .closed [] = true ∧ refusedSend .error [] = true ∧
    refusedSend .sealed [] = true ∧ refusedSend .open [0, 1, 2, 3] = true := by decide +kernel

/-- A message of class 2 waits at core 8 in the system pool. -/
def waiting (held : Bool) : State :=
  let s := chanState .open false 0x4000 []
  let p : Pending := { slot := ⟨0x4000, 64, some 5, 2⟩, header := header 16 false false false 2 9 5 0 0 }
  let s := s.setCore 8 { s.core 8 with inbox := { (s.core 8).inbox with pending := [p] } }
  if held then s.setThread 64 { gr 5 0xF400000004000 (s.thread 64) with held := [(p.slot, p.header)] } else s

theorem witness_ReceiveResults :
    let s := waiting false
    let h := waiting true
    quiet s ∧ full s 7 ∧ full s 8 ∧ full s 4 ∧ (cur s).lists = [] ∧ (g s 7).toNat < 16 ∧
    (∀ q ∈ s.received 8, q.2.cls = (g s 7).toNat → q.2.ord = false) ∧ ((s.core 8).inbox.forThread 0 2).isSome = true ∧
    completes (acquire 64 .package) s (fun _ t => t.run.cur == 64 && decide (quiet t)) = true ∧
    completes (release 64 .core) s (fun _ t => decide (t = s)) = true ∧
    (cur s).slotAt ((g s 5).toNat % 2 ^ 52) = none ∧
    quiet h ∧ (cur h).act = none ∧ ((cur h).slotAt ((g h 5).toNat % 2 ^ 52)).isSome = true ∧
    completes (release 64 .core) h (fun _ t => decide (t = h)) = true ∧
    completes (freeSlot 8 ⟨0x4000, 64, some 5, 2⟩) h (fun _ t => t.run.cur == 64 && decide (quiet t)) = true ∧
    g (h.setThread 64 (gr 6 1 (h.thread 64))) 6 = 1 ∧ g h 7 = 2 ∧ g h 8 = 3 := by decide +kernel

/-- A class of which no message is PENDING. -/
theorem witness_ReceiveResults_park :
    let s := base (gr 5 9)
    quiet s ∧ full s 5 ∧ free s 4 ∧ (cur s).lists = [] ∧ (g s 5).toNat < 16 ∧
    (∀ q ∈ s.received 8, q.2.cls = (g s 5).toNat → q.2.ord = false ∧ q.2.st ≠ .error) ∧
    (s.core 8).inbox.forThread 0 9 = none := by decide +kernel

/-- An engine of thread 64, in KERNEL mode unless its thread is in USER mode, whose unit has come up. -/
def engState (op : EngOp) : State :=
  let s := base id
  { s with
    engines := [{ id := 4, op := op, thread := 64, obj := 0xF000000000100, fn := 0x0A, ctx := 0, user := true }]
    boot := { s.boot with rdyeng := 0xFFF, rdymem := 0xFFF, rdycore := 0x1FF } }

def flies (s : State) : Bool :=
  match s.engines with
  | e :: _ => s.engines.find? (fun x => x.id == 4) == some e && !e.finished && !e.faulty && e.ready s && e.work.isNone
  | [] => false

/-- Whether an attempt succeeded. -/
def done {α : Type} : Except Trap α → Bool
  | .ok _ => true
  | .error _ => false

/-- The add to the completion object goes through. -/
def adds (s : State) (failed : Bool) : Bool :=
  match s.engines with
  | e :: _ => completes (completionAdd e.agent e.obj.toNat failed) (ended s 4 none) fun r _ => done r
  | [] => false

/-- Both ends of the operation: a body that succeeds, and one that faults. -/
theorem witness_CopyEnginesComplete :
    (let s := engState (.copy 0xF000000000000 0xF000000000800 64)
     flies s = true ∧ adds s false = true ∧ adds s true = true ∧
     s.engines.all (fun e => completes (copyBytes e.agent 0xF000000000000 0xF000000000800 64) s fun _ t =>
       t.engines == s.engines) = true) ∧
    (let s := engState (.copy 0xF000000000000 0xF000000010000 64)
     flies s = true ∧ adds s true = true ∧
     s.engines.all (fun e => match copyBytes e.agent 0xF000000000000 0xF000000010000 64 s with
       | .error (.trap _) t => t.engines == s.engines | _ => false) = true) := by decide +kernel

/-- A shape record of one dimension of 4 doublewords of format 0x03 in the scratchpad. -/
theorem witness_CopyEnginesComplete_tile :
    (let s := engState (.copys (List.replicate 64 0) (List.replicate 64 0))
     flies s = true ∧ adds s false = true ∧
     s.engines.all (fun e => completes (copyTile e.agent (shapeOf 0 (List.replicate 64 0)) (shapeOf 0 (List.replicate 64 0)))
       s fun _ t => t.engines == s.engines) = true) := by decide +kernel

/-- A PUT of no bytes; its destination has no page to translate. -/
theorem witness_CopyEnginesComplete_put :
    (let s := engState (.put 0xF000000000000 0x10000 0 none none 0)
     flies s = true ∧ adds s false = true ∧
     s.engines.all (fun e => completes (readVa e.agent 0xF000000000000 0 0) s fun bs s1 =>
       completes (translateAll e.agent 0x10000 0) s1 fun _ s2 => completes (writeVa e.agent 0x10000 bs 0) s2 fun _ s3 =>
         s3.engines == s.engines && adds s3 false) = true) := by decide +kernel

theorem witness_MulticastCompletes :
    (let s := engState (.gmcast 0 1 0xF000000000000 0x800 64 [9, 10])
     flies s = true ∧ adds s false = true ∧
     s.engines.all (fun e => completes (readVa e.agent 0xF000000000000 64 0) s fun bs s1 =>
       ([9, 10].all fun m => !(s1.core m).killed) && s1.engines == s.engines &&
       completes ([9, 10].foldlM (fun (_ : Unit) m => putBytes (placeScratch m 0x800) bs) ()) s1 fun _ s2 =>
         adds s2 false) = true) := by decide +kernel


/-- The allocator table of core 8 at the start of chip memory: class 0 has two blocks, the first in the scratchpad. -/
def allocState (op : EngOp) : State :=
  let s := engState op
  let s := s.setCore 8 { s.core 8 with regs := { (s.core 8).regs with allocbase := 0x8000000000000000 } }
  let entry := leBytes 8 0xF000000000200 ++ leBytes 4 2 ++ leBytes 4 1
  { s with mem := s.mem.setBytes (placeChip 0 0) entry }

theorem witness_AllocatorServes :
    (let s := allocState (.alloc 5 64)
     flies s = true ∧ s.engines.all (fun e => completes (allocBlock e 64) s fun v s1 =>
       v == 0xF000000000200 && completes (acquire e.thread .die) s1 fun _ _ => true) = true) ∧
    (let s := allocState (.free 0xF000000000240 64)
     flies s = true ∧ s.engines.all (fun e => (tableEntry s (e.thread / 8) (sizeClass 64)).any fun p => (s.badLocal.isEmpty && s.latentLocal.isEmpty) &&
       completes (writeVa e.agent 0xF000000000240 (s.mem.bytes p 8) 0) s fun _ _ => true) = true) := by decide +kernel

/-- A list of one store to the scratchpad is being applied. -/
def applyState : State :=
  let s := engState (.eapply (some 0) none false)
  s.setCluster 1 { s.cluster 1 with descrs := [(0, { gen := 1, list := some {
    st := .applying false 1 false, owner := 8, entries := [] } })] }

theorem witness_ApplicationCompletes :
    (let s := applyState
     flies s = true ∧ s.engines.all (fun e =>
       completes (applyEntries e.agent ((s.cluster 1).list? 0) none e.ctx) s fun r s1 =>
         match r with
         | .error _ => false
         | .ok es => s1.engines == s.engines &&
           completes (performFrom e.agent e.thread
             (fun t va => modEngine 4 fun x =>
               { x with failed := x.failed.orElse fun _ => some { t with faddr := BitVec.ofNat 64 va } })
             (modEngine 4 fun x => { x with pos := x.pos + 1 }) (es.drop e.pos))
             { s1 with engines := s1.engines.map fun x => if x.id = 4 then { x with work := some es } else x } fun _ s2 =>
             (s2.engines.any fun x => x.id == 4 && x.failed.isNone && !x.faulty && x.obj == e.obj && x.agent == e.agent &&
               x.op == e.op && x.thread == e.thread) &&
             completes (completionAdd e.agent e.obj.toNat false) (ended s2 4 none) fun r t =>
               done r && ((t.cluster 1).list? 0).any (fun l => l.st == .applying false 1 false)) = true) := by decide +kernel

/-! Messages that arrive, and activations -/

def flight (place : Option (Nat × Nat)) (pool : Nat) : Flight :=
  { src := 9, dst := 8, cls := 2, place := place, header := 0, bytes := [1, 2], pool := pool, origin := .core 9 }

/-- A message in flight to slot 1 of channel 5; a system message from core 9 for pool 15, of which slot 0 is taken. -/
theorem witness_MessagesArrive :
    (let s := { chanState .open false 0 [1] with flights := [flight (some (5, 1)) 0] }
     s.flights[0]? = some (flight (some (5, 1)) 0) ∧ (s.channel 0 5).st = .open ∧ (s.channel 0 5).ord = false ∧
     (s.core 8).inbox.waiters = [] ∧ quiet s ∧ s.saved = []) ∧
    (let s := chanState .open false 0 []
     let s := { s.setCore 8 { s.core 8 with inbox := { (s.core 8).inbox with sysUsed := [0] } } with
       sysmsgs := [flight none 15] }
     s.sysmsgs[0]? = some (flight none 15) ∧ (∀ x ∈ s.sysmsgs.take 0, x.origin ≠ .core 9) ∧
     completes (systemRelease (.core 9)) s (fun _ s1 => (s1.core 8).inbox.waiters.isEmpty && decide (quiet s1) &&
       (s1.core 8).inbox.sysUsed == [0]) = true ∧
     (∀ o, o < 64 → o % 64 = 0 → o ∈ (s.core 8).inbox.sysUsed) ∧
     quiet s ∧ s.waiting (fun r => (r.src.who == 9 && r.src.dev.isNone) || r.gave.any fun g => g.1 == 9) = [] ∧
     s.homes.acks = [] ∧
     (∀ l ∈ (s.core 9).l1, l.dirty &&& ~~~l.regBytes = 0)) := by decide +kernel

/-- A PENDING message of class 2 at core 8, whose threads 0 and 1 are taken. -/
def bindState : State :=
  let s := waiting false
  let s := s.setCore 8 { s.core 8 with regs := { (s.core 8).regs with
    classes := (s.core 8).regs.classes.set 2 0x0100000000040000 } }
  s.setThread 65 { s.thread 65 with st := .parked .fpx }

theorem witness_ActivationStarts :
    (bindState.core 8).killed = false ∧ (bindState.core 8).halted = false ∧ bindState.ctxHalted (bindState.coreCtx 8) = false ∧
    (∀ q ∈ (bindState.core 8).inbox.pending, turnedAway bindState 8 q = none) ∧
    (bindNext bindState 8).any (fun p => !p.ordered bindState 8 &&
      completes (acquire 66 (if p.header.getLsbD 15 then .domain else .package)) (bindState.setCore 8 { bindState.core 8 with
        inbox := { (bindState.core 8).inbox with pending := (bindState.core 8).inbox.pending.erase p } }) fun _ s1 =>
        s1.thread 66 == bindState.thread 66) = true ∧
    (bindState.thread 66).st = .dormant ∧ (∀ j, j < 2 → (bindState.thread (64 + j)).st ≠ .dormant) := by decide +kernel

/-- A late result of g5; ALIGN's park; an interrupt at hub core 0. -/
theorem witness_BetweenInstructions :
    ((base fun t => { t with results := [(5, 7)], empty := 32, st := .parked (.empty 5) }).thread 64).results = [(5, 7)] ∧
    ((base fun t => { t with st := .parked (.align 3) }).thread 64).st = .parked (.align 3) ∧
    (let s := kern fun t => { t with kern := { t.kern with kvec := 0x2000, kstatus := 2 } }
     let s := s.setCore 0 { s.core 0 with irqs := [5] }
     (s.core 0).irqs = [5] ∧ s.interruptible 0 = true ∧ (s.thread 0).kern.kvec ≠ 0 ∧
     (s.thread 0).kern.kvec.getLsbD 0 = false) := by decide +kernel

/-! Homes -/

/-- Core 8 asks for line 4; core 9 holds it exclusive with a dirty byte, or nobody does. -/
def homeState (kind : ReqKind) (held : Bool) : State :=
  let s := base id
  let r : Req := { kind := kind, src := { who := 8, ctx := 0 }, pline := 4, mask := 1 }
  let l : L1Line :=
    { vline := 0x80_0000_0001, space := .ctx 0, home := .here 4, kind := .exclusive, valid := BitVec.allOnes 64, dirty := 1,
      reg := 0, data := 0x77, w := true, k := false, trace := false }
  let s := if held then s.setCore 9 { s.core 9 with l1 := [l] } else s
  { s with
    homes := { s.homes with reqs := [r], dir := if held then [(4, { st := .m 9 })] else [] }
    boot := { s.boot with rdymem := 0xFFF, rdycore := 0x1FF } }

/-- Every kind of request at a line that nobody holds, and those of R147 that ask the holder of one. -/
theorem witness_HomesServeRequests :
    (∀ k ∈ [ReqKind.fillu, .fills, .upg, .getm, .ext, .regw, .rdh, .wrh, .atom, .wbs, .wbo, .dereg, .leave],
      (homeState k false).headReq 0 = (homeState k false).homes.reqs[0]? ∧
      (∀ r ∈ (homeState k false).homes.reqs, synonyms (unqueued (homeState k false) 0) r = [] ∧
        allAsks (unqueued (homeState k false) 0) r = [])) ∧
    (∀ k ∈ [ReqKind.rdh, .wrh, .atom, .wbs],
      (homeState k true).headReq 0 = (homeState k true).homes.reqs[0]? ∧
      (∀ r ∈ (homeState k true).homes.reqs, synonyms (unqueued (homeState k true) 0) r = [] ∧
        allAsks (unqueued (homeState k true) 0) r ≠ [])) := by decide +kernel

/-- An invalidation on its way, an acknowledgement that ends a request, one of two, and one that nobody waits for. -/
def ackState (busy more : Bool) : State :=
  let s := homeState .wrh true
  let r : Req := { kind := .wrh, src := { who := 8, ctx := 0 }, pline := 4, mask := 1 }
  { s with homes := { s.homes with
      reqs := [], dir := [(4, { st := .m 9, busy := if busy then some r else none })]
      acks := [⟨4, 9, .invalidate, 2, 0x5500, 0, false⟩], invals := if more then [⟨4, 9, .invalidate⟩] else [] } }

def acked (more : Bool) : Bool :=
  let s := ackState true more
  match s.homes.acks, (s.dirOf 4).busy with
  | a :: _, some r =>
    completes (applyAck a r) { s with homes := { s.homes with acks := s.homes.acks.eraseIdx 0 } } fun _ s1 =>
      completes (setDir 4 { s1.dirOf 4 with busy := some { r with
        dx := r.dx ||| a.mask
        gave := if a.mask = 0 then r.gave else (a.core, a.ctx) :: r.gave } }) s1 fun _ s2 =>
        (s2.homes.invals.any (·.pline == 4) || s2.homes.acks.any (·.pline == 4)) == more &&
        (more || completes (completeBusy afadd 4 (r.dx ||| a.mask)) s2 fun _ _ => true)
  | _, _ => false

theorem witness_CoherenceMoves :
    completes (askCore 9 4 .invalidate) (ackState true true) (fun _ _ => true) = true ∧
    (ackState true true).homes.invals[0]? = some ⟨4, 9, .invalidate⟩ ∧
    (ackState false false).homes.acks[0]? = some ⟨4, 9, .invalidate, 2, 0x5500, 0, false⟩ ∧
    ((ackState false false).dirOf 4).busy = none ∧ acked false = true ∧ acked true = true := by decide +kernel

/-- A write to a word that core 9 has registered. -/
theorem witness_CoherenceMoves_forwarded :
    (let s := homeState .wrh false
     let s := { s with homes := { s.homes with dir := [(4, { owners := [(0, .core 9)] })] } }
     (s.headReq 0).any fun r => (foreignWords (s.dirOf r.pline) r &&& wordsOf r.mask) != 0) = true := by decide +kernel

/-- The line as the cleaner finds it: clean or dirty as given, of a kind, or recalled while an invalidation was on its way. -/
def cleans (s : State) (p : L1Line → State → Bool) : Bool :=
  s.run.oracle.isEmpty && !s.cutOff 8 (homeDie 4) && (s.core 8).l1.length == 1 && (s.core 8).l1.all fun l =>
    l.home == .here 4 && completes (settledLine 8 l) s fun now t0 => match now with
      | some x => p x t0
      | none => false

theorem witness_CoherenceMoves_cleaner :
    cleans lineState (fun x _ => x.kind == .self && x.reg == 0 && x.dirty == 0) = true ∧
    (let s := lineState.setCore 8 { lineState.core 8 with l1 := (lineState.core 8).l1.map fun l => { l with dirty := 1 } }
     cleans s fun x t0 => x.kind == .self && x.reg == 0 && x.dirty != 0 && completes (do
       clearDirty 8 x x.dirty
       let _ ← serve (lineReq 8 x 4 .wbs x.dirty)) t0 fun _ _ => true) = true ∧
    (let s := lineState.setCore 8 { lineState.core 8 with l1 := (lineState.core 8).l1.map fun l => { l with kind := .exclusive } }
     cleans s fun x _ => x.kind == .exclusive) = true ∧
    (let r : Req := { kind := .wrh, src := { who := 9, ctx := 0 }, pline := 4, mask := 1 }
     let s := { lineState with homes := { lineState.homes with
       dir := [(4, { st := .s (.exact [8]), busy := some r })], invals := [⟨4, 8, .invalidate⟩] } }
     s.run.oracle = [] ∧ (s.core 8).l1.all (fun l => completes (settledLine 8 l) s fun now _ => now.isNone) = true) := by
  decide +kernel

/-- The cleaner at a dirty SELF line whose home its core is cut off from. -/
theorem witness_CoherenceMoves_cutOff :
    (let s := lineState.setCore 8 { lineState.core 8 with l1 := (lineState.core 8).l1.map fun l => { l with dirty := 1, home := .here (2 ^ 34) } }
     let s := s.setDie 1 { s.die 1 with isolated := true }
     s.cutOff 8 (homeDie (2 ^ 34)) = true ∧ s.run.oracle = [] ∧
     ((s.core 8).l1.all fun l => completes (do clearDirty 8 l l.dirty; loseMarks l l.dirty (some 1)) s fun _ _ => true) = true) := by
  decide +kernel

/-- A background walk of a kernel core whose tables lie in frames 1 to 3; the leaf of level 3 is `entry`. -/
def walkState (entry : Nat) : State :=
  let s := kern id
  let s := s.setCore 0 { s.core 0 with regs := { (s.core 0).regs with kptroot := 0x40001 } }
  { s with
    mem := ((s.mem.setBytes 0x40000 (leBytes 8 0x80001)).setBytes 0x80000 (leBytes 8 0xC0001)).setBytes 0xC0008 (leBytes 8 entry)
    walks := [{ thread := 0, space := .dev 0, va := 0x40000 }]
    fcu := { s.fcu with records := [1, 2, 3, 5].map fun f => (f, { st := .owned, owner := some .device }) }
    boot := { s.boot with rdymem := 0xFFF, rdycore := 0x1FF } }

theorem witness_CoherenceMoves_walk :
    completes (walk ⟨0, false, 0⟩ 0x40000 0 0) (walkState (5 * 2 ^ 18 + 7)) (fun p _ => p.target == .phys (5 * 2 ^ 18))
      = true ∧ isHub 0 = false ∧
    (match walk ⟨0, false, 0⟩ 0x40000 0 0 (walkState 0) with | .error (.trap _) _ => true | _ => false) = true := by
  decide +kernel


/-! PUT, groups and barriers -/

/-- The control word of a PUT of 64 bytes, with a note on endpoint 3 or without. -/
def putState (note : Bool) : State :=
  let s := chanState .open false 0x10000 []
  let s := s.setThread 64 (gr 4 0x4100 (gr 7 (if note then 0x1000300000040 else 0x40) (gr 6 0x10000 (s.thread 64))))
  { s with boot := { s.boot with rdymem := 0xFFF, rdycore := 0x1FF } }

def putRelease (s : State) : M Unit := do
  let k ← me
  let there ← (pagesOf ((g s 6).toNat % 2 ^ 52) 64).mapM scopeOf
  release k (← if there.contains .domain then pure Scope.domain else scopeOf 0x4100)

theorem witness_PutForks :
    (let s := putState false
     quiet s ∧ full s 5 ∧ full s 6 ∧ full s 7 ∧ full s 4 ∧ (cur s).lists = [] ∧ noRemote s ∧
     completes (checkObject (g s 4)) s (fun o t => o == 0x4100 && decide (t = s)) = true ∧
     putReserved (g s 7) = false ∧ (∀ p ∈ pieces ((g s 6).toNat % 2 ^ 52) 64, isLocal p.1 = false) ∧
     completes (checkRange ((g s 5).toNat % 2 ^ 52) 64 false) s (fun _ t => decide (t = s)) = true ∧
     (g s 7).getLsbD 48 = false ∧
     completes (do putRelease s; readVa (← threadAgent) ((g s 5).toNat % 2 ^ 52) 64 (accessInfo 0 false false 3 false false)) s
       (fun _ t => t.run.cur == 64 && decide (quiet t)) = true) ∧
    (let s := putState true
     putReserved (g s 7) = false ∧ (g s 7).getLsbD 48 = true ∧ (s.channel 0 5).remote = none ∧
     completes (checkNote (g s 7)) s (fun r t => r == (0, 5) && decide (t = s)) = true ∧
     completes (do
       putRelease s
       match ← takeSlot 0 5 64 with
       | none => park (.send 5)
       | some idx => return idx) s (fun _ t => t.run.cur == 64 && decide (quiet t)) = true) := by decide +kernel

/-- A PUT whose note goes to a channel of another device. -/
theorem witness_PutForks_remote :
    let s := putState true
    let s := s.setDie 0 { s.die 0 with chans := (s.die 0).chans.map fun c => (c.1, { c.2 with remote := some 1 }) }
    quiet s ∧ (g s 7).getLsbD 48 = true ∧ (s.channel 0 5).remote.isSome = true ∧
    completes (checkNote (g s 7)) s (fun r t => r == (0, 5) && decide (t = s)) = true ∧
    completes (do
      let _ ← (pagesOf ((g s 6).toNat % 2 ^ 52) 64).mapM scopeOf
      release (← me) .domain) s (fun _ t => t.run.cur == 64 && decide (quiet t)) = true := by decide +kernel

/-- Group 9 of die 0 holds cores 8 and 9, of the context of thread 0 of core 8. -/
def groupState (st : GroupState) (x y : Word) (ctl : Word) : State :=
  let s := base fun t => gr 4 0x4100 (gr 5 x (gr 6 y (gr 7 ctl t)))
  s.setDie 0 { s.die 0 with groups := [(9, { st := st, members := [8, 9] })] }

def gmcasts (y : Word) : Bool :=
  let s := groupState .bound 0xF000000000000 y 0x400009
  completes (checkObject (g s 4)) s (fun o t => o == 0x4100 && decide (t = s)) &&
  (g s 7).toNat / 2 ^ 8 % 2 ^ 8 == 0 && decide ((g s 7).toNat < 2 ^ 32) &&
  completes (checkGroup (g s 7) false) s (fun _ t => decide (t = s)) &&
  completes (checkRange ((g s 5).toNat % 2 ^ 52) 64 false) s (fun _ t => decide (t = s)) &&
  (g s 6).toNat % 2 ^ 52 / 2 ^ 44 == 0xF0 && decide ((g s 6).toNat % 2 ^ 44 + (g s 7).toNat / 2 ^ 16 ≤ 2 ^ 16) &&
  completes (objectRelease 0x4100) s (fun _ t => t.run.cur == 64 && decide (quiet t))

/-- GMCAST of 64 bytes to offset 0x800 and to the last offset that 64 bytes have. -/
theorem witness_PutForks_gmcast : gmcasts 0xF000000000800 = true ∧ gmcasts 0xF00000000FFC0 = true := by decide +kernel

def gsets (s : State) (refused : Bool) : Bool :=
  completes (release 64 .die) s fun _ s1 => s1.run.cur == 64 &&
    match gsetRefusal s1 0 (g s 5) (g s 6) with
    | some st => refused && completes (acquire 64 .die) (wrote s1 0 4 (BitVec.ofNat 64 st)) fun _ t =>
        t.run.cur == 64 && decide (quiet t)
    | none => !refused && completes (gsetApply 0 (g s 5) (g s 6)) s1 fun _ s2 => s2.run.cur == 64 &&
        completes (acquire 64 .die) (wrote s2 0 4 0) fun _ t => t.run.cur == 64 && decide (quiet t)

/-- GSET of every operation, and one that is refused. -/
theorem witness_GroupResults :
    gsets (groupState .bound 9 0 0) false = true ∧ gsets (groupState .free 9 1 0) false = true ∧
    gsets (groupState .bound 9 0x2A 0) false = true ∧ gsets (groupState .bound 9 0x27 0) false = true ∧
    gsets (groupState .free 9 2 0) true = true := by decide +kernel

def ginfos (y : Word) : Bool :=
  let s := groupState .bound 9 y 0
  decide (quiet s) && decide (full s 5 ∧ full s 6 ∧ full s 7 ∧ full s 4) && (cur s).lists.isEmpty &&
  decide ((g s 5).toNat < 256) && (s.group 0 9).st == .bound && (s.group 0 9).ctx == (cur s).kern.ctxid.toNat &&
  (g s 6 == 0 || (decide (0x1000 ≤ (g s 6).toNat) && decide ((g s 6).toNat - 0x1000 < (s.group 0 9).members.length)))

/-- GINFO of the report and of the first and last member. -/
theorem witness_GroupResults_ginfo : ginfos 0 = true ∧ ginfos 0x1000 = true ∧ ginfos 0x1001 = true := by decide +kernel

def greds (z : Word) : Bool :=
  let s := groupState .bound 0xF000000000000 0xF000000002000 z
  let n := z.toNat / 2 ^ 16
  let w := redBytes (z.toNat / 2 ^ 8 % 16)
  completes (checkObject (g s 4)) s (fun o t => o == 0x4100 && decide (t = s)) &&
  z.toNat / 2 ^ 12 % 16 == 0 && decide (z.toNat < 2 ^ 27) && decide (1 ≤ n) && decide (n ≤ 1024) &&
  decide (z.toNat / 2 ^ 8 % 16 < 12) && completes (checkGroup z true) s (fun _ t => decide (t = s)) &&
  (g s 5).toNat % 2 ^ 52 % w == 0 && (g s 6).toNat % 2 ^ 52 % w == 0 &&
  completes (checkRange ((g s 5).toNat % 2 ^ 52) (n * w) false) s (fun _ t => decide (t = s)) &&
  completes (checkRange ((g s 6).toNat % 2 ^ 52) (n * w) true) s (fun _ t => decide (t = s)) &&
  decide (s.gredsOf 0 (z.toNat % 256) 8 < 2) &&
  completes (objectRelease 0x4100) s (fun _ t => t.run.cur == 64 && decide (quiet t))

/-- GRED of one element, and of 1024 of OP 8. -/
theorem witness_GroupResults_gred : greds 0x10009 = true ∧ greds 0x4000809 = true := by decide +kernel

/-- Both members have joined: a sum of one word each. -/
def redState : State :=
  let a := fun (who : Nat) => GredArrival.mk who (who * 8) 0xF000000000000 0xF000000000010 0x10009 0x4100
  let s := groupState .bound 0 0 0
  let s := s.setDie 0 { s.die 0 with groups := [(9, { st := .bound, members := [8, 9], reds := [[a 8, a 9]] })] }
  { s with boot := { s.boot with rdymem := 0xFFF, rdycore := 0x1FF, rdyeng := 0xFFF } }

def reduces : Bool :=
  let s := redState
  let gr := s.group 0 9
  match gr.reds with
  | [arr] =>
    let mine := gr.members.filterMap fun m => arr.find? fun a => a.who == m
    gr.st == .bound && (gr.members.all fun m => arr.any fun a => a.who == m) &&
    (mine.all fun a => mine.all fun b => a.ctl == b.ctl) &&
    completes (reduceAll 0 9 gr.ctx mine) s fun f s1 =>
      completes (redAdds 0 9 gr.ctx mine f false) (Claims.groupNow s1 0 9 { s1.group 0 9 with reds := [] }) fun _ s3 =>
        completes (performAdds 0 9) (s3.dropWaits (2 ^ 34 + 9)) fun _ _ => true
  | _ => false

theorem witness_ReductionPerformed : reduces = true := by decide +kernel

/-- Barrier 7 of die 0, bound to group 9, in a state that the core is in, has been in, or not. -/
def barState (y : Word) (b : Barrier) : State :=
  let s := groupState .bound 7 y 0
  s.setDie 0 { s.die 0 with bars := [(7, { b with group := 9 })] }

def barOk (s : State) : Bool :=
  decide (quiet s) && decide (full s 5 ∧ full s 6 ∧ full s 4) && (cur s).lists.isEmpty && decide ((g s 5).toNat < 512) &&
  (s.barrier 0 7).st != .free && (s.barrier 0 7).ctx == (cur s).kern.ctxid.toNat && (cur s).arrived.isNone &&
  (s.group 0 (s.barrier 0 7).group).members.contains 8

def configures (y : Word) : Bool :=
  let s := barState y { st := .idle }
  barOk s && completes (release 64 .die) s (fun _ s1 => s1.run.cur == 64 && s1.barrier 0 7 == s.barrier 0 7 &&
    (s1.parkedOn 0 7).isEmpty) &&
  (g s 6).toNat / 2 ^ 12 % 16 == 0 && decide ((g s 6).toNat < 2 ^ 40) && decide ((g s 6).toNat % 2 ^ 12 ≤ 2048) &&
  completes (acquire 64 .die) (wrote (Claims.barrierNow s 0 7 { s.barrier 0 7 with count := (g s 6).toNat % 2 ^ 12 }) 0 4 0)
    fun _ t => t.run.cur == 64 && decide (quiet t)

/-- BARCFG at both ends of COUNT's range and at the end of the watchdog's. -/
theorem witness_BarrierResults_config :
    configures 0 = true ∧ configures 2048 = true ∧ configures 0xFFFFFF0800 = true := by decide +kernel

/-- BARQ of both reports; arrivals of the first core and of the last; a wait for a phase never arrived at, for the current
one, and for one that is over. -/
theorem witness_BarrierResults :
    (let s := barState 0 { st := .idle }
     barOk s = true ∧ g s 6 = 0 ∧ g (barState 1 { st := .idle }) 6 = 1 ∧ (s.barrier 0 7).arr.contains 8 = false ∧
     completes (do release (← me) .die; arriveAt 0 7) s (fun _ t => t.run.cur == 64 && decide (quiet t)) = true ∧
     (s.barrier 0 7).last.find? 8 = none) ∧
    (let s := barState 0 { st := .filling, arr := [9] }
     completes (do release (← me) .die; awaitPhase 0 7 (← arriveAt 0 7) 4) s
       (fun _ t => t.run.cur == 64 && decide (quiet t)) = true) ∧
    ((barState 0 { st := .filling, phase := 3, last := [(8, 3)] }).barrier 0 7).last.find? 8 = some 3 ∧
    (let s := barState 0 { st := .idle, phase := 4, last := [(8, 3)] }
     (s.barrier 0 7).last.find? 8 = some 3 ∧ (s.barrier 0 7).phase ≠ 3 ∧
     completes (do acquire 64 .die; grantPoint 64) s (fun _ t => t.run.cur == 64 && decide (quiet t)) = true) := by
  decide +kernel

theorem witness_BarrierPhases :
    ((barState 0 { st := .idle }).barrier 0 7).arr.length + 1 < ((barState 0 { st := .idle }).group 0 9).members.length ∧
    ((barState 0 { st := .filling, arr := [9] }).group 0 9).members.length
      ≤ ((barState 0 { st := .filling, arr := [9] }).barrier 0 7).arr.length + 1 ∧
    (0 : BitVec 2).toNat = 0 ∧ (7 : BitVec 9).toNat = 7 ∧
    ((barState 0 { st := .filling, deadline := 0 }).barrier 0 7).deadline ≤ (barState 0 {}).time ∧
    (barState 0 {}).time < ((barState 0 { st := .filling, deadline := 1 }).barrier 0 7).deadline := by decide +kernel


/-! Vector instructions -/

/-- Lanes of v5 hold 1.0, those of v6 hold 0, and m1 has lanes 0 and 2. -/
def vecState (f : Thread → Thread) : State :=
  base fun t => f (gr 5 7 (gr 6 24 { t with vec := { t.vec with
    v := (List.range 8).map fun j => (5 * 256 + j, 0x3F800000)
    m := t.vec.m.set 1 5 } }))

theorem witness_VectorIntegerResults : quiet (vecState id) ∧ acts (vecState id) 1 0 = true ∧ acts (vecState id) 1 1 = false ∧
    acts (vecState id) 0 7 = true ∧ acts (vecState id) 0 8 = false := by decide +kernel

def fpcOf (w : Word) (t : Thread) : Thread := { t with ctl := { t.ctl with fpc := w } }

def vfFlags (s : State) (i : Instr) (m : BitVec 3) : Option Nat :=
  (vfOf s i).map fun x => laneFlags s m (fun j => (x.2.2 j).2) &&& enables s

theorem witness_VectorFloatResults :
    quiet (vecState id) ∧ vfFlags (vecState id) (.vfdiv 7 5 6 1) 1 = some 0 ∧
    (vcOf (vecState id) (.vflt 2 6 5 1)).map (fun x => (x.1, laneFlags (vecState id) 1 (fun j => (x.2.2 j).2)))
      = some (2, 0) ∧ (vcOf (vecState id) (.vflt 0 6 5 1)).map (·.1) = some 0 := by decide +kernel

/-- 1.0 / 0 in lanes 0 and 2 with the divide-by-zero flag enabled. -/
theorem witness_VectorFloatExceptionParks :
    quiet (vecState (fpcOf 0x20)) ∧ (vfFlags (vecState (fpcOf 0x20)) (.vfdiv 7 5 6 1) 1).any (· != 0) = true ∧
    localVector (vecState (fpcOf 0x20)).run.cur (cur (vecState (fpcOf 0x20))) = false := by decide +kernel

theorem witness_VectorMoves : quiet (vecState id) ∧ full (vecState id) 5 ∧ full (vecState id) 6 ∧ full (vecState id) 7 ∧
    (g (vecState id) 5).toNat < (vec (vecState id)).vlen ∧ ¬ (g (vecState id) 6).toNat < (vec (vecState id)).vlen := by
  decide +kernel

def treeFlags (s : State) (m : BitVec 3) : Nat :=
  let lanes := (List.range (vec s).vlen).map fun j => if acts s m j then some ((lane s 5 j).toNat, j) else none
  ((tree (fAdd .fp32 (mode s)) 8 lanes []).2 ++ (tree (fMinMax .fp32 (mode s) true) 8 lanes []).2).foldl
    (fun x p => x ||| p.2) 0 &&& enables s

theorem witness_VectorReductions :
    quiet (vecState id) ∧ full (vecState id) 7 ∧ treeFlags (vecState id) 0 = 0 ∧ treeFlags (vecState id) 1 = 0 ∧
    actives (vecState id) 2 = [] ∧ (vec (vecState id)).vlen = 8 := by decide +kernel

/-- A claim of 24 on 8 granted lanes; one of 8 on 24; a hub core. -/
theorem witness_GrantResults :
    quiet (vecState id) ∧ full (vecState id) 5 ∧ full (vecState id) 6 ∧ full (vecState id) 7 ∧
    isHub ((vecState id).run.cur / 8) = false ∧ (vec (vecState id)).vlen < claim (g (vecState id) 6).toNat ∧
    claim (g (vecState id) 5).toNat ≤ (vec (vecState id)).vlen ∧ 8 ≤ (vec (vecState id)).vlen ∧
    claim 200 = 200 ∧ claim 201 = 200 ∧ claim 0 = 8 ∧ claim 9 = 16 ∧
    (let s := { State.reset.setThread 0x10000 { Thread.fresh 0x10000 with st := .runnable } with run := { cur := 0x10000 } }
     quiet s ∧ isHub (s.run.cur / 8) = true) := by decide +kernel


/-- Fat word of format 0 in the scratchpad, index 2. -/
def vmemState (m : BitVec 256) : State :=
  base fun t => gr 6 2 (gr 5 0x000F000000000000 { t with vec := { t.vec with m := t.vec.m.set 1 m } })

def lanesLocal (s : State) (m : BitVec 3) (n : Nat) (store : Bool) (va place : Nat → Nat) : Bool :=
  (actives s m).all fun j => va j % n == 0 && (localPlace s (va j) n store).any (fun p => p.1 == place j)

def allForms (m : BitVec 3) (store : Bool) : Bool :=
  let s := vmemState 5
  lanesLocal s m 4 store (fun j => elementAt (g s 5) (((g s 6).toInt + j) * 4)) (fun j => placeScratch 8 (8 + 4 * j)) &&
  lanesLocal s m 4 store (fun j => elementAt (g s 5) ((j : Int) * 64)) (fun j => placeScratch 8 (64 * j)) &&
  lanesLocal s m 4 store (fun j => elementAt (g s 5) ((lane s 8 j).toInt * 4)) (fun _ => placeScratch 8 0) &&
  laneFlags s m (fun _ => (laneOf 0 (mode s) 0).2) &&& enables s == 0 &&
  laneFlags s m (fun j => (elementOf 0 (mode s) (lane s 7 j)).2) &&& enables s == 0

/-- Unit-stride, strided and indexed elements of lanes 0 and 2, and of all eight. -/
theorem witness_VectorMemoryResults :
    (let s := vmemState 5
     quiet s ∧ full s 5 ∧ full s 6 ∧ noRemote s ∧ accepted ((g s 5).toNat / 2 ^ 58) ∧ (g s 5).toNat / 2 ^ 52 % 64 = 0 ∧
     (cur s).lists = [] ∧ s.badLocal = [] ∧ s.latentLocal = [] ∧ accepted 0x0C) ∧
    allForms 1 true = true ∧ allForms 1 false = true ∧ allForms 0 true = true ∧ allForms 0 false = true := by decide +kernel

def lanePlan (s : State) (store : Bool) : LanePlan :=
  { code := 0, esize := 4, pol := .self, store := store,
    lanes := (actives s 1).map fun j => (j, [(elementAt (g s 5) (((g s 6).toInt + j) * 4), 4)]) }

theorem witness_VectorAccessesAreCarried :
    completes (vectorLoad 7 (lanePlan (vmemState 5) false) fun _ => 0) (vmemState 5)
      (fun _ t => t.run.cur == 64 && decide (quiet t)) = true ∧
    completes (vectorStore 7 (lanePlan (vmemState 5) true)) (vmemState 5)
      (fun _ t => t.run.cur == 64 && decide (quiet t)) = true ∧
    completes (do vectorLoad 7 (lanePlan (vmemState 5) false) fun _ => 0; unkeep (← me)) (vmemState 5)
      (fun _ t => t.run.cur == 64 && decide (quiet t)) = true := by decide +kernel

/-- Offset 0x3FC is the last word of a slice; no lane is active in m2. -/
theorem witness_SliceAccesses :
    (let s := base fun t => gr 5 0x3F0 (gr 6 0xC t)
     quiet s ∧ full s 5 ∧ full s 6 ∧ isHub (s.run.cur / 8) = false ∧ ((g s 5).toNat + (g s 6).toNat) % 2 ^ 64 % 4 = 0 ∧
     ((g s 5).toNat + (g s 6).toNat) % 2 ^ 64 < 1024 ∧ s.badLocal = [] ∧ s.latentLocal = [] ∧ (cur s).lists = [] ∧
     actives s 2 = []) := by decide +kernel

/-! The weave array -/

theorem witness_TileResults :
    (let s := scratchState
     quiet s ∧ full s 5 ∧ full s 7 ∧ (cur s).lists = [] ∧ tileFree s true ∧ noRemote s ∧ (vec s).vlen ≤ 200 ∧
     laneFlags s 0 (fun j => ((accumulator s true j).readout (mode s) .f32).2) &&& enables s = 0 ∧
     (let s := base (gr 5 0xF000000000000)
      (g s 5).toNat % 64 = 0 ∧ localPlace s ((g s 5).toNat % 2 ^ 52) 49152 true = some (placeScratch 8 0, 0) ∧
      Memory.wf s.mem = true ∧ s.badLocal = [] ∧ s.latentLocal = []) ∧
     g (base (gr 5 0x17F)) 5 = 0x17F ∧ g (base (gr 5 0x180)) 5 = 0x180) := by decide +kernel


/-- A weave cluster whose tile 1 is used by a queued operation, or whose report on tile 1 is armed after a drop with BLOST. -/
def tileState (armed : Bool) : State :=
  let s := base (gr 5 0xF000000000000)
  let op : GangOp := { id := 0, tile := true, setMode := true, ctx := 0, slab := 0, nstep := 1, row0 := 0, nrow := 1, afmt := 2,
                       bfmt := 2, abase := 0, astride := 256, threads := [] }
  s.setCluster 1 { s.cluster 1 with weave := { (s.cluster 1).weave with
    queue := if armed then [] else [op], armed := if armed then [8] else [], drop1 := 0x810C0000 } }

theorem witness_TileWaits :
    quiet (tileState false) ∧ full (tileState false) 5 ∧ (cur (tileState false)).lists = [] ∧ slice (tileState false) = 0 ∧
    8 ∉ (array (tileState false)).armed ∧ (∃ o ∈ (array (tileState false)).queue, o.tile = true) ∧
    quiet (tileState true) ∧ 8 ∈ (array (tileState true)).armed ∧
    localVector (tileState true).run.cur (cur (tileState true)) = false ∧
    (tileState true).allocating (tileState true).run.cur = false ∧
    (array (tileState true)).drop1 / 2 ^ 16 % 2 ^ 8 = 0x0C := by decide +kernel

/-- Thread 0 of the eighth core of cluster 1 arrives with an MWEAVE of one step on slab 0 and row 0, or with another row. Every
slab 0 is VALID. -/
def gangState (n : Nat) (b : Word) : State :=
  let ga : Word := 0x080F100000000000
  let gb : Word := 0x0000000200200100
  let mk := fun (i : Nat) => (Arrival.mk (64 + 8 * i) 4 false true true 0 ga gb 0)
  let s := { State.reset with
    threads := (List.range 8).map fun i =>
      let t := gr 5 ga (gr 6 (if i = 7 then b else gb) { Thread.fresh 64 with pc := 0x1000, st := .parked .gang })
      (64 + 8 * i, if i = 7 then { t with st := .runnable } else t)
    run := { cur := 120 } }
  let s := s.setCore 8 { s.core 8 with regs := { (s.core 8).regs with clssize := 0x10000 } }
  s.setCluster 1 { s.cluster 1 with weave := { (s.cluster 1).weave with
    arrivals := (List.range n).map mk
    slabs := (List.range 128).map fun j => (j / 16 * 2048 + j % 16 * 128, { st := .valid, fmt := 2 }) } }

def gathers (n : Nat) (b : Word) (ok : Bool) : Bool :=
  let s := gangState n b
  let mine := arrival s false true true (g s 5) (g s 6) 0
  decide (quiet s) && decide (full s 5 ∧ full s 6 ∧ full s 7) && (cur s).lists.isEmpty && (array s).checked.isNone &&
  ((array s).arrivals.all fun x => x.thread / 8 != 15) &&
  completes (release 120 .cluster) s (fun _ s1 => s1.run.cur == 120 && array s1 == array s && cur s1 == cur s &&
    let arr := (array s).arrivals ++ [mine]
    let t0 := weaveNow s1 { array s with arrivals := arr }
    if n < 7 then true
    else match arr.find? fun x => x.thread / 8 % 8 == 0 with
      | none => false
      | some a0 =>
        if ok then (arr.all fun x => x.agrees a0) && completes (checkGang 1 a0) t0 (fun _ t1 => decide (t1 = t0)) &&
          decide ((array s).queue.length < 4) && decide (noRemote { t0 with run := { t0.run with cur := a0.thread } }) &&
          (array s).arrivals.all fun x => (s1.thread x.thread).st == .parked .gang && x.thread != 120
        else (arr.any fun x => !x.agrees a0) && !localVector 120 (cur s) && !s.allocating 120 && s1.engines.isEmpty)

/-- The seventh arrival, the eighth with equal operands, and the eighth with another row. -/
theorem witness_GangInstructions_park : gathers 6 0x200200100 true = true := by decide +kernel
theorem witness_GangInstructions_join : gathers 7 0x200200100 true = true := by decide +kernel
theorem witness_GangInstructions_mismatch : gathers 7 0x200210100 false = true := by decide +kernel

/-- A record for 128 elements of format 2 in one column, in the scratchpad: extents 128, 1, 1, 1 and the same tile. -/
def slabRecord : List Byte :=
  leBytes 8 0x080F000000000000 ++ leBytes 4 128 ++ leBytes 4 1 ++ leBytes 4 1 ++ leBytes 4 1 ++ leBytes 8 256 ++ leBytes 8 0 ++
    leBytes 8 0 ++ leBytes 2 128 ++ leBytes 2 1 ++ leBytes 2 1 ++ leBytes 2 1 ++ leBytes 8 0

def slabState : State :=
  let s := base fun t => gr 4 0x4100 (gr 5 0xF000000001000 t)
  { s with mem := s.mem.setBytes (placeScratch 8 0x1000) slabRecord, boot := { s.boot with rdymem := 0xFFF, rdycore := 0x1FF } }

theorem witness_SlabLoadForks :
    (let s := slabState
     quiet s ∧ full s 4 ∧ full s 5 ∧ full s 6 ∧ full s 7 ∧ (cur s).lists = [] ∧
     completes (checkObject (g s 4)) s (fun o t => o == 0x4100 && decide (t = s)) = true ∧
     completes (do
       let r ← readShape (g s 5)
       checkFat (fun _ => true) r.base (BitVec.ofNat 64 r.addr)
       shapeChecks (bloadChecks (g s 6) ((g s 7).toNat % 2 ^ 32) ((g s 7).toNat / 2 ^ 32) r)
       release s.run.cur (← scopeOf 0x4100)
       return r) s (fun _ t => t.run.cur == 64 && decide (quiet t)) = true) := by decide +kernel

/-- A BLOAD whose slab can be read, and one whose bytes lie in no region. -/
def bloads (rec' : List Byte) (fails : Bool) : Bool :=
  let s := engState (.bload 0 0 rec' 0)
  match s.engines with
  | e :: _ =>
    let r := shapeOf 0 rec'
    let readAll := (bloadReads 0 0 0 r).mapM fun p => do return (p.1, ← readSlab e.agent r.fmt p.2.1 p.2.2)
    flies s && bloadReady s e 0 r 0 && s.boot.rdymem.getLsbD 8 &&
    (match readAll s with
      | .ok _ s1 => !fails && s1.engines == s.engines
      | .error (.trap _) s1 => fails && s1.engines == s.engines
      | .error _ _ => false) && adds s fails
  | [] => false

theorem witness_SlabLoadCompletes :
    bloads slabRecord false = true ∧ bloads (leBytes 8 0x080FF00000000000 ++ slabRecord.drop 8) true = true := by decide +kernel

/-- An operation that the sequencer has taken or not, with slab 0 of every column VALID, or of column 0 alone. -/
def sequencerState (st : GangState) (n : Nat) : State :=
  let s := base id
  let op : GangOp := { id := 0, tile := true, setMode := true, ctx := 0, slab := 0, nstep := 1, row0 := 0, nrow := 1, afmt := 2,
                       bfmt := 2, abase := 0, astride := 256, threads := [], st := st }
  s.setCluster 1 { s.cluster 1 with weave := { (s.cluster 1).weave with
    queue := [op], slabs := (List.range n).map fun j => (j / 16 * 2048 + j % 16 * 128, { st := .valid, fmt := 2 }) } }

theorem witness_SequencerMoves :
    ((sequencerState .queued 0).cluster 1).weave.queue.map (·.st) = [.queued] ∧
    (let s := sequencerState .running 128
     let w := (s.cluster 1).weave
     w.queue.map (·.st) = [.running] ∧ w.checked = none ∧ s.engines = [] ∧ (∀ j, j < 128 → (w.column j 0).st = .valid) ∧
     0 < aStep 2 2 ∧ s.badLocal = [] ∧ s.latentLocal = []) ∧
    (let w := ((sequencerState .running 1).cluster 1).weave
     (w.column 1 0).st ≠ .valid ∧ (∀ i, i < 1 → (w.column i 0).st = .valid)) := by decide +kernel

/-- The same while its context stops: the queued head and the running operation are held; a BLOAD of the slab keeps it
loading. -/
theorem witness_SequencerMoves_held :
    (let s := fun (st : GangState) =>
       { sequencerState st 128 with stopping := [(0, { thread := 64, obj := 0, user := false, tctx := 0 })] }
     let head := fun (s : State) => (s.cluster 1).weave.queue.map fun o => (o.st, o.unchecked, s.weaveHeld 1 o)
     head (s .queued) = [(.queued, true, true)] ∧ head (s .running) = [(.running, true, true)] ∧
     head (sequencerState .running 128) = [(.running, true, false)]) ∧
    (let s := engState (.bload 0 0 slabRecord 0)
     let s := s.setCluster 1 { s.cluster 1 with weave := ((sequencerState .running 128).cluster 1).weave }
     (s.cluster 1).weave.queue.all fun o => o.unchecked && !s.weaveHeld 1 o && s.slabLoading 1 o) = true := by
  decide +kernel

/-- An element that the oracle names is read before its row step. -/
theorem witness_SequencerMoves_early :
    (let s := sequencerState .running 128
     let s := { s with run := { s.run with oracle := [6] } }
     let q := (s.cluster 1).weave.queue
     (q.map GangOp.unused).sum = 128 ∧ (pickElement q 5).map (·.2) = some 5 ∧ s.badLocal = [] ∧ s.latentLocal = [] ∧
     (q.all fun o => !s.weaveHeld 1 o) = true ∧ 0 < elemBytes 2) := by decide +kernel

/-- A byte read early is the one that the row step uses, whatever the row holds by then. -/
theorem test_element_read_early :
    (let op : GangOp := { id := 0, tile := true, setMode := true, ctx := 0, slab := 0, nstep := 1, row0 := 0, nrow := 1, afmt := 6,
                          bfmt := 6, abase := 0, astride := 256, threads := [], early := [(1, 9)] }
     op.rowOf [1, 2, 3]) = [1, 9, 3] := by decide

/-! Control registers, traps and RESUME -/

/-- A register of either kind: one that CRW may not write, in USER and in KERNEL mode, the ends of its range, and one it may. -/
theorem witness_ControlRegisterReads :
    quiet (base id) ∧ full (base id) 5 ∧ (control (base id) 0x010).isSome = true ∧ (control (base id) 0x116).isSome = true := by
  decide +kernel

theorem witness_ControlRegisterWrites :
    quiet (base (gr 5 7)) ∧ unwritable 0x179 false ∧ unwritable 0x160 true ∧ unwritable 0x002 (cur (base id)).kern.kmode ∧
    ¬ unwritable 0x002 (cur (kern id)).kern.kmode ∧ (base id).allocating 64 = false ∧
    localVector 64 (cur (base id)) = false ∧ full (base (gr 5 7)) 5 ∧
    (controlled 0x034 7 (cur (base id))).isSome = true ∧
    (controlledCore 0x024 7 {}).isSome = true ∧ (controlledCore 0x115 0xFFFFFFFFFFFFFFFF {}).isSome = true ∧ (cur (kern id)).kern.kmode = true ∧
    (let s := kern fun t => { t with kern := { t.kern with kvec := 0x2000 } }
     localVector s.run.cur (cur s) = true ∧ (cur s).kern.kvec ≠ 0 ∧ (cur s).kern.kvec.getLsbD 0 = false ∧
     s.allocating 0 = false) := by decide +kernel

theorem witness_RegisterWriteEvents :
    completes (contextOn (base id) 0) (base id) (fun busy _ => !busy) = true ∧
    (let s := { base id with boot := { (base id).boot with rdymem := 0xFFF } }
     let s := { s.setDie 0 { s.die 0 with regs := { (s.die 0).regs with ctxroot := 0x10001 } } with
       mem := s.mem.setBytes (0x10000 + 128 + 32) (leBytes 8 2) }
     completes (do release 64 .package; acquire 64 .package) (s.setDie 0 { s.die 0 with regs := { (s.die 0).regs with tracectl := 1 } })
       (fun _ _ => true) = true) ∧
    (match release 64 .package ((base id).setThread 64 { (base id).thread 64 with lost := [{ order := 0, faddr := 8 }] }) with
     | .error (.trap _) _ => true
     | _ => false) = true ∧
    isHub 9 = false ∧ dieOf 9 = 0 ∧ ((base id).core 9).undeclared = false ∧ quiet (base id) ∧
    (let s := (base id).setCore 9 { (base id).core 9 with undeclared := true }
     (s.core 9).undeclared = true ∧ quiet s) ∧
    (let s := base id
     let s := { s with saved := [{ ctx := 1, who := 9, evicted := some ({ s.core 9 with undeclared := true }, {}), dropped := true }] }
     quiet s ∧ ∃ w ∈ s.saved, w.who = 9 ∧ ∃ e, w.evicted = some e ∧ e.1.undeclared = true ∧ w.dropped = true) := by
  decide +kernel

theorem witness_TrapInstructions :
    quiet (base (gr 5 7)) ∧ full (base (gr 5 7)) 5 ∧ (base (gr 5 7)).allocating 64 = false := by decide +kernel

theorem witness_ExceptionReturn :
    quiet (kern id) ∧ (kern id).allocating 0 = false ∧ (cur (kern id)).kern.kepc.getLsbD 0 = false ∧
    (cur (kern fun t => { t with kern := { t.kern with kepc := 0x2001 } })).kern.kepc.getLsbD 0 = true := by decide +kernel

/-- The device kernel of die 0 resumes thread 64, which is in a given state, in a mode. -/
def resumeState (st : RunState) (utrap : BitVec 52) (y : Word) : State :=
  let s := kern fun t => gr 5 0x40 (gr 6 y t)
  s.setThread 64 { Thread.fresh 64 with st := st, ctl := { (Thread.fresh 64).ctl with utrap := utrap, epc := 0x2000 } }

def resumes (st : RunState) (utrap : BitVec 52) (y : Word) : Bool :=
  let s := resumeState st utrap y
  decide (quiet s) && decide (full s 5 ∧ full s 6 ∧ full s 7) && isDevKernel 0 &&
  completes (release 0 .die) s (fun _ s1 => s1.run.cur == 0 && decide (noRemote s1) && decide (quiet s1) && cur s1 == cur s &&
    completes (acquire 64 .die) (s1.setThread 64 { s1.thread 64 with st := .runnable }) (fun _ t =>
      t.run.cur == 0 && decide (quiet t) && decide (noRemote t)) &&
    completes (abortActivation 64) (s1.setThread 64 { s1.thread 64 with pipeMark := none }) (fun _ t =>
      t.run.cur == 0 && decide (quiet t) && decide (noRemote t)))

/-- A TRAPPED thread and one parked FPX, in every mode, with a UTRAP that is set, 0 and odd; and RESUME from another core. -/
theorem witness_ResumeResults :
    resumes .trapped 0x2000 0 = true ∧ resumes (.parked .fpx) 0x2000 2 = true ∧ resumes .trapped 0 2 = true ∧
    resumes .trapped 0x2001 2 = true ∧ resumes .trapped 0 3 = true ∧ resumes .runnable 0 0 = true ∧
    resumes .trapped 0 4 = true ∧ isDevKernel 8 = false := by decide +kernel


/-! D16, REP, the commit arbiter, TLBI, contexts -/

/-- The bytes of an instruction in memory. -/
def bytesOf (i : Instr) : List Byte := ((encode i).getD []).flatMap fun p => leBytes 2 p

/-- A USER thread of context 1 whose page 0 the cluster holds, with instructions from 0x1000 on. -/
def userCode (n : Nat) (l : List Instr) (f : Thread → Thread) : State :=
  let s := base fun t => f { t with kern := { t.kern with ctxid := 1 }, ctl := { t.ctl with repcnt := BitVec.ofNat 8 n } }
  let p : TlbEntry :=
    { space := .ctx 1, vbase := 0, units := 1, target := .phys 0, w := true, x := true, k := false, trace := false }
  let s := s.setCluster 1 { s.cluster 1 with tlb := [p] }
  let s := s.setDie 0 { s.die 0 with regs := { (s.die 0).regs with ctxroot := 0x20000 } }
  { s with
    mem := (s.mem.setBytes 0x1000 (l.flatMap bytesOf)).setBytes (0x20000 + 128 + 32) [3]
    boot := { s.boot with rdymem := 0xFFF, rdycore := 0x1FF } }

/-- RESUME mode 1: the unit at EPC can be read, through a translation that the cluster holds. -/
theorem witness_ResumeResults_unit :
    (let s := userCode 0 [.add false 8 5 6 false false] fun t =>
       { t with st := .trapped, ctl := { t.ctl with epc := 0x1000 } }
     let s := { s with run := { cur := 0 } }
     completes (release 0 .die) s (fun _ s1 => completes (unitLength 64 0x1000) s1 fun n s2 => n.1 == 4 &&
       completes (acquire 64 .die) (s2.setThread 64 { s2.thread 64 with st := .runnable, pc := 0x1004 }) fun _ t =>
         t.run.cur == 0 && decide (quiet t) && decide (noRemote t)) = true) := by decide +kernel

def dictState (k : Bool) (w : BitVec 32) : State :=
  let s := if k then kern (gr 5 7) else base (gr 5 7)
  s.setCore (s.run.cur / 8) { s.core (s.run.cur / 8) with dict := [(1023, w)] }

def dictGives (k : Bool) (w : BitVec 32) : Option (Except IllSub (Instr × Bool)) :=
  let s := dictState k w
  if dictForbidden w.toNat then none
  else match decodeOn (offerOf (s.run.cur / 8) (cur s).kern.kmode) w.toNat 0 with
    | .ok j => some (.ok (j, barred j (cur s).kern.kmode))
    | .error e => some (.error e)

/-- Dictionary words: a literal word, one of an undefined major, ERET in USER mode, ADD and ADDI. -/
theorem witness_DictionaryResults :
    quiet (dictState false 0) ∧ full (dictState false 0) 5 ∧ (dictState false 0).allocating 64 = false ∧
    dictForbidden 0x30000000 = true ∧ (dictGives false 0).any (fun r => r matches .error _) = true ∧
    (match dictGives false 0x9C000003 with | some (.ok (_, b)) => b | _ => false) = true ∧
    (match dictGives false 0x04E51800 with | some (.ok (.add _ 14 10 6 _ _, b)) => !b | _ => false) = true := by decide +kernel

def repeats (n c : Nat) (i : Instr) (f : Thread → Thread) (fails : Bool) : Bool :=
  let s := userCode c [.rep (BitVec.ofNat 8 n) 1 0 0, i] f
  decide (quiet s) && decide (noRemote s) && !localVector 64 (cur s) &&
  completes (follower 0x1004) s fun r s1 => cur s1 == cur s && s1.run.cur == 64 &&
    !strideUnused r.1 [1, 0, 0] && !strideBeyond r.1 [1, 0, 0] n && !barred r.2.1 (cur s).kern.kmode && decide (c < n) &&
    match decodeWord (instanceWord r.1 [1, 0, 0] c) 0 with
    | .error _ => false
    | .ok j =>
      let u : RepUnit := { count := BitVec.ofNat 8 n, sd := 1, sa := 0, sb := 0, word := r.1, len := r.2.2.1 }
      match perform j r.2.2.1 (s1.setThread 64 { cur s1 with pc := 0x1004, rep := some u }) with
      | .ok _ t => !fails && t.run.cur == 64 && decide (quiet t) && decide (noRemote t)
      | .error (.trap x) t => fails && t.run.cur == 64 && decide (noRemote t) && (cur t).pc == 0x1004 &&
          !t.allocating 64 && !localVector 64 (cur t) && x.cause != .pipe
      | _ => false

/-- The first instance of two and the last; a load from an odd address as an instance that traps; count 0. -/
theorem witness_RepeatResults_first : repeats 2 0 (.add false 8 5 6 false false) id false = true := by decide +kernel
theorem witness_RepeatResults_last : repeats 2 1 (.add false 8 5 6 false false) id false = true := by decide +kernel
theorem witness_RepeatResults_trap :
    repeats 2 0 (.ld false 8 5 .self .u64 false 0) (gr 5 0xF000000000001) true = true := by decide +kernel
theorem witness_RepeatResults_none :
    completes (fetchInstr 0x1004) (userCode 0 [.rep 0 1 0 0, .add false 8 5 6 false false] id) (fun r t =>
      r.2.2 == 4 && t.run.cur == 64 && decide (quiet t) && decide (noRemote t)) = true := by decide +kernel

/-- What the checks of a REP before its first instance answer of its strides and its follower. -/
def repChecks (n : Nat) (sd sb : BitVec 3) (i : Instr) : Option (Bool × Bool × Bool) :=
  let s := userCode 0 [.rep (BitVec.ofNat 8 n) sd 0 sb, i] id
  match follower 0x1004 s.askAgain with
  | .ok r s1 =>
    if cur s1 = cur s ∧ noRemote s1 ∧ s1.allocating 64 = false ∧ localVector 64 (cur s1) = false then
      some (strideUnused r.1 [sd.toNat, 0, sb.toNat], strideBeyond r.1 [sd.toNat, 0, sb.toNat] n,
        barred r.2.1 (cur s).kern.kmode)
    else none
  | _ => none

/-- ADDI has no field b to stride; a destination would pass g31; GSET is KERNEL-only. -/
theorem witness_RepeatResults_fails :
    repChecks 2 1 1 (.addi false 5 5 false 3) = some (true, false, false) ∧
    repChecks 40 1 0 (.add false 8 5 6 false false) = some (false, true, false) ∧
    repChecks 2 0 0 (.gset 4 5 6 false false) = some (false, false, true) := by decide +kernel

/-- A unit under way, before its last instance and past it. -/
theorem witness_RepeatResults_underWay :
    (match follower 0x1004 (userCode 1 [.rep 2 1 0 0, .add false 8 5 6 false false] id) with
     | .ok r _ =>
       let u : RepUnit := { count := 2, sd := 1, sa := 0, sb := 0, word := r.1, len := r.2.2.1 }
       let s := userCode 1 [.rep 2 1 0 0, .add false 8 5 6 false false] fun t => { t with rep := some u }
       decide (quiet s) && decide (noRemote s.askAgain) && (cur s).rep.isSome &&
       (match decodeWord (instanceWord u.word [1, 0, 0] 1) 0 with
        | .ok j =>
          completes (perform j u.len) (s.askAgain.setThread 64 { cur s.askAgain with pc := 0x1004, rep := some u })
            fun _ t => t.run.cur == 64 && decide (quiet t) && decide (noRemote t)
        | .error _ => false)
     | _ => false) = true := by decide +kernel

/-- A list of core 8 waits for the commit arbiter of die 0. -/
def awaitState (ready : Bool) (sig : List Nat) (lines : List (Nat × Nat)) (work : Option (List Entry)) : State :=
  let s := base id
  let a : Activation :=
    { cls := 2, slot := ⟨0x4000, 64, some 5, 2⟩, header := 0, ordered := true, sig := sig }
  let w : Awaiting := { who := 8, act := a, descr := 0, key := [7, 9, 0], chan := 5, ctx := 0, htid := 0, work := work, gen := 1 }
  let s := s.setDie 0 { s.die 0 with awaiting := [w], commits := { (s.die 0).commits with lines := lines } }
  let s := s.setCluster 1 { s.cluster 1 with descrs := [(0, { list := some { st := .committing 1 false, owner := 8 } })] }
  { s with boot := { s.boot with rdyeng := if ready then 0xFFF else 0 } }

def commits (work : Option (List Entry)) : Bool :=
  let s := awaitState true [] [] work
  match (s.die 0).awaiting with
  | [w] =>
    mayCommit s 0 0 w && !conflicts s 0 w && s.boot.rdyeng.getLsbD 8 &&
    completes (match work with
      | some es => pure es
      | none => do
        match ← applyEntries w.agent (w.list? (s.cluster 1)) none w.ctx with
        | .ok es => pure es
        | .error _ => throw .stall) s fun es s1 =>
      completes (performFrom w.agent 64 (fun _ va => commitAborted 0 0 va) (modAwait 0 0 fun w => { w with pos := w.pos + 1 })
        (es.drop w.pos)) (s1.setDie 0 { s1.die 0 with awaiting := (s1.die 0).awaiting.modify 0 fun w => { w with work := some es } })
        fun _ s2 => match (s2.die 0).awaiting[0]? with
          | some w' => completes (committed 0 0 w' es) s2 fun _ _ => true
          | none => false
  | _ => false

/-- A list that waits for its unit, one that commits from the start, and one whose commit has begun. -/
theorem witness_CommitResults :
    commits none = true ∧ commits (some []) = true ∧ (awaitState false [] [] none).boot.rdyeng.getLsbD 8 = false := by
  decide +kernel

/-- A signature with every bit set conflicts with a line committed later, whatever its signature bits are. -/
theorem witness_CommitResults_conflict :
    let s := awaitState true (List.range 2048) [(1, 0x100)] none
    ∃ w, (s.die 0).awaiting[0]? = some w ∧ mayCommit s 0 0 w = true ∧ conflicts s 0 w = true := by
  refine ⟨_, rfl, by decide +kernel, ?_⟩
  have h : (signatureBits 0x100).all (fun b => (List.range 2048).contains b.toNat) = true := by
    simp only [List.all_eq_true, List.contains_eq_mem, List.mem_range, decide_eq_true_eq]
    exact fun b _ => b.isLt
  simp only [conflicts, List.any_eq_true]
  exact ⟨(1, 0x100), by decide +kernel, by simp only [h]; decide +kernel⟩

/-- The list of a commit that meets a conflict, while it alone is to be applied and while others that named it wait too. -/
theorem witness_CommitResults_list :
    let list? := fun (st : ListState) =>
      let s := awaitState true [] [] none
      let s := s.setCluster 1 { s.cluster 1 with descrs := [(0, { list := some { st := st, owner := 8 } })] }
      (s.die 0).awaiting.map fun w => w.list? (s.cluster 1) == some { st := st, owner := 8 }
    list? (.committing 1 false) = [true] ∧ list? (.committing 2 false) = [true] ∧ list? (.applying false 2 false) = [true] := by
  decide +kernel

def tlbiState (x z : Word) : State := base fun t => gr 4 0x4100 (gr 5 x (gr 6 z t))

/-- TLBI of one unit, of the last, and of everything; malformed words of each kind. -/
theorem witness_ShootdownResults :
    (let s := tlbiState 0x40000 0x100001
     quiet s ∧ full s 4 ∧ full s 5 ∧ full s 6 ∧ (cur s).lists = [] ∧
     completes (checkObject (g s 4)) s (fun o t => o == 0x4100 && decide (t = s)) = true ∧
     completes (objectRelease 0x4100) s (fun _ t => t.run.cur == 64 && decide (quiet t)) = true ∧
     s.allocating 64 = false) ∧
    (0xFFFFFFFC0000 : Nat) % 2 ^ 18 = 0 ∧ 0xFFFFFFFFC0000 + 1 * 2 ^ 18 ≤ 2 ^ 52 ∧
    (0x10001 : Nat) / 2 ^ 16 = 1 ∧ 2 ≤ (0x20001 : Nat) / 2 ^ 16 % 4 ∧ (0x40001 : Nat) / 2 ^ 18 % 4 ≠ 0 := by decide +kernel

theorem witness_ShootdownResults_complete :
    (let s := engState (.tlbi 1 0 4 false)
     flies s = true ∧ s.links.waits = [] ∧
     completes (do
       dropSpace (.ctx 1) 0 4
       flushAll (fun _ => true) fun l =>
         l.space == .ctx 1 && decide (0 ≤ l.vline / 2 ^ 12) && decide (l.vline / 2 ^ 12 < 0 + 4)
       drainWhere fun r => r.src.ctx == 1) s (fun _ s1 => s1.links.waits.isEmpty && s1.engines == s.engines && adds s1 false)
       = true) := by decide +kernel

/-- The device kernel of die 0 with a context table, context 1 in a STATE. -/
def ctxState (st : Nat) (x : Word) : State :=
  let s := kern fun t => gr 5 x (gr 6 0x4100 t)
  let s := s.setDie 0 { s.die 0 with regs := { (s.die 0).regs with ctxroot := 0x20000 } }
  { s with
    mem := s.mem.setBytes (0x20000 + 128 + 32) [BitVec.ofNat 8 st, 0, 0, 0, 1, 1, 1, 1]
    boot := { s.boot with rdymem := 0xFFF, rdycore := 0x1FF } }

def ctxDoes (st : Nat) (action : M Nat) : Bool :=
  let s := ctxState st 1
  decide (quiet s) && completes (contextState 0 1) s (fun y t => y == st && decide (t = s)) &&
  completes action s fun _ s1 => completes (contextState 0 1) (s1.dropAsked 0) fun _ s2 => s2.run.cur == 0 && decide (quiet s2)

/-- Each command in a STATE that allows it. -/
theorem witness_ContextCommands :
    ctxDoes 0 (createContext 1 0 0) = true ∧ ctxDoes 7 (createContext 1 0 7) = true ∧
    ctxDoes 1 (do setContextState 0 1 3; learnNotify 0 1; return 0) = true ∧ ctxDoes 1 (pure 1) = true ∧
    ctxDoes 2 (do setContextState 0 1 7; dropSpace (.ctx 1) 0 (2 ^ 34); dropContextLists 1; return 0) = true ∧
    ctxDoes 3 (resetContext 1 0 3) = true ∧
    ctxDoes 5 (do
      ((ctxState 5 1).contextCores 1).forM (storeBlock 0 1)
      ((ctxState 5 1).contextCores 1).forM (evictCore 1)
      setContextState 0 1 13
      return 0) = true ∧
    completes (createContext 1 0 0) (ctxState 0 1) (fun v _ => v == 0) = true ∧
    isHub (0 / 8) = false ∧ isHub 0x2000 = true := by decide +kernel

/-- GSTOP of a RUNNING context and GRESUME of a STOPPED one; other states, and CTXID 0. -/
theorem witness_StopAndResume :
    (let s := ctxState 3 1
     quiet s ∧ full s 5 ∧ full s 6 ∧ full s 7 ∧ (cur s).lists = [] ∧ isHub (s.run.cur / 8) = false ∧
     (g s 5).toNat % 2 ^ 16 = 1 ∧ (g s 5).toNat < 2 ^ 16 ∧
     completes (checkObject (g s 6)) s (fun o t => o == 0x4100 && decide (t = s)) = true ∧
     completes (contextState 0 1) s (fun y t => y == 3 && decide (t = s)) = true ∧
     completes (beginStop 0 1 0x4100 0 3) s (fun v s1 => v == 0 && completes (contextState 0 1) (s1.dropAsked 0) fun _ s2 =>
       s2.run.cur == 0 && decide (quiet s2) && !(cur s2).isEmpty 7) = true) ∧
    completes (resumeContext 0 1 0 5) (ctxState 5 1) (fun v s1 => v == 0 && completes (contextState 0 1) (s1.dropAsked 0) fun _ s2 =>
      s2.run.cur == 0 && decide (quiet s2) && !(cur s2).isEmpty 7) = true ∧
    2 ^ 16 ≤ (g (ctxState 3 0x10001) 5).toNat ∧ (g (ctxState 3 0) 5).toNat % 2 ^ 16 = 0 := by decide +kernel

def stopping (busy : Bool) : State :=
  let s := ctxState 4 1
  let s := s.setThread 64 { s.thread 64 with kern := { (s.thread 64).kern with ctxid := 1 } }
  let s := s.setCore 8 { s.core 8 with held := some (0, 0) }
  let s := { s with
    launches := [(0, { st := .running, ctx := 1, die := 0, queue := 512, record := 0, stages := [{ cores := [8], weave := false }] })]
    stopping := [(1, { thread := 0, obj := 0xF000000000100, user := false, tctx := 0 })] }
  if busy then { s with flights := [flight none 0] } else s

theorem witness_StopAndResume_done :
    ((stopping true).stopping.find? 1).isSome = true ∧ stopReady (stopping true) 1 = false ∧
    stopReady (stopping false) 1 = true ∧
    completes (do haltWeaves 1; ((stopping false).contextCores 1).mapM (saveCore 0 1)) (stopping false) (fun oks s1 =>
      completes (setContextState 0 1 5) s1 fun _ s2 =>
        completes (completionAdd { k := 2 ^ 36 + 1, v := { who := 0, user := false, ctx := 0 }, vec := {}, engine := true }
          0xF000000000100 (oks.any (!·))) { s2 with stopping := s2.stopping.del 1 } fun r _ => done r) = true := by
  decide +kernel


/-! Frames, power, kills and loads -/

/-- The kernel of die 0 works on frame 5, whose record is as given; thread 0 waits for a transaction or not. -/
def frameState (c : Custody) (y : Word) (w : Option (Option Nat)) : State :=
  let s := kern fun t => gr 5 (5 * 2 ^ 18) (gr 6 y { t with waiting := w })
  { s with
    fcu := { s.fcu with records := if c == {} then [] else [(5, c)] }
    boot := { s.boot with rdymem := 0xFFF, rdycore := 0x1FF } }

/-- What a transaction does before its answer goes through, and so does the acquire after it. -/
def transacts (s : State) (m : M Unit) : Bool :=
  decide (quiet s) && decide (full s 5 ∧ full s 6 ∧ full s 4) && (cur s).lists.isEmpty && (cur s).waiting.isNone &&
  s.boot.rdycore.getLsbD 8 && (g s 5).toNat % 2 ^ 18 == 0 && decide ((g s 5).toNat < 2 ^ 42) &&
  completes (release 0 .package) s (fun _ s1 => s1.run.cur == 0 && cur s1 == cur s && s1.boot == s.boot &&
    s1.hasMemory (5 * 2 ^ 18) && (s1.custody 5).st != .revoking &&
    completes m s1 fun _ t => t.run.cur == 0 && cur t == cur s &&
      completes (acquire 0 .package) (wrote t 0 4 0) fun _ u => u.run.cur == 0 && decide (quiet u))

def mine : Custody := { st := .owned, owner := some .device }
def theirs : Custody := { st := .owned, owner := some .host }
def lentOut : Custody := { st := .lent, owner := some .device, borrower := some .host, interval := 1000 }
def lentIn : Custody := { st := .lent, owner := some .host, borrower := some .device, interval := 1000 }

def noticed (s : State) (c : Custody) (kind deadline : Nat) : Bool :=
  transacts s (do modify (fun s => custodyNow s 5 c); notice .host kind (some .device) 5 deadline s.time)

theorem witness_FrameTransactions :
    mySide (frameState {} 0 none) = .device ∧
    noticed (frameState mine 1 none) { mine with st := .offered, keep := true } 1 0 = true ∧
    noticed (frameState mine 0 none) { lentOut with interval := 200000 } 4 0 = true ∧
    noticed (frameState mine 1000 none) lentOut 4 0 = true ∧
    noticed (frameState mine 1000000000 none) { lentOut with interval := 1000000000 } 4 0 = true ∧
    noticed (frameState { mine with st := .offered } 0 none) mine 2 0 = true ∧
    noticed (frameState lentOut 0 none) { lentOut with st := .recalling, deadline := 1000 } 5 1000 = true ∧
    transacts (frameState theirs 0 none) (pure ()) = true ∧ transacts (frameState lentIn 0 none) (pure ()) = true ∧
    transacts (frameState { theirs with st := .offered } 0 none) (pure ()) = true ∧
    completes (release 0 .package) (frameState { theirs with st := .revoking } 0 none) (fun _ s1 =>
      (s1.custody 5).st == .revoking && s1.run.cur == 0 && s1.hasMemory (5 * 2 ^ 18)) = true := by decide +kernel

/-- An address that is not a frame's, one past the last, one without memory. -/
theorem witness_FrameTransactions_operands :
    ¬ (5 * 2 ^ 18 + 1) % 2 ^ 18 = 0 ∧ ¬ 2 ^ 42 < 2 ^ 42 ∧
    (frameState {} 0 none).hasMemory (2 ^ 39 - 2 ^ 18) = false ∧ (2 ^ 39 - 2 ^ 18) % 2 ^ 18 = 0 := by decide +kernel

def zeroReq (p : Nat) : Req :=
  { kind := .wrh, src := { who := 0, ctx := 0, engine := true }, pline := p, mask := BitVec.allOnes 64 }

structure Calm (s t : State) : Prop where
  homes : t.homes = {}
  boot : t.boot = s.boot
  links : t.links = s.links
  dies : t.dies = s.dies
  run : t.run = s.run
  threads : t.threads = s.threads
  notify : t.notifyAt = s.notifyAt

theorem zero_line (s : State) (p : Nat) (hh : s.homes = {}) (hm : s.hasMemory (p * 64) = true)
    (hr : s.homeReady (zeroReq p) = true)
    (hg : (s.die (homeDie p)).mig.st = .idle) (hn : s.notifyAt = [])
    (hw : ∀ f : Reason → Bool, s.threads.map (fun kt => (kt.1, kt.2.wakeIf f)) = s.threads) :
    ∃ rep t, serve (zeroReq p) s = .ok rep t ∧ Calm s t := by
  have hp : placeReq s (zeroReq p) = some (zeroReq p) := by
    simp [placeReq, zeroReq, hm, State.redirect, hg]
  have hd : s.dirOf p = {} := by simp [State.dirOf, hh]; rfl
  have hs : { s with homes := ⟨[], [], [], []⟩ } = s := by cases s; simp_all
  have h1 : drainLine afadd p s = .ok () s := by
    unfold drainLine
    have hf : finishBusy afadd p s = .ok () s := by
      unfold finishBusy
      rw [M.run_bind_ok (M.run_get s), hd]
      rfl
    rw [M.run_bind_ok hf, M.run_bind_ok (M.run_get s), hh]
    rfl
  have h2 : ∃ rep t, finishReq afadd (zeroReq p) 0 s = .ok rep t ∧ Calm s t := by
    have hset : ∀ s' : State, s'.homes = {} → setDir p {} s' = .ok () s' := by
      intro s' h; cases s'; simp_all [setDir, Dir.needed, Store.del]
    have hst : ∃ t, storeBytes Note.quiet p {} (BitVec.allOnes 64) 0 (traceKind .wrh) (zeroReq p).src true s = .ok () t ∧
        Calm s t := by
      unfold storeBytes
      rw [M.run_bind_ok (rfl : (List.forM [] _ : M Unit) s = .ok () s)]
      have e1 : (BitVec.allOnes 64 &&& ~~~(wordBytes ((({} : Dir).owners).foldl (fun acc p => acc ||| ((1 : BitVec 16) <<< p.1)) 0))) =
        BitVec.allOnes 64 := by
        show (BitVec.allOnes 64 &&& ~~~(wordBytes 0)) = _
        decide +kernel
      simp only [e1, writeHome, notifyHook, putBytes, wakeAll, if_true]
      refine ⟨_, rfl, ?_⟩
      constructor <;> simp [hn, hh, hw]
    obtain ⟨t, ht, hc⟩ := hst
    have hs' : setDir p {} s = .ok () s := hset s hh
    have hl : ∃ l, currentLine p {} s = .ok l s := ⟨_, rfl⟩
    obtain ⟨l, hl⟩ := hl
    refine ⟨.ok ⟨l, ~~~(wordBytes 0)⟩, t, ?_, hc⟩
    have hx : s.dirOf (zeroReq p).pline = {} := hd
    unfold finishReq
    rw [M.run_bind_ok (M.run_get s), hx]
    have hreads : (zeroReq p).reads {} = false := rfl
    have hl' : currentLine (zeroReq p).pline {} s = .ok l s := hl
    have hk : (zeroReq p).kind = .wrh := rfl
    have hcopies : (zeroReq p).copies {} = false := rfl
    have hk1 : ((zeroReq p).kind == .rdh) = false := rfl
    have hk2 : ((zeroReq p).kind == .atom) = false := rfl
    have hk3 : decide ((zeroReq p).kind = .rdh) = false := rfl
    have hk4 : decide ((zeroReq p).kind = .atom) = false := rfl
    simp only [hreads, hcopies, hk3, hk4, Bool.or_self, Bool.false_eq_true, if_false]
    rw [M.run_bind_ok (M.run_pure false s), M.run_bind_ok (M.run_pure false s)]
    simp only [Bool.and_false, Bool.false_and, Bool.or_self, Bool.false_eq_true, if_false]
    rw [M.run_bind_ok (M.run_get s), hx, M.run_bind_ok hl', hk]
    refine (M.run_bind_ok (a := ()) (s' := s) hs').trans ?_
    exact (M.run_bind_ok ht).trans rfl
  obtain ⟨rep, t, ht, hcalm⟩ := h2
  refine ⟨rep, t, ?_, hcalm⟩
  have hr' := hr
  have h1' : drainLine afadd (zeroReq p).pline s = .ok () s := h1
  have hal : allAsks s (zeroReq p) = [] := by
    show lineAsks s (s.dirOf p) (zeroReq p) ++ wordAsks (s.dirOf p) (zeroReq p) = []
    rw [hd]; rfl
  have hpre : prepare afadd (zeroReq p) s = .ok () s := by
    have ha : absorb (noteAt (zeroReq p).pline) (zeroReq p).pline (zeroReq p).core s = .ok () s := by
      unfold absorb
      rw [M.run_bind_ok (M.run_get s), hh]
      rfl
    unfold prepare
    rw [M.run_bind_ok ha, M.run_bind_ok (M.run_get s)]
    rfl
  have hw1 : serveWhole afadd (zeroReq p) s = .ok rep t := by
    unfold serveWhole
    rw [M.run_bind_ok hpre, M.run_bind_ok (M.run_get s), hal]
    exact ht
  unfold serve serveWith
  rw [M.run_bind_ok (M.run_get s)]
  simp only [hp]
  rw [M.run_bind_ok (M.run_get s)]
  simp only [hr']
  simp [M.run_bind, h1', hw1]

theorem zero_frame (n : Nat) (l : List Nat) (s : State) (hh : s.homes = {})
    (hm : ∀ i ∈ l, s.hasMemory ((n * 4096 + i) * 64) = true) (hr : ∀ i ∈ l, s.homeReady (zeroReq (n * 4096 + i)) = true)
    (hg : ∀ d, (s.die d).mig.st = .idle) (hn : s.notifyAt = [])
    (hw : ∀ f : Reason → Bool, s.threads.map (fun kt => (kt.1, kt.2.wakeIf f)) = s.threads) :
    ∃ t, (l.forM fun i => do let _ ← serve (zeroReq (n * 4096 + i))) s = .ok () t ∧ Calm s t := by
  induction l generalizing s with
  | nil => exact ⟨s, rfl, hh, rfl, rfl, rfl, rfl, rfl, rfl⟩
  | cons i l ih =>
    obtain ⟨rep, t, ht, hc⟩ := zero_line s (n * 4096 + i) hh (hm i (by simp)) (hr i (by simp)) (hg _) hn hw
    obtain ⟨u, hu, hd⟩ := ih t hc.homes
      (fun j hj => by have := hm j (by simp [hj]); simpa [State.hasMemory, hc.boot] using this)
      (fun j hj => by have := hr j (by simp [hj]); simpa [State.homeReady, State.routeWaits, State.routeDead, State.memReady, hc.boot, hc.links] using this)
      (fun d => by have := hg d; simpa [State.die, hc.dies] using this) (hc.notify.trans hn) (by rw [hc.threads]; exact hw)
    refine ⟨u, ?_, hd.homes, hd.boot.trans hc.boot, hd.links.trans hc.links, hd.dies.trans hc.dies, hd.run.trans hc.run, hd.threads.trans hc.threads, hd.notify.trans hc.notify⟩
    have h1 : (do let _ ← serve (zeroReq (n * 4096 + i)) : M Unit) s = .ok () t := (M.run_bind_ok ht).trans rfl
    exact (M.run_bind_ok h1).trans hu

/-- FACCEPT of a FREE frame: zeroing it goes through, and changes neither the thread nor who issues. -/
theorem witness_FrameTransactions_free :
    let s := frameState {} 0 none
    (s.custody 5).st = .free ∧ ∃ t, zeroFrame 5 s = .ok () t ∧ t.run = s.run ∧ cur t = cur s := by
  refine ⟨rfl, ?_⟩
  obtain ⟨t, ht, hc⟩ := zero_frame 5 (List.range 4096) (frameState {} 0 none) rfl (by
    have h : (List.range 4096).all (fun i => (frameState {} 0 none).hasMemory ((5 * 4096 + i) * 64)) = true := by decide +kernel
    exact List.all_eq_true.mp h) (by
    have h : (List.range 4096).all (fun i => (frameState {} 0 none).homeReady (zeroReq (5 * 4096 + i))) = true := by decide +kernel
    exact List.all_eq_true.mp h) (fun d => rfl) rfl (fun f => rfl)
  exact ⟨t, ht, hc.run, by simp only [cur, State.thread, hc.run, hc.threads]⟩

/-- FACCEPT of a frame that the host offered, FRETURN of one's own and of a borrowed one begin a revocation. -/
theorem witness_FrameTransactions_revoke :
    completes (revoke .host 5 (.accept true) (some 0) 7) ((frameState { theirs with st := .offered } 0 none).setThread 0
      { (frameState { theirs with st := .offered } 0 none).thread 0 with waiting := some none }) (fun _ _ => true) = true ∧
    completes (revoke .device 5 .free (some 0) 7) (frameState mine 0 (some none)) (fun _ _ => true) = true ∧
    completes (revoke .device 5 (.back false) (some 0) 7) (frameState lentIn 0 (some none)) (fun _ _ => true) = true := by
  decide +kernel

theorem witness_FrameAnswers :
    (let s := frameState mine 1 (some (some 0))
     quiet s ∧ full s 5 ∧ full s 6 ∧ full s 4 ∧ (cur s).lists = [] ∧ (cur s).waiting = some (some 0) ∧
     completes (acquire 0 .package) (wrote (s.setThread 0 { cur s with waiting := none }) 0 4 0)
       (fun _ t => t.run.cur == 0 && decide (quiet t)) = true ∧ s.boot.rdycore.getLsbD 8 = true ∧
     (g s 5).toNat % 2 ^ 18 = 0 ∧ (g s 5).toNat < 2 ^ 42 ∧ s.hasMemory ((g s 5).toNat / 2 ^ 18 * 2 ^ 18) = true ∧
     (g s 6).toNat = 1) ∧
    (cur (frameState mine 0 (some none))).waiting = some none ∧ (g (frameState mine 2 none) 6).toNat = 2 := by decide +kernel

/-- A recall whose deadline is now, and one whose deadline is later. -/
theorem witness_FrameRevocations :
    (let s := frameState { lentOut with st := .recalling } 0 none
     (s.custody 5).st = .recalling ∧ (s.custody 5).borrower = some .host ∧ (s.custody 5).deadline.toNat ≤ s.time ∧
     completes (revoke .host 5 (.back true) none 0) s (fun _ _ => true) = true) ∧
    (frameState mine 0 none).time < ({ lentOut with deadline := 1 } : Custody).deadline.toNat ∧
    ((frameState mine 0 none).custody 5).st ≠ .revoking := by decide +kernel

/-- Two transactions that wait at a frame: an offer that its side may not make, and a return that begins a revocation. -/
def lineState' : State :=
  frameState { mine with line := [⟨0, .offer, .host, 0⟩, ⟨0, .give, .device, 0⟩] } 0 (some none)

theorem witness_FrameRevocations_line :
    (lineState'.custody 5).st ≠ .revoking ∧
    completes (deal .offer .host 5 0 0) (custodyNow lineState' 5 { mine with line := [⟨0, .give, .device, 0⟩] }) (fun r t =>
      r == some 2 && completes (serveTurns 5 1) t fun _ _ => true) = true ∧
    completes (deal .give .device 5 0 0) (custodyNow lineState' 5 mine) (fun r t =>
      r == none && (t.custody 5).st == .revoking && completes (serveTurns 5 0) t fun _ _ => true) = true := by decide +kernel

def ends (w : After) (side owner : Side) (m : M Unit) : Bool :=
  let c : Custody := { lentOut with st := .revoking, owner := some owner, revoked := some side, after := w }
  let s := frameState c 0 none
  (s.custody 5).st == .revoking && (s.custody 5).after == w && (s.custody 5).revoked == some side &&
  (s.custody 5).owner == some owner &&
  completes (do
      drainWhere fun r => r.pline / 4096 == 5
      flushAll (fun who => match side with | .host => isHub who | .device => !isHub who) fun l =>
        match l.home with | .here p => p / 4096 == 5 | .away _ _ => false) s fun _ s1 => s1.fcu == s.fcu &&
    completes m (custodyNow s1 5 { st := .owned, owner := some .device }) fun _ t => completes (serveTurns 5 0) t fun _ _ => true

theorem witness_FrameRevocations_end :
    ends .free .device .device (pure ()) = true ∧ ends (.accept false) .host .host (notice .host 3 (some .device) 5 0 0) = true ∧
    ends (.back false) .host .device (notice .device 6 (some .host) 5 0 0) = true ∧
    ends (.back true) .host .device (do notice .device 7 none 5 0 0; notice .host 7 none 5 0 0) = true ∧
    (∀ s : State, s = frameState { lentOut with st := .revoking } 0 none →
      completes (do
        dropTlbs (fun who => isHub who) fun e => match e.target with
          | .phys b => decide (b / 2 ^ 18 ≤ 5) && decide (5 < b / 2 ^ 18 + e.units)
          | .remote _ _ => false
        modify fun st => { st with walks := st.walks.filter fun q => !isHub (q.thread / 8) }
        flushAll (fun who => isHub who) fun l => match l.home with | .here p => p / 4096 == 5 | .away _ _ => false) s
        (fun _ _ => true) = true) := by
  refine ⟨by decide +kernel, by decide +kernel, by decide +kernel, by decide +kernel, ?_⟩
  rintro _ rfl
  decide +kernel

/-- Hub core 0 changes the power of die 1 from one state to another. -/
def powerState (who : Nat) (x : Word) (p : PState) (clear : Bool) (fcu : List (Nat × Custody)) : State :=
  let k := who * 8
  let s := { State.reset.setThread k (gr 5 x { Thread.fresh k with st := .runnable, pc := 0x1000 }) with run := { cur := k } }
  let s := s.setDie 1 { s.die 1 with regs := { (s.die 1).regs with power := p, tripClear := clear } }
  { s with fcu := { s.fcu with records := fcu }, boot := { s.boot with rdymem := 0xFFF, rdycore := 0x1FF } }

def powers (x : Word) (p : PState) (clear : Bool) (goal : PState) : Bool :=
  let s := powerState 0x2000 x p clear []
  let k := 0x10000
  decide (quiet s) && decide (full s 5 ∧ full s 4) && (cur s).lists.isEmpty && (cur s).waiting.isNone && isHub 0x2000 &&
  decide ((g s 5).toNat < 16) && completes (contextOn s 1) s (fun b t => !b && decide (t = s)) && !framesUsed s 1 &&
  completes (release k .package) s (fun _ s1 => s1.run.cur == k && completes (changePower 1 goal) s1 fun _ s2 =>
    (s2.die 1).regs.pchange.isNone && completes (acquire k .package) s2 fun _ t => t.run.cur == k && decide (quiet t) &&
      !(cur t).isEmpty 4)

/-- P0 to P1, P2 and P3, and out of a trip that has cleared; off the hub; malformed; a trip that has not cleared; a frame of
the die in use. -/
theorem witness_PowerResults :
    powers 5 .p0 false .p1 = true ∧ powers 6 .p0 false .p2 = true ∧ powers 7 .p0 false .p3 = true ∧
    powers 4 .trip true .p0 = true ∧ isHub ((powerState 8 5 .p0 false []).run.cur / 8) = false ∧
    16 ≤ (g (powerState 0x2000 16 .p0 false []) 5).toNat ∧
    ((powerState 0x2000 4 .trip false []).die 1).regs.tripClear = false ∧
    framesUsed (powerState 0x2000 7 .p0 false [(2 ^ 22, mine)]) 1 = true ∧
    (let s := powerState 0x2000 4 .p3 false []
     completes (contextOn s 1) s (fun b t => !b && decide (t = s)) && completes (release 0x10000 .package) s fun _ s1 =>
       s1.run.cur == 0x10000 && completes (changePower 1 .p0) s1 fun _ s2 => s2.run.cur == 0x10000 &&
         (s2.die 1).regs.pchange.isSome) = true ∧
    (let s := powerState 0x2000 4 .p0 false []
     let s := s.setThread 0x10000 { s.thread 0x10000 with waiting := some none }
     decide (quiet s) && (s.die 1).regs.pchange.isNone && completes (acquire 0x10000 .package) (s.setThread 0x10000 { cur s with
       waiting := none }) fun _ t => t.run.cur == 0x10000 && decide (quiet t) && decide (free t 4)) = true ∧
    ((powerState 0x2000 7 .p3 false []).die 1).regs.power = .p3 ∧ ((powerState 0x2000 7 .p0 false []).die 1).regs.power ≠ .trip
    := by decide +kernel

/-- A context that is RUNNING holds core 9 of die 0. -/
theorem witness_PowerResults_context :
    (let s := ctxState 3 1
     let s := (s.setCore 9 { s.core 9 with held := some (0, 0) })
     let s := { s with launches := [(0, { st := .running, ctx := 1, die := 0, queue := 512, record := 0 })] }
     completes (contextOn s 0) s (fun b t => b && decide (t = s)) = true) := by decide +kernel

def killState (x z : Word) (dead : Bool) : State :=
  let s := kern fun t => gr 5 x (gr 6 z t)
  let s := if dead then s.setCore 9 { s.core 9 with killed := true } else s
  { s with boot := { s.boot with rdymem := 0xFFF, rdycore := 0x1FF } }

/-- KILLCORE of core 9, alive and dead; of the device kernel, of another die's core, of a hub core; malformed; from a hub core. -/
theorem witness_KillAndLoad :
    (let s := killState 9 0 false
     quiet s ∧ full s 5 ∧ full s 6 ∧ full s 4 ∧ (cur s).lists = [] ∧ isHub (s.run.cur / 8) = false ∧
     completes (release 0 .die) s (fun _ s1 => s1.run.cur == 0 && decide (quiet s1) && cur s1 == cur s &&
       !(s1.core 9).killed && completes (killCore 9 0 false) s1 fun _ t => t.run.cur == 0 && decide (quiet t)) = true ∧
     dieOf 9 = dieOf 0 ∧ isDevKernel 9 = false ∧ noRemote s) ∧
    ((killState 9 0 true).core 9).killed = true ∧ isDevKernel 0 = true ∧ dieOf 2049 ≠ dieOf 0 ∧ isHub 0x2001 = true ∧
    2 ^ 14 ≤ (g (killState 0x4000 0 false) 5).toNat := by decide +kernel

def loads (z : Word) : Bool :=
  let s := killState 0xF000000000000 z false
  completes (do release 0 .package; readWords 0xF000000000000 (z.toNat / 2 ^ 10 % 2 ^ 11)) s fun _ t =>
    t.run.cur == 0 && decide (quiet t)

/-- DICT of one word into core 9's last entry, and of none; KLOAD the same; a core of another die. -/
theorem witness_KillAndLoad_load :
    loads 0x12007FF = true ∧
    (let z := 0x12007FF
     z < 2 ^ 35 ∧ 1 ≤ z / 2 ^ 10 % 2 ^ 11 ∧ z % 2 ^ 10 + z / 2 ^ 10 % 2 ^ 11 ≤ 1024 ∧ z / 2 ^ 21 % 2 ^ 14 = 9) ∧
    ¬ 1 ≤ 0x12003FF / 2 ^ 10 % 2 ^ 11 ∧
    completes (do release 0 .package; readWords 0xF000000000000 1) (killState 0xF000000000000 0x12002FF false)
      (fun _ t => t.run.cur == 0 && decide (quiet t)) = true ∧
    (let z := 0x12002FF
     z / 2 ^ 8 % 2 = 0 ∧ z / 2 ^ 18 % 8 = 0 ∧ 1 ≤ z / 2 ^ 9 % 2 ^ 9 ∧ z % 2 ^ 8 + z / 2 ^ 9 % 2 ^ 9 ≤ 256) ∧
    dieOf 2049 ≠ dieOf (0 / 8) := by decide +kernel


/-! Bring-up, migration, ports, requests between devices -/

/-- Which clauses of the bring-up statement a function meets: it is to come up, it has its power, the ROM runs with it. -/
def rises (s : State) : ReadyFn → Bool × Bool × Bool := fun f =>
  (match f with
   | .core b => (decide (b < 4) || b == 8) && !s.boot.rdycore.getLsbD b && (decide (4 ≤ b) || (s.die b).regs.power != .p3)
   | .mem b => decide (b < 12) && !s.boot.rdymem.getLsbD b && (s.die (b % 4)).regs.power != .p3
   | .link b => decide (b < 26) && !s.boot.rdylink.getLsbD b &&
       (if b < 16 then (s.link b).works else (s.route (b - 16)).works)
   | .eng b => decide (b < 14) && !s.boot.rdyeng.getLsbD b && (decide (12 ≤ b) || (s.die (b % 4)).regs.power != .p3),
   !s.boot.failed.contains f, (raised s f).romReady)

/-- All that the ROM needs is up but the flash port. -/
def romState (flash : List Byte) : State :=
  { State.reset with
    mem := State.reset.mem.setBytes (placeFlash 0) flash
    boot := { State.reset.boot with rdymem := 0x10, rdycore := 0x100 } }

theorem witness_BringUpResults :
    rises State.reset (.core 3) = (true, true, false) ∧ rises State.reset (.mem 11) = (true, true, false) ∧
    rises State.reset (.eng 13) = (true, true, false) ∧ (rises State.reset (.core 4)).1 = false ∧
    (rises { State.reset with boot := { State.reset.boot with failed := [.core 0] } } (.core 0)).2.1 = false ∧
    State.reset.boot.rdycore.getLsbD 9 = false ∧
    (let s := { State.reset with boot := { State.reset.boot with rdycore := 0x200 } }
     rises s (.core 3) = (true, true, false) ∧ s.boot.rdycore.getLsbD 9 = true) ∧
    rises (romState []) (.eng 13) = (true, true, true) ∧ bootSlot (raised (romState []) (.eng 13)) = none := by
  decide +kernel

/-- An image of 8 bytes for slot 0: magic, version, length, load address, the two entries. -/
def imageBytes : List Byte :=
  leBytes 4 0x3138525A ++ leBytes 4 1 ++ leBytes 8 8 ++ leBytes 8 (2 ^ 39) ++ leBytes 8 (2 ^ 39) ++ leBytes 8 (2 ^ 39)

/-- The image is booted where the two signature checks accept it; what they answer is open (R406). -/
theorem witness_BringUpResults_slot (he : ∀ a b c, Config.ecdsaOk a b c = true) (hl : ∀ a b c, Config.lmsOk a b c = true) :
    bootSlot (raised (romState imageBytes) (.eng 13)) = some 0 := by
  simp only [bootSlot, slotFailure, he, hl]
  decide +kernel

/-- An SPDM request with a port up, and with none. -/
theorem witness_MeasurementAnswers :
    ((ported State.reset 0 .up).link 0).works = true ∧ (∀ p, p < 16 → (State.reset.link p).works = false) := by
  decide +kernel

/-- The device kernel of die 0, with its migration as given. -/
def migState (m : Migration) : State :=
  let s := kern id
  let s := s.setDie 0 { s.die 0 with mig := m }
  { s with boot := { s.boot with rdymem := 0xFFF, rdycore := 0x1FF, rdylink := BitVec.allOnes _ } }

theorem witness_MigrationResults :
    (let s := migState {}
     quiet s ∧ (s.die 0).mig.st = .idle ∧ 5 / 2 ^ 22 = dieOf (0 / 8) ∧ s.hasMemory (6 * 2 ^ 18) = true ∧
     (s.die 0).regs.swpool.toNat = 0 ∧ (∀ e ∈ s.homes.dir, e.1 / 4096 ≠ 5)) ∧
    5 / 2 ^ 22 ≠ dieOf (2048 * 8 / 8) ∧
    ((migState { st := .done, old := 5, new := 6, copied := 4096 }).die 0).mig.st = .done := by decide +kernel

/-- A line to copy: the first of the frame, and the last, after which the add to a scratchpad object performs. -/
def migrates (n : Nat) : Bool :=
  let s := migState { st := .running, old := 5, new := 6, copied := n, obj := 0xF000000004100 }
  let line := fun (frame : Nat) => frame * 4096 + n
  (s.dirOf (line 5)).busy.isNone && (s.dirOf (line 6)).busy.isNone && s.memReady (line 5) && s.memReady (line 6) &&
  completes (moveLine (line 5) (line 6) { who := 0, ctx := 0, engine := true }) s fun _ t =>
    let m := (t.die 0).mig
    let t' := t.setDie 0 { t.die 0 with mig := { m with copied := m.copied + 1 } }
    m.copied == n && completes (migrationAdd (s.die 0).mig 0) t' fun _ _ => true

theorem witness_MigrationResults_line : migrates 0 = true ∧ migrates 4095 = true ∧
    ((migState {}).die 0).mig.st ≠ .running := by decide +kernel

/-- Port 3 in each state; a rim path; a port that has failed before; the loss of the last port with requests outstanding. -/
theorem witness_PortResults :
    State.reset.link 3 = .training ∧ (ported State.reset 3 .down).link 3 = .down ∧
    (ported State.reset 3 .failed).link 3 = .failed ∧ (ported State.reset 3 .up).link 3 = .up ∧
    ((ported State.reset 3 .degraded).link 3).works = true ∧ 3 ∉ State.reset.links.wasFailed ∧
    (let s := { State.reset with links := { State.reset.links with wasFailed := [3] } }
     s.link 3 = .training ∧ 3 ∈ s.links.wasFailed) ∧
    completes (portLost 3) (ported State.reset 3 .down) (fun _ _ => true) = true ∧
    (let s := ported State.reset 3 .failed
     let s := { s with links := { s.links with
       wasFailed := [3], waits := [{ id := 0, thread := 64, who := 8, op := .load, tag := 1, va := 0x1000, len := 8 }] } }
     completes (portLost 3) s (fun _ t => t.links.waits.all fun w => w.answer == some (1, [])) = true) := by decide +kernel

/-- A port that failed its bring-up trains, and ends a request that waits for it; a rim path trains, its route served by the
other path or by none. -/
theorem witness_PortResults_training :
    (let s := { State.reset with
       boot := { State.reset.boot with failed := [.link 3] }
       links := { State.reset.links with waits := [{ id := 0, thread := 64, who := 8, op := .load, tag := 1, va := 0x1000, len := 8 }] } }
     s.link 3 = .training ∧ .link 3 ∈ s.boot.failed ∧ .link 4 ∉ s.boot.failed ∧
     completes endUnreachable (ported s 3 .down) (fun _ t => t.links.waits.all fun w => w.answer == some (1, [])) = true) ∧
    State.reset.link 17 = .training ∧ 17 ∉ State.reset.links.wasFailed ∧
    (ported (ported State.reset 16 .up) 17 .down).route 0 ≠ .failed ∧ (ported State.reset 16 .down).link 17 = .training ∧
    (ported (ported State.reset 16 .down) 17 .down).route 0 = .failed ∧
    (ported (ported (State.reset.setDie 0 { State.reset.die 0 with isolated := true }) 16 .down) 17 .down).route 0 = .failed ∧
    completes (routeFailed 0)
      (ported (ported (State.reset.setDie 0 { State.reset.die 0 with isolated := true }) 16 .down) 17 .down)
      (fun _ _ => true) = true := by decide +kernel

/-- A rim path trains and its route's function came up, or did not. -/
theorem witness_PortResults_rim :
    State.reset.link 21 = .training ∧ .link 18 ∉ State.reset.boot.failed ∧ 21 ∉ State.reset.links.wasFailed ∧
    (let s := { State.reset with boot := { State.reset.boot with failed := [.link 18] } }
     s.link 21 = .training ∧ ReadyFn.link (16 + (21 - 16) / 2) ∈ s.boot.failed ∧ (ported s 21 .down).route 2 ≠ .failed) := by
  decide +kernel

/-- Requests 0 and 1 to one line, of which 0 is a store; request 2 to another. -/
def waitState : State :=
  let w : LinkWait := { id := 0, thread := 64, who := 8, op := .store, tag := 1, va := 0x1000, len := 8 }
  { State.reset with
    time := 100000000
    boot := { State.reset.boot with rdylink := BitVec.allOnes _ }
    links := { State.reset.links with
      waits := [w, { w with id := 1, op := .load }, { w with id := 2, op := .load, va := 0x2000, posted := false }] } }

def request (op : LinkOp) (va : Nat) (len : Nat) (data : List Byte) : LinkReq :=
  { src := 7, dst := 0, ctxid := 1, who := 9, op := op, va := BitVec.ofNat 52 va, len := len, data := data, atop := 0 }

/-- The tables of a context, in frames 1 to 3, map its page 0 to frame 0, and a port works. -/
def linkedState : State :=
  let s := ported State.reset 0 .up
  let s := s.setDie 0 { s.die 0 with regs := { (s.die 0).regs with ctxroot := 0x20000 } }
  let m := (s.mem.setBytes (0x20000 + 128) (leBytes 8 0x40000)).setBytes (0x20000 + 128 + 32) [3]
  { s with
    mem := ((m.setBytes 0x40000 (leBytes 8 0x80001)).setBytes 0x80000 (leBytes 8 0xC0001)).setBytes 0xC0000 (leBytes 8 7)
    fcu := { s.fcu with records := (List.range 4).map fun f => (f, { st := .owned, owner := some .device }) }
    boot := { s.boot with rdymem := 0xFFF, rdycore := 0x1FF, rdylink := BitVec.allOnes _ } }

/-- The page, as every slice of the TLB holds it: which slice serves an address is the hardware's hash. -/
def pageZero : TlbEntry :=
  { space := .ctx 1, vbase := 0, units := 1, target := .phys 0, w := true, x := false, k := false, trace := false }

def slicesHold : Store (List TlbEntry) := (List.range 128).map fun i => (i, [pageZero])

def servingState : State :=
  let s := linkedState.setDie 0 { linkedState.die 0 with l3 := slicesHold }
  { s with links := { s.links with nextId := s.links.nextId + 1 } }

theorem servingState_place (r : LinkReq) (va : Nat) (hr : r.ctxid = 1) (hl : isLocal va = false) (hv : va / 2 ^ 18 = 0) :
    linkPlace r va servingState = .ok (pageZero, va % 2 ^ 18) servingState := by
  have hall : ∀ i, i < 128 → slicesHold.get i [] = [pageZero] := by decide +kernel
  have hf : servingState.l3Find 0 (.ctx 1) va = some pageZero := by
    have : (servingState.die 0).l3.get (l3Slice (.ctx 1) va) [] = [pageZero] := hall _ (BitVec.isLt _)
    have hc : pageZero.covers (.ctx 1) va = true := by
      simp only [TlbEntry.covers, pageZero, hv]; decide
    simp only [State.l3Find, this, List.find?_cons, hc]
  have hn : noTables servingState { who := 0, user := true, ctx := 1 } = false := by decide +kernel
  have hi : (servingState.die (homeDie (va % 2 ^ 18 / 64))).isolated = false := by
    have : homeDie (va % 2 ^ 18 / 64) = 0 := by unfold homeDie; omega
    rw [this]; decide +kernel
  have hh : pageZero.home va = .phys (va % 2 ^ 18) := by
    simp only [TlbEntry.home, pageZero]
    exact congrArg Target.phys (by omega)
  have ht : ∀ w, linkTranslate 1 va w servingState = .ok pageZero servingState := by
    intro w
    have hs : (View.space { who := 0, user := true, ctx := 1 }) = .ctx 1 := rfl
    have hc : checkHit { who := 0, user := true, ctx := 1 } pageZero va 0 0 servingState = .ok () servingState := rfl
    have hp : checkPerms { who := 0, user := true, ctx := 1 } pageZero { w := w } 0 0 servingState = .ok () servingState := by
      cases w <;> rfl
    unfold linkTranslate
    rw [M.run_bind_ok (M.run_get _)]
    simp only [hn, hs, hf]
    show (checkHit _ _ _ _ _ >>= _) _ = _
    rw [M.run_bind_ok hc]
    exact (M.run_bind_ok hp).trans rfl
  have hr' : r.ctxid.toNat = 1 := by rw [hr]; rfl
  unfold linkPlace
  rw [hr', hl, if_neg (by decide)]
  refine (M.run_bind_ok (ht _)).trans ?_
  have hg : ∀ d, getDie d servingState = .ok (servingState.die d) servingState := fun _ => rfl
  simp only [M.run_bind, hh, hg, hi, Bool.false_eq_true, if_false]
  rfl

def servedAll (r : LinkReq) (link : Option Nat) (p : List (List Byte) → Bool) : Prop :=
  linkFormed r = true ∧ (pieces r.va.toNat r.len).length = 1 ∧ ∃ parts t,
    (do checkPages r (pieces r.va.toNat r.len)
        (pieces r.va.toNat r.len).mapM fun x => servePiece r x.1 x.2 false link : M (List (List Byte))) servingState =
      .ok parts t ∧ p parts = true

/-- How a piece of page 0 is served once its page is found. -/
def pieceServed (r : LinkReq) (link : Option Nat) (va n : Nat) : M (List Byte) := do
  let q := linkPiece r pageZero (va % 2 ^ 18) va n false
  match link with
  | some id =>
    queueReq { q with link := some id }
    return []
  | none =>
    match ← serve q with
    | .error _ => trap .memabort
    | .ok rep =>
      return if r.op = .load || r.op = .atomic then ((lineBytes rep.data).drop (va % 2 ^ 18 % 64)).take n else []

/-- A request of one piece is served where its piece is, once its page is found. -/
theorem servedAll_of (r : LinkReq) (link : Option Nat) (p : List (List Byte) → Bool) (va n : Nat) (hf : linkFormed r = true)
    (hp : pieces r.va.toNat r.len = [(va, n)]) (hr : r.ctxid = 1) (hl : isLocal va = false) (hv : va / 2 ^ 18 = 0)
    (h : completes (pieceServed r link va n)
      servingState fun x _ => p [x]) : servedAll r link p := by
  have hpl := servingState_place r va hr hl hv
  have hc : checkPages r [(va, n)] servingState = .ok () servingState := by
    unfold checkPages
    simp [List.forM, attempt_run, hpl, M.run_bind]
  unfold completes at h
  refine ⟨hf, by rw [hp]; rfl, ?_⟩
  rw [hp, M.run_bind_ok hc]
  have hs : servePiece r va n false link servingState = pieceServed r link va n servingState :=
    (M.run_bind_ok hpl).trans rfl
  split at h
  · rename_i x t ht
    have := hs.trans ht
    exact ⟨[x], t, by simp [M.run_bind, this], h⟩
  · exact absurd h (by decide)

theorem witness_LinkRequestResults :
    waitState.links.waits.find? (fun w => w.id == 3 && w.answer.isNone) = none ∧
    (∃ w, waitState.links.waits.find? (fun w => w.id == 1 && w.answer.isNone) = some w ∧ waitState.unsent w = true) ∧
    (∃ w, waitState.links.waits.find? (fun w => w.id == 2 && w.answer.isNone) = some w ∧ waitState.unsent w = false ∧
      w.sent + 100000000 ≤ waitState.time) ∧
    (request .load 0x1000 8 []).dst.toNat = (linkedState.die 0).regs.devtag.toNat % 2 ^ 8 ∧ (linkedState.link 0).works = true ∧
    linkedState.run.oracle = [] ∧ linkFormed (request .load 0x1000 0 []) = false := by
  refine ⟨by decide +kernel, ⟨_, rfl, by decide +kernel⟩, ⟨_, rfl, by decide +kernel⟩, by decide +kernel⟩

/-- A load, a store, an atomic add, a load that is left at its home; a load of a page that the context does not have. -/
theorem witness_LinkRequestResults_served :
    servedAll (request .load 0x1038 8 []) none (fun x => x.flatten.length == 8) ∧
    servedAll (request .store 0x1000 2 [1, 2]) none (fun x => x.flatten.isEmpty) ∧
    servedAll { request .atomic 0x1000 8 (List.replicate 8 1) with atop := 0x80 } none (fun x => x.flatten.length == 8) ∧
    servedAll (request .load 0x1038 8 []) (some 0) (fun x => x.flatten.isEmpty) ∧
    (match checkPages (request .load 0x80000 8 []) (pieces 0x80000 8)
       { linkedState with links := { linkedState.links with nextId := 1 } } with
     | .error (.trap _) _ => true | _ => false) = true := by
  refine ⟨servedAll_of _ _ _ 0x1038 8 ?_ ?_ rfl ?_ ?_ ?_, servedAll_of _ _ _ 0x1000 2 ?_ ?_ rfl ?_ ?_ ?_,
    servedAll_of _ _ _ 0x1000 8 ?_ ?_ rfl ?_ ?_ ?_, servedAll_of _ _ _ 0x1038 8 ?_ ?_ rfl ?_ ?_ ?_, ?_⟩
  all_goals decide +kernel




/-! Queues and launches -/

/-- Queue 0 of context 1 on die 0: the context's page 0 is held at cluster 0, its queue table stands at 0x3000, its header
block at 0x4000, its ring of 16 entries at 0x5000; the bytes given stand at an address. -/
def queueState (q : Queue) (at' : Nat) (bytes : List Byte) : State :=
  let s := kern id
  let p : TlbEntry :=
    { space := .ctx 1, vbase := 0, units := 1, target := .phys 0, w := true, x := false, k := false, trace := false }
  let s := s.setCluster 0 { s.cluster 0 with tlb := [p] }
  let queue := { q with hdr := some 0x4000, size := 16, base := 0x5000 }
  let s := s.setDie 0 { s.die 0 with queues := [(512, queue)], regs := { (s.die 0).regs with ctxroot := 0x20000 } }
  let m := s.mem.setBytes (0x20000 + 128) (leBytes 8 0 ++ leBytes 8 0x3000 ++ leBytes 8 0x8000 ++ leBytes 8 0 ++ [3])
  let m := m.setBytes 0x3000 (leBytes 8 0x4000 ++ [2, 0, 1])
  let m := m.setBytes 0x4000 (leBytes 4 0 ++ leBytes 12 0 ++ leBytes 4 16 ++ leBytes 4 0 ++ leBytes 8 0x5000)
  { s with mem := m.setBytes at' bytes, boot := { s.boot with rdymem := 0xFFF, rdycore := 0x1FF } }

/-- Fifteen more queues are RESIDENT. -/
def fullDie (s : State) : State :=
  s.setDie 0 { s.die 0 with queues := (s.die 0).queues ++ (List.range 16).map fun i => (513 + i, { st := .resident }) }

theorem witness_QueueStates :
    (let s := queueState {} 0x1000 []
     quiet s ∧ isHub (0 / 8) = false ∧ (s.queue 0 512).st = .idle ∧ residents s 0 < 16 ∧
     completes (tableHdr 0 512) s (fun h s1 => h == some 0x4000 && decide (quiet s1) && decide (residents s1 0 < 16) &&
       completes (learnNotify 0 1) s1 fun _ s2 => completes (readPlain (queueAgent 0 512) 0x4000 64) s2 fun bs s3 =>
         !ringBad 0x4000 bs && decide (quiet s3)) = true ∧
     16 ≤ residents (fullDie s) 0 ∧
     completes (tableHdr 0 512) (fullDie s) (fun h s1 => h == some 0x4000 && decide (16 ≤ residents s1 0) &&
       decide (quiet s1)) = true) ∧
    isHub (0x10000 / 8) = true ∧ ((queueState { st := .waiting } 0x1000 []).queue 0 512).st = .waiting ∧
    ((queueState { st := .resident } 0x1000 []).queue 0 512).st = .resident ∧
    ((queueState { st := .active } 0x1000 []).queue 0 512).st = .active ∧
    (let s := queueState { st := .error } 0x1000 []
     (s.queue 0 512).st = .error ∧ completes (readPlain (queueAgent 0 512) 0x4000 64) s (fun bs s1 =>
       (s1.queue 0 512).hdr == some 0x4000 &&
       completes (writeVa (queueAgent 0 512) 0x4024 [0, 0] 0)
         (queueNow s1 0 512 { s1.queue 0 512 with rd := BitVec.ofNat 32 (number (bs.take 4)) }) fun _ s2 =>
           decide (quiet s2)) = true) ∧
    (let s := queueState { st := .frozen } 0x1000 []
     (s.queue 0 512).st = .frozen ∧ (s.queue 0 512).hdr = some 0x4000 ∧
     completes (writeVa (queueAgent 0 512) 0x4024 [0, 0] 0) s (fun _ s2 => decide (quiet s2)) = true) := by decide +kernel

/-- An entry: kind, flags, sequence 1, and three words. -/
def entry (kind flags a b c : Nat) : List Byte :=
  leBytes 2 kind ++ leBytes 2 flags ++ leBytes 4 1 ++ leBytes 8 a ++ leBytes 8 b ++ leBytes 8 c ++ List.replicate 32 0

/-- A queue with a first entry of a kind published may take it. -/
def takes (kind : Nat) : Bool :=
  let s := queueState { st := .resident, notify := true } 0x5000 (entry kind 0 (if kind = 5 then 0 else 0x6000) (if kind = 2 then 1 else 0) 0)
  (s.die 0).queues.all (fun x => x.2.st != .active) && queueOrder s 0 == [512] &&
  completes (contextState 0 1) s fun n s1 => n == 3 &&
    let a1 := (looksAt s1 0 512).askAgain
    let r1 := a1.queue 0 512
    completes (readHead 0 512 r1) a1 fun h s2 => (match h with | .entry k _ => k == kind | _ => false) &&
      let s2' := queueNow s2 0 512 { s2.queue 0 512 with looking := false }
      (s2'.queue 0 512).hdr == some 0x4000 && completes (writeVa (queueAgent 0 512) 0x4000 (lowBytes 4 1) 0) s2' fun _ _ => true

/-- A command of a kind in hand; the queue's earlier operations. -/
def inHandState (kind flags a b c : Nat) (live : List Nat) : State :=
  queueState { st := .active, live := live, inHand := some ⟨kind, entry kind flags a b c, 0⟩ } 0x6000 (leBytes 8 5)

def holds (kind flags : Nat) (live : List Nat) : Bool :=
  let s := inHandState kind flags 0x6000 5 0 live
  match inHandOf s 0 kind with
  | some (q, c) => q == 512 && (s.queue 0 512).inHand == some c && (s.queue 0 512).live == live &&
      (s.queue 0 512).st == .active && body c 2 2 % 2 == flags
  | none => false

theorem witness_QueueWork :
    (takes 1 && takes 2 && takes 3 && takes 4 && takes 5) = true ∧
    inHandOf (queueState {} 0x1000 []) 0 1 = none ∧ queueOrder (queueState {} 0x1000 []) 0 = [] ∧
    (∃ x ∈ ((inHandState 5 0 0 0 0 []).die 0).queues, x.2.st = .active) ∧
    (holds 1 1 [0] && holds 2 1 [0] && holds 3 0 [0] && holds 4 1 [0] && holds 5 1 [0]) = true ∧
    (holds 1 0 [0] && holds 2 0 [0] && holds 3 0 [] && holds 4 0 [] && holds 5 0 []) = true := by decide +kernel

/-- The objects are read and written: COUNT is 5, below and at the target; a LAUNCH reads its record's header. -/
theorem witness_QueueWork_objects :
    completes (readPlain (queueAgent 0 512) 0x6000 64) (inHandState 1 0 0x6000 0 0 []) (fun h _ => h.length == 64) = true ∧
    completes (readVa (queueAgent 0 512) 0x6000 8 0) (inHandState 2 0 0x6000 6 0 []) (fun bs s1 =>
      number bs == 5 && ((s1.queue 0 512).inHand.map (·.bytes)) == some (entry 2 0 0x6000 6 0)) = true ∧
    completes (engineAtomic (queueAgent 0 512) 0x6000 { op := 16, wide := true, b := 0, b1 := 0 })
      (inHandState 3 0 0x6000 0 0 []) (fun _ _ => true) = true ∧
    (let s := queueState { st := .waiting, wait := some (.count 0x6000 5) } 0x6000 (leBytes 8 5)
     (s.queue 0 512).st = .waiting ∧ s.ctxHalted 1 = false ∧ (s.queue 0 512).wait = some (.count 0x6000 5) ∧
     completes (readVa (queueAgent 0 512) 0x6000 8 0) s (fun bs _ => number bs == 5) = true) ∧
    objectAt 0x6000 = true ∧ objectAt 0x6004 = false ∧
    (let c : Command := ⟨2, entry 2 1 0x6000 6 0, 0⟩
     let s := queueState { st := .waiting, wait := some .launches, inHand := some c } 0x6000 (leBytes 8 5)
     (s.queue 0 512).live = [] ∧ (s.queue 0 512).inHand = some c ∧
     completes (readVa (queueAgent 0 512) (body c 8 8 % 2 ^ 52) 8 0) s (fun bs s1 => number bs == 5 &&
       decide (number bs < body c 16 8 % 2 ^ 63) && (s1.queue 0 512).inHand == some c) = true) := by
  decide +kernel

/-- A launch record at 0x6000: one stage (core 8), one channel (5), one message. -/
def launchBytes (stages : Nat) (doneobj : Nat) : List Byte :=
  let header := [BitVec.ofNat 8 stages, 0] ++ leBytes 2 1 ++ leBytes 4 0 ++ leBytes 8 0x6040 ++ leBytes 8 0x60C0 ++ leBytes 16 0 ++
    leBytes 8 0x60D0 ++ leBytes 8 doneobj ++ leBytes 2 1 ++ leBytes 6 0
  let stage := [1, 1] ++ leBytes 2 1 ++ [1, 0, 0, 0] ++ leBytes 8 0 ++ leBytes 8 0 ++ leBytes 8 0 ++ leBytes 8 0x6100 ++
    leBytes 8 0x6180 ++ leBytes 8 0 ++ leBytes 4 1024 ++ List.replicate 68 0
  let chan := [0, 0, 0, 0, 2, 4, 0, 0] ++ leBytes 4 0x4000 ++ leBytes 2 5 ++ [0, 0]
  let msg := leBytes 2 0 ++ leBytes 2 8 ++ leBytes 4 0 ++ leBytes 8 0x6000
  header ++ stage ++ chan ++ msg ++ List.replicate 32 0 ++ List.replicate 128 0 ++ List.replicate 128 0xFF

def launch0 : Launch := { ctx := 1, die := 0, queue := 512, record := 0x6000 }

def launchState (l : Launch) (stages : Nat) : State :=
  { queueState { st := .resident, live := [1] } 0x6000 (launchBytes stages 0) with launches := [(0, { launch0 with st := .done }), (1, l)] }

def binds (ok : Plan → State → Bool) : Bool :=
  completes (readPlain (frontAgent 0 1 1) 0x6000 64) (launchState { launch0 with st := .binding } 1) fun h s1 => !headerBad h &&
    completes (readPlan (frontAgent 0 1 1) h) (launchNow s1 1 { launch0 with st := .binding, doneobj := some 0 }) ok

theorem witness_LaunchProgress_bind :
    binds (fun p s2 => planStatus s2 p == none && resourcesFree s2 p &&
      completes (contextBinds launch0 p) s2 fun b s3 => b &&
        completes (do bindLaunch 1 launch0 p; sendStarts (p.msgs.length + 1) 1) s3 fun _ _ => true) = true ∧
    binds (fun p s2 => !resourcesFree (s2.setCore 8 { s2.core 8 with held := some (0, 0) }) p) = true ∧
    binds (fun p _ => planStatus State.reset { p with bars := [leBytes 2 512] } == some 0x10) = true ∧
    completes (readPlain (frontAgent 0 1 1) 0x6000 64) (launchState launch0 17) (fun h s1 => headerBad h &&
      completes (faultLaunch 1 0x10) s1 fun _ _ => true) = true := by decide +kernel

/-- A launch in a state, of one stage that holds core 8 and has ended or not. -/
def staged (st : LaunchState) (ended : Bool) (f : Launch → Launch) : State :=
  let l := f { launch0 with st := st, stages := [{ cores := [8], weave := false, starts := true, ended := ended }] }
  let s := launchState l 1
  s.setCore 8 { s.core 8 with held := some (1, 0) }

/-- A launch that ended and has not said so; one whose early predecessor fails; one whose context does not run. -/
theorem witness_LaunchProgress_unsaid :
    (let s := staged .faulted true fun l => { l with unsaid := true, failing := true }
     (s.launch? 1).any (fun l => l.unsaid && completes (do
       modLaunch 1 fun l => { l with unsaid := false }
       if l.failing then freezeQueue l.die l.queue l.entry 0x10
       cancelDependents (← get).launches.length 1) s fun _ _ => true) = true) ∧
    (let l : Launch := { launch0 with st := .binding, dep := true, early := true, pred := some 0 }
     let s := { launchState l 1 with launches := [(0, { launch0 with st := .running, failing := true }), (1, l)] }
     (s.launch? 0).any (fun p => p.failing) = true ∧ completes (cancelLaunch 1) s (fun _ _ => true) = true) ∧
    binds (fun p s2 =>
      let s3 := { s2 with mem := s2.mem.setBytes (recordAddr s2 0 1 + 32) [4] }
      completes (contextBinds launch0 p) s3 fun b _ => !b) = true := by decide +kernel

/-- A launch that has sent its start messages, or has none; a stage that ends while others' start messages wait. -/
theorem witness_LaunchProgress_releasing :
    (let l : Launch := { launch0 with st := .releasing, chans := [(0, 5)], starts := [0] }
     let s := launchState l 1
     s.launches.find? 1 = some l ∧ l.msgs = [] ∧ completes (l.starts.forM fun i => match l.chans[i]? with
       | some pl => settleChannel pl
       | none => pure ()) (launchNow s 1 { l with st := l.afterStarts }) (fun _ _ => true) = true) ∧
    ({ launch0 with st := .releasing } : Launch).starts = [] ∧
    (let s := staged .releasing false fun l => { l with msgs := [(0, [1])] }
     (s.launch? 1).any (fun l => l.st == .releasing && (endable s l).contains 0 && !s.ctxHalted l.ctx) = true) := by
  decide +kernel

theorem witness_LaunchProgress_states :
    (let p : Launch := { launch0 with st := .running, trign := 2, triggers := 2 }
     let s := fun (p : Launch) (early : Bool) =>
       { launchState { launch0 with dep := true, early := early, pred := some 0 } 1 with
         launches := [(0, p), (1, { launch0 with dep := true, early := early, pred := some 0 })] }
     (s p true).launch? 0 = some p ∧ p.trign ≤ p.triggers ∧ (s { p with triggers := 1 } true).launch? 0 = some { p with triggers := 1 } ∧
     completes (cancelLaunch 1) (s { p with st := .cancelled } false) (fun _ _ => true) = true) ∧
    (let s := staged .running false id
     (s.launch? 1).any (fun l => (endable s l).contains 0) = true) ∧
    (let s := staged .running true id
     (s.launch? 1).any (fun l => !(endable s l).contains 0) = true) ∧
    (let s := staged .draining true id
     (s.launch? 1).any (fun l => launchIdle s 1 l && !s.ctxHalted l.ctx &&
       completes (unbind 1 l) s fun _ s1 => s1.launches == s.launches) = true ∧
     (s.launch? 1).any (fun l => completes (do unbind 1 l; faultLaunch 1 0x20) s (fun _ _ => true) &&
       completes (do unbind 1 l; cancelLaunch 1) s fun _ _ => true) = true) ∧
    (let s := staged .draining false id
     (s.launch? 1).any (fun l => !launchIdle s 1 l) = true) ∧
    (let s := staged .draining true fun l => { l with unsaid := true, failing := true }
     (s.launch? 1).any (fun l => completes (do freezeQueue l.die l.queue l.entry 0x10; cancelDependents 2 1) s fun _ _ => true) = true) ∧
    (let s := staged .draining true fun l => { l with doneobj := some 0x8010 }
     (s.launch? 1).any (fun l => completes (unbind 1 l) s fun _ s1 =>
       completes (writeVa (frontAgent 0 1 1) ((l.record + 60) % 2 ^ 52) (lowBytes 4 0) 0) s1 fun _ s2 =>
         completes (engineAtomic (frontAgent 0 1 1) 0x8010 { op := 16, wide := true, b := 0, b1 := 0 }) s2
           fun _ _ => true) = true) := by decide +kernel

/-! The step, fetching, the memory's form, encodings -/

/-- A thread's turn with an ADD at its PC, after a REP, with a word of an undefined major, with ERET in USER mode. -/
def turns (code : List Instr) (raw : List Byte) : State :=
  let s := userCode 0 code id
  { s with mem := s.mem.setBytes 0x1000 raw, run := { s.run with agenda := [.issue 64] } }

/-- What the fetch at a thread's PC gives: the word and its length, and what it decodes to. -/
def fetches (s : State) (p : Nat × BitVec 32 × Nat → State → Bool) : Bool :=
  let u0 := (s.settled.withAgenda []).focus 64
  let u := u0.rotated 64
  s.settled.run.agenda == [.issue 64] && knownThread 64 && u0.mayIssue 64 && !u0.outranked 64 && !u0.outOfTurn 64 &&
    (u.thread 64).doing.isNone && (u.thread 64).rep.isNone && completes (fetchInstr (u.thread 64).pc) u.askAgain p

theorem witness_StepRunsDecoded :
    (let s := turns [.add false 8 5 6 false false] (bytesOf (.add false 8 5 6 false false))
     ((s.settled.withAgenda []).focus 64).interruptible 8 = false ∧
     fetches s (fun f s1 => f.2.2 == 4 && s1.run.cur == 64 && s1.links.waits.isEmpty && (s1.mismatchOf 64).isNone &&
       f.1 / 2 ^ 26 % 2 ^ 6 != 0x16 && (s1.thread 64).kern == ((s.settled.withAgenda []).focus 64 |>.thread 64).kern &&
       match decodeFetched (offerOf 8 false) f.1 f.2.1 f.2.2 with
       | .ok i => decide (i = .add false 8 5 6 false false) && !barred i false
       | .error _ => false) = true) ∧
    fetches (turns [] (leBytes 2 (0x16 * 2 ^ 10) ++ leBytes 2 0)) (fun f s1 => f.1 / 2 ^ 26 % 2 ^ 6 == 0x16 &&
      completes (fetchInstr 0x1004) s1 fun _ s2 => s2.run.cur == 64) = true ∧
    fetches (turns [] (bytesOf .eret)) (fun f _ => match decodeFetched (offerOf 8 false) f.1 f.2.1 f.2.2 with
      | .ok i => barred i false
      | .error _ => false) = true ∧
    fetches (turns [] [0, 0, 0, 0]) (fun f _ => decodeFetched (offerOf 8 false) f.1 f.2.1 f.2.2 matches .error _) = true ∧
    (match fetchInstr 0x80000 ((turns [] []).focus 64) with | .error (.trap _) _ => true | _ => false) = true := by
  decide +kernel

/-- The device kernel of die 0 fetches at 0x1000: three instructions of each length. -/
def kernelCode (bytes : List Byte) : State :=
  let s := kern id
  { s with
    mem := s.mem.setBytes 0x1000 bytes
    boot := { s.boot with rdymem := 0xFFF, rdycore := 0x1FF }
    fcu := { s.fcu with records := [(0, mine)] } }

theorem witness_FetchReadsMemory :
    (let s := kernelCode (leBytes 2 0xE028)
     untranslated s (viewOf 0 (cur s)) = true ∧
     completes (do
       let w ← walkerOf (homeDie (0x1000 / 64)) (Config.sliceOf (0x1000 / 64 % 2 ^ 33)).toNat
       checkCustody (viewOf 0 (cur s)) w 0 false 0x1000 0) s (fun _ s' => (s'.cluster 0).code.isEmpty && s'.run.oracle.isEmpty &&
       s'.hasMemory (0x1000 / 64 * 64) && s'.memReady (0x1000 / 64) && !s'.routeWaits 0 0 && !s'.cutOff 0 0 && s'.redirect (0x1000 / 64) == 0x1000 / 64 &&
       (s'.homes.dir.find? (0x1000 / 64)).isNone && s'.homes.reqs.isEmpty && !s'.bad.contains (0x1000 / 64) &&
       !s'.latent.contains (0x1000 / 64)) = true) ∧
    (let s := kernelCode (leBytes 2 0xE028 ++ leBytes 2 0x3000 ++ leBytes 2 1 ++ leBytes 2 0x0400)
     completes (fetchParcel 0x1000) s (fun p s1 => p / 2 ^ 13 % 8 == 7 && completes (fetchParcel 0x1002) s1 fun q s2 =>
       q / 2 ^ 10 % 64 == 0x0C && completes (fetchParcel 0x1004) s2 fun _ s3 =>
         completes (fetchParcel 0x1006) s3 fun r _ => r / 2 ^ 10 % 64 == 1) = true) := by decide +kernel

/-- A REP whose instances run, and a thread that another outranks. -/
theorem witness_StepRunsDecoded_rep :
    (let s := turns [] []
     let s := s.setThread 64 { s.thread 64 with rep := some ⟨3, 1, 0, 0, 0x05084040, 4⟩ }
     let u := (s.settled.withAgenda []).focus 64
     u.mayIssue 64 = true ∧ u.outranked 64 = false ∧ (u.thread 64).rep.isSome = true ∧ u.links.waits = [] ∧
     u.mismatchOf 64 = none) ∧
    (let s := turns [] []
     let s := s.setThread 64 { s.thread 64 with doing := some (.add false 8 5 6 false false) }
     let u0 := (s.settled.withAgenda []).focus 64
     u0.mayIssue 64 = true ∧ u0.outranked 64 = false ∧ u0.outOfTurn 64 = false ∧ (u0.rotated 64).interruptible 8 = false ∧
     ((u0.rotated 64).thread 64).doing = some (.add false 8 5 6 false false)) ∧
    (let s := (turns [] []).setThread 65 ((turns [] []).thread 64)
     let s := s.setCore 8 { s.core 8 with order := [1, 2, 3, 4, 5, 6, 7, 0] }
     ((s.settled.withAgenda []).focus 64).outOfTurn 64 = true) ∧
    (let a : Activation := { cls := 2, slot := ⟨0x4000, 64, some 5, 2⟩, header := 0 }
     let s := turns [] []
     let s := s.setThread 64 { s.thread 64 with act := some a }
     let s := s.setThread 65 { s.thread 64 with act := some { a with prio := 3 } }
     ((s.settled.withAgenda []).focus 64).outranked 64 = true) := by decide +kernel

/-- A line that the instruction cache of the cluster holds. -/
theorem witness_FetchReadsMemory_cached :
    (let s := kernelCode []
     let s := s.setCluster 0 { s.cluster 0 with code := [⟨0x40, 0x1234⟩] }
     (s.cluster 0).code.find? (·.pline == 0x1000 / 64) = some ⟨0x40, 0x1234⟩ ∧ s.run.oracle = [] ∧ isHub (0 / 8) = false ∧ s.cutOff 0 0 = false ∧
     completes (fetchParcel 0x1000) s (fun p _ => p == 0x1234) = true) := by decide +kernel

theorem witness_StepKeepsMemoryCanonical :
    Memory.wf (turns [.add false 8 5 6 false false] (bytesOf (.add false 8 5 6 false false))).mem = true ∧
    (match step (turns [.add false 8 5 6 false false] (bytesOf (.add false 8 5 6 false false))) with
     | .next _ => true | _ => false) = true := by decide +kernel

theorem witness_EncodeDecode :
    (Instr.add false 8 5 6 false false).wf = true ∧ (encode (.add false 8 5 6 false false)).isSome = true ∧
    (match decodeParcels [0xE028, 7] with | some (.ok i) => decide (i = .d16 5) | _ => false) = true := by decide +kernel


/-! ## Words that do not decode, and instructions that are ill-formed -/

/-- The name under which a word is refused. -/
def refusedAs (w : Nat) : Option IllSub := match decodeWord w 0 with | .ok _ => none | .error e => some e

/-- BARARW with A = 1, a nonzero b field of CLZ, FMOVI with bit 20 set (R104), a fn that major 0x01 does not assign, and the
word 0 (R66). -/
theorem test_words_refused :
    refusedAs 0x7E538007 = some .abit ∧ refusedAs 0x04F70418 = some .zfield ∧ refusedAs 0x34100000 = some .zfield ∧
    refusedAs 0x040000FF = some .undef ∧ refusedAs 0 = some .undef := by decide +kernel

/-- A register pair that begins with register 31 (R56): ACAS and TLBI; VGATH with nf = 1 and m = 0 (R226). -/
theorem test_wf_pairs :
    (Instr.tlbi 12 31).wf = false ∧ (Instr.tlbi 12 30).wf = true ∧ (Instr.gstop 5 31).wf = false ∧
    (Instr.spmap 7 5 31 false false).wf = false ∧ (Instr.vgath false 31 5 .self 1 false false).wf = false ∧
    (Instr.vgath false 3 5 .self 0 true false).wf = false ∧ (Instr.vgath false 3 5 .self 1 true false).wf = true := by
  decide +kernel

/-- Agents that the package does not have (R11, R16). -/
theorem test_wf_agents :
    (Instr.activationBind 0x2010).wf = false ∧ (Instr.activationBind 0x200F).wf = true ∧
    (Instr.linkFailure 36).wf = false ∧ (Instr.sequencerTake 1024).wf = false ∧ (Instr.resultWriteback 0x10080).wf = false := by
  decide +kernel

/-- The words of ill-formed instructions are refused as PAIR and ZFIELD. -/
theorem test_wf_refused :
    (encodeWord (.tlbi 12 31)).bind refusedAs = some .pair ∧
    (encodeWord (.vgath false 3 5 .self 0 true false)).bind refusedAs = some .zfield := by decide +kernel

/-! ## Literal words, dictionary parcels and words in other chapters -/

/-- Whether a word and its literal decode to an instruction. -/
def readsLit (w lit : Nat) (i : Instr) : Bool :=
  match decodeWord w (BitVec.ofNat 32 lit) with | .ok j => decide (j = i) | .error _ => false

/-- Major 0x0C: d in bits 25:21, a in bits 20:16, ea in bit 15, fn in bits 7:0 (R63, R100). -/
theorem test_decode_literals :
    readsLit 0x31600000 0x80000000 (.movl 11 0x80000000) = true ∧ readsLit 0x31600001 5 (.movlz 11 5) = true ∧
    readsLit 0x31668002 5 (.movlh 11 6 true 5) = true ∧ readsLit 0x30A60003 5 (.addl 5 6 false 5) = true ∧
    readsLit 0x30A60004 0x3EAAAAAB (.fmal 5 6 false 0x3EAAAAAB) = true ∧
    readsLit 0x30A68005 5 (.faddl 5 6 true 5) = true ∧ readsLit 0x30A60006 5 (.fmull 5 6 false 5) = true ∧
    readsLit 0x31660000 5 (.movl 11 5) = false := by decide +kernel

/-- The words that the rules print beside their instructions (R300, R323, R367, R378, R63). -/
theorem test_decode_printed :
    reads [(0x9CA60008, .dict 5 6), (0x9CA60009, .kload 5 6), (0x9CA60005, .tlbi 5 6), (0xA0531C00, .foffer 5 6 7 false false),
      (0xA0530001, .faccept 5 6 0 false false), (0xA0531C02, .flend 5 6 7 false false),
      (0xA0531C05, .fquery 5 6 7 false false), (0x48000004, .br 0 0 .eq 4), (0x3EAAAAAB, .fmuli 21 0xAAAAB),
      (0x54000004, .endact), (0x7C538007, .bararw 5 7 false)] = true := by decide +kernel

theorem test_decode_parcel :
    (match decodeParcels [0xE028] with | some (.ok i) => decide (i = .d16 5) | _ => false) = true := by
  decide +kernel

/-! ## Single steps -/

/-- Whether an instruction completes, and the state after it. -/
def after (i : Instr) (s : State) (p : State → Bool) : Bool := match exec i s with | .next t => p t | _ => false

/-- Two registers. -/
def two (a b : Word) (t : Thread) : Thread := gr 5 a (gr 6 b t)

/-- What an instruction leaves in g8. -/
def gives (i : Instr) (a b v : Word) : Bool :=
  after i (base (two a b)) fun t => (cur t).reg 8 == v && (cur t).pc == 0x1004 && t.mem == []

/-- What an instruction whose result comes later (R78) leaves in g8 once it has been written back. -/
def givesLate (i : Instr) (a b v : Word) : Bool :=
  after i (base (two a b)) fun t => (cur t).isEmpty 8 && (cur t).pc == 0x1004 &&
    match execResultWriteback 64 t with
      | .next u => (cur u).reg 8 == v && !(cur u).isEmpty 8
      | _ => false

/-- R96: 2^64 − 1 + 1; 0 − 1; the high halves of −1 × 2; −1 < 1 signed and not unsigned. -/
theorem test_integer_results :
    gives (.add false 8 5 6 false false) 0xFFFFFFFFFFFFFFFF 1 0 = true ∧
    gives (.sub false 8 5 6 false false) 0 1 0xFFFFFFFFFFFFFFFF = true ∧
    gives (.mulh 8 5 6 false false) 0xFFFFFFFFFFFFFFFF 2 0xFFFFFFFFFFFFFFFF = true ∧
    gives (.mulhn 8 5 6 false false) 0xFFFFFFFFFFFFFFFF 2 1 = true ∧
    gives (.slt 8 5 6 false false) 0xFFFFFFFFFFFFFFFF 1 1 = true ∧
    gives (.sltn 8 5 6 false false) 0xFFFFFFFFFFFFFFFF 1 0 = true ∧
    gives (.sra false 8 5 6 false false) 0x8000000000000000 0x7F 0xFFFFFFFFFFFFFFFF = true := by decide +kernel

/-- R22: division by zero, the most negative number by −1, and rounding toward zero. -/
theorem test_division :
    givesLate (.div 8 5 6 false false) 7 0 0xFFFFFFFFFFFFFFFF = true ∧
    givesLate (.div 8 5 6 false false) 0x8000000000000000 0xFFFFFFFFFFFFFFFF 0x8000000000000000 = true ∧
    givesLate (.rem 8 5 6 false false) 0x8000000000000000 0xFFFFFFFFFFFFFFFF 0 = true ∧
    givesLate (.div 8 5 6 false false) 0xFFFFFFFFFFFFFFF9 2 0xFFFFFFFFFFFFFFFD = true ∧
    givesLate (.rem 8 5 6 false false) 0xFFFFFFFFFFFFFFF9 2 0xFFFFFFFFFFFFFFFF = true := by decide +kernel

/-- R97: `divnw` of 7 by 0 gives all ones; a 32-bit sum is sign-extended. -/
theorem test_word_results :
    givesLate (.divnw 8 5 6 false false) 7 0 0xFFFFFFFFFFFFFFFF = true ∧
    gives (.addw 8 5 6 false false) 0x7FFFFFFF 1 0xFFFFFFFF80000000 = true := by decide +kernel

/-- R98, R99, R96: a negative immediate; the fat bits keep out of the address sum; CLZ of 0. -/
theorem test_immediates :
    gives (.addi false 8 5 false 0x3FFF) 0 0 0xFFFFFFFFFFFFFFFF = true ∧
    gives (.andi false 8 5 false 0x3FFF) 0xFFFFFFFFFFFFFFFF 0 0x3FFF = true ∧
    gives (.paddi false 8 5 false 1) 0xABCFFFFFFFFFFFFF 0 0xABC0000000000000 = true ∧
    gives (.adr 8 0x1FFFFF) 0 0 0xFFE = true ∧ gives (.clz 8 5 false) 0 0 64 = true := by decide +kernel

/-- R63: +0 × 0xAAAAB000 is −0; R103: FCLASS of −0; R102: FNEG; 1.0 / 3.0 rounded to nearest. -/
theorem test_floats :
    after (.fmuli 21 0xAAAAB) (base id) (fun t => (cur t).reg 21 == 0x80000000 && (cur t).ctl.fpf == 0) = true ∧
    gives (.fclass 8 5 false false) 0x80000000 0 8 = true ∧ gives (.fneg 8 5 false false) 0x3F800000 0 0xBF800000 = true ∧
    gives (.fdiv 8 5 6 false false false) 0x3F800000 0x40400000 0x3EAAAAAB = true := by decide +kernel

/-- R106: a taken branch goes to PC + 2 × off13, with off13 signed. -/
theorem test_branch :
    after (.br 5 6 .ne 0x1FFE) (base (two 1 0)) (fun t => (cur t).pc == 0xFFC) = true ∧
    after (.br 5 6 .eq 0x1FFE) (base (two 1 0)) (fun t => (cur t).pc == 0x1004) = true := by decide +kernel

/-- R116, R127: a store of two bytes to the scratchpad, lowest byte first, and an odd address, which traps. -/
theorem test_store :
    after (.st false 6 5 .self .u16 false 0) (base (two 0xF000000000040 0x1234)) (fun t =>
      t.mem.bytes (placeScratch 8 0x40) 2 == [0x34, 0x12] && (cur t).pc == 0x1004) = true ∧
    after (.st false 6 5 .self .u16 false 0) (base (two 0xF000000000041 0x1234)) (fun t =>
      (cur t).st == .trapped && (cur t).ctl.epc == 0x1000) = true := by decide +kernel

/-- R349, R92, R346: TRAPI in USER mode parks the thread TRAPPED and sends a message; in KERNEL mode it goes to KVEC. -/
theorem test_traps :
    after (.trapi 9) (base id) (fun t => (cur t).st == .trapped && (cur t).ctl.epc == 0x1000 && t.sysmsgs.length == 1) = true ∧
    after (.trapi 9) (kern fun t => { t with kern := { t.kern with kvec := 0x2000 } }) (fun t =>
      (cur t).st == .runnable && (cur t).pc == 0x2000 && (cur t).kern.kepc == 0x1000) = true := by decide +kernel

/-- R350: ERET goes to KEPC with the mode and the interrupt enable that were saved. -/
theorem test_eret :
    after .eret (kern fun t => { t with kern := { t.kern with kepc := 0x3000, kstatus := 0 } }) (fun t =>
      (cur t).pc == 0x3000 && (cur t).kern.kmode == false) = true := by decide +kernel

/-- R107: a call pushes the address after it; R108: the return pops it. -/
theorem test_call :
    after (.jal 0 8) (base id) (fun t => (cur t).pc == 0x1010 && (cur t).rstack == [0x1004] &&
      after (.ret) t fun u => (cur u).pc == 0x1004 && (cur u).rstack == []) = true := by decide +kernel

end Sys2Proof.Tests
end

section
/-! SUPPORT. `KeepsMem`: a meaning keeps the canonical form of memory, with a law for each way of putting meanings together.
It says what `Keeps MemWf` says, as a structure: unifying two such statements then compares the meanings they speak of and
never runs them. -/

namespace Sys2Proof.Machine

/-- A meaning keeps the canonical form of memory, whether it completes or stops. -/
structure KeepsMem {α : Type} (m : M α) : Prop where
  keeps : Keeps MemWf m

namespace KeepsMem
section
variable {α β : Type} {m n : M α}

protected theorem pure {a : α} : KeepsMem (pure a : M α) := ⟨.pure a⟩
protected theorem get : KeepsMem (get : M State) := ⟨.get⟩
protected theorem throw {e : Stop} : KeepsMem (throw e : M α) := ⟨.throw e⟩
protected theorem set {s : State} (hs : MemWf s) : KeepsMem (set s : M Unit) := ⟨.set hs⟩
protected theorem modify {f : State → State} (h : ∀ s, MemWf s → MemWf (f s)) : KeepsMem (modify f : M Unit) :=
  ⟨.modify h⟩

/-- A change that leaves memory alone. -/
protected theorem modify_of_mem {f : State → State} (h : ∀ s, (f s).mem = s.mem) : KeepsMem (modify f : M Unit) :=
  ⟨modify_keeps h⟩

protected theorem bind {f : α → M β} (hm : KeepsMem m) (hf : ∀ a, KeepsMem (f a)) : KeepsMem (m >>= f) :=
  ⟨.bind hm.keeps fun a => (hf a).keeps⟩

/-- What follows a read of the state may use that the state was in canonical form. -/
protected theorem getBind {f : State → M α} (h : ∀ s, MemWf s → KeepsMem (f s)) :
    KeepsMem ((MonadState.get : M State) >>= f) :=
  ⟨fun s hs => (h s hs).keeps s hs⟩

protected theorem map {f : α → β} (hm : KeepsMem m) : KeepsMem (f <$> m) := ⟨.map f hm.keeps⟩
protected theorem discard (hm : KeepsMem m) : KeepsMem (Functor.discard m) := ⟨.map _ hm.keeps⟩

protected theorem ite {c : Prop} {_ : Decidable c} (hm : KeepsMem m) (hn : KeepsMem n) : KeepsMem (if c then m else n) :=
  ⟨.ite hm.keeps hn.keeps⟩

/-- A step that is made only under a condition, before the rest. -/
protected theorem guard {c : Prop} {_ : Decidable c} {m : M Unit} {j : Unit → M α} (hm : KeepsMem m)
    (hj : ∀ r, KeepsMem (j r)) : KeepsMem (if c then m >>= fun r => j r else j ()) :=
  .ite (.bind hm hj) (hj ())

/-- Two branches that go on to the same rest. -/
protected theorem joined {c : Prop} {_ : Decidable c} {j : α → M β} (hm : KeepsMem m) (hn : KeepsMem n)
    (hj : ∀ r, KeepsMem (j r)) : KeepsMem (if c then m >>= fun r => j r else n >>= fun r => j r) :=
  .ite (.bind hm hj) (.bind hn hj)

protected theorem forM {f : α → M Unit} {l : List α} (h : ∀ a, KeepsMem (f a)) : KeepsMem (l.forM f) :=
  ⟨.forM (fun a => (h a).keeps) l⟩
protected theorem mapM {f : α → M β} {l : List α} (h : ∀ a, KeepsMem (f a)) : KeepsMem (l.mapM f) :=
  ⟨.mapM (fun a => (h a).keeps) l⟩
protected theorem foldlM {f : β → α → M β} {l : List α} {b : β} (h : ∀ b a, KeepsMem (f b a)) : KeepsMem (l.foldlM f b) :=
  ⟨.foldlM (fun b a => (h b a).keeps) l b⟩
protected theorem forIn {f : α → β → M (ForInStep β)} {l : List α} {b : β} (h : ∀ a b, KeepsMem (f a b)) :
    KeepsMem (ForIn.forIn l b f) :=
  ⟨.forIn (fun a b => (h a b).keeps) l b⟩

protected theorem anyM {f : α → M Bool} (h : ∀ a, KeepsMem (f a)) : ∀ {l : List α}, KeepsMem (l.anyM f)
  | [] => .pure
  | a :: _ => .bind (h a) fun b => by cases b with
    | false => exact .anyM h
    | true => exact .pure

protected theorem filterAuxM {f : α → M Bool} (h : ∀ a, KeepsMem (f a)) :
    ∀ {l acc : List α}, KeepsMem (l.filterAuxM f acc)
  | [], _ => .pure
  | a :: _, _ => .bind (h a) fun _ => .filterAuxM h

protected theorem filterM {f : α → M Bool} {l : List α} (h : ∀ a, KeepsMem (f a)) : KeepsMem (l.filterM f) :=
  .bind (.filterAuxM h) fun _ => .pure

/-- For meanings defined by cases on how another one ends: the two ends, each on its own. -/
protected theorem of_ends (hok : ∀ s a t, MemWf s → m s = .ok a t → MemWf t)
    (herror : ∀ s e t, MemWf s → m s = .error e t → MemWf t) : KeepsMem m := by
  refine ⟨fun s hs => ?_⟩
  cases h : m s with
  | ok a t => exact hok s a t hs h
  | error e t => exact herror s e t hs h

protected theorem attempt (hm : KeepsMem m) : KeepsMem (attempt m) := by
  refine ⟨fun s hs => ?_⟩
  rw [attempt_run]
  cases e : m s with
  | ok a t => exact hm.keeps.ok hs e
  | error x t => cases x <;> exact hm.keeps.error hs e

end
end KeepsMem

/-! ## What the model's changes of state do to memory -/

theorem State.askAgain_memWf {s : State} (hs : MemWf s) : MemWf s.askAgain := by
  unfold State.askAgain
  split <;> exact hs

theorem State.dropWaits_memWf {s : State} {k : Nat} (hs : MemWf s) : MemWf (s.dropWaits k) := by
  unfold State.dropWaits
  split <;> exact hs

/-- The boot ROM's copies are put into memory one after the other. -/
theorem romCopies_memWf {s : State} (hs : MemWf s) : MemWf (romCopies s) := by
  have h : ∀ (l : List Nat) (x : State), MemWf x → MemWf (l.foldl (fun x i => copyBody i x) x) := by
    intro l
    induction l with
    | nil => exact fun _ h => h
    | cons i l ih => exact fun x h => ih _ (memRestore_wf h)
  exact h _ s hs

end Sys2Proof.Machine
end

section
/-! SUPPORT. Every meaning of the model keeps the canonical form of memory: a lemma per function, in the order of the model,
under the function's name. A proof follows the function's text: a law for each bind, test and loop, and the lemma of each
function that it calls. Where a function touches no memory, its run leaves the hypothesis as it is; where branches of it go
on to the same rest, the proof names that rest and proves it once. -/

namespace Sys2Proof.Machine

namespace KeepsMem

/-! ## Registers, threads, messages and traps -/

protected theorem me : KeepsMem me := ⟨fun _ hs => hs⟩
protected theorem myWho : KeepsMem myWho := ⟨fun _ hs => hs⟩
protected theorem getThread {k} : KeepsMem (getThread k) := ⟨fun _ hs => hs⟩
protected theorem modThread {k f} : KeepsMem (modThread k f) := ⟨fun _ hs => hs⟩
protected theorem myThread : KeepsMem myThread := ⟨fun _ hs => hs⟩
protected theorem modMe {f} : KeepsMem (modMe f) := ⟨fun _ hs => hs⟩
protected theorem getCore {w} : KeepsMem (getCore w) := ⟨fun _ hs => hs⟩
protected theorem modCore {w f} : KeepsMem (modCore w f) := ⟨fun _ hs => hs⟩
protected theorem getCluster {c} : KeepsMem (getCluster c) := ⟨fun _ hs => hs⟩
protected theorem modCluster {c f} : KeepsMem (modCluster c f) := ⟨fun _ hs => hs⟩
protected theorem getDie {d} : KeepsMem (getDie d) := ⟨fun _ hs => hs⟩
protected theorem modDie {d f} : KeepsMem (modDie d f) := ⟨fun _ hs => hs⟩
protected theorem modDieRegs {d f} : KeepsMem (modDieRegs d f) := ⟨fun _ hs => hs⟩
protected theorem trap {α : Type} {cause sub faddr finfo} : KeepsMem (trap cause sub faddr finfo : M α) :=
  ⟨fun _ hs => hs⟩
protected theorem park {α : Type} {r} : KeepsMem (park r : M α) := ⟨fun _ hs => hs⟩
protected theorem choose {n} : KeepsMem (choose n) := by
  refine .getBind fun _ hs => ?_
  split
  · exact .pure
  · exact .bind (.set hs) fun _ => .pure
protected theorem freeWord : KeepsMem freeWord := ⟨fun _ hs => hs⟩
protected theorem freeLine : KeepsMem freeLine := ⟨fun _ hs => hs⟩
protected theorem readIn {p r e} : KeepsMem (readIn p r e) := by
  refine .bind .myThread fun _ => .guard (.ite .trap .park) fun _ => .ite (.bind .choose fun _ => ?_) .pure
  split
  · exact ⟨fun _ hs => hs⟩
  · exact .bind .modMe fun _ => .bind (.ite .trap .park) fun _ => .pure
protected theorem readG {r e} : KeepsMem (readG r e) := .readIn
protected theorem readP {r} : KeepsMem (readP r) := .readG
protected theorem checkDest {r} : KeepsMem (checkDest r) := .bind .myThread fun _ => .ite .park .pure
protected theorem writeIn {p r v} : KeepsMem (writeIn p r v) := ⟨fun _ hs => hs⟩
protected theorem writeG {r v} : KeepsMem (writeG r v) := ⟨fun _ hs => hs⟩
protected theorem produce {r v} : KeepsMem (produce r v) := by
  refine .bind .choose fun _ => ?_
  split <;> exact .modMe
protected theorem advance {len} : KeepsMem (advance len) := ⟨fun _ hs => hs⟩
protected theorem straight {len m} (hm : KeepsMem m) : KeepsMem (straight len m) := .bind hm fun _ => .advance
protected theorem inKernel : KeepsMem inKernel := ⟨fun _ hs => hs⟩
protected theorem collecting : KeepsMem collecting := ⟨fun _ hs => hs⟩
protected theorem forbidCollecting : KeepsMem forbidCollecting := .bind .collecting fun _ => .ite .trap .pure
protected theorem wakeAll {p} : KeepsMem (wakeAll p) := ⟨fun _ hs => hs⟩
protected theorem putBytes {a bs} : KeepsMem (putBytes a bs) := ⟨putBytes_keeps a bs⟩
protected theorem takeBytes {a n} : KeepsMem (takeBytes a n) := ⟨fun _ hs => hs⟩
protected theorem sendSystemFrom {origin src die cls payload} : KeepsMem (sendSystemFrom origin src die cls payload) :=
  ⟨fun _ hs => hs⟩
protected theorem sendSystem {src die cls payload} : KeepsMem (sendSystem src die cls payload) := ⟨fun _ hs => hs⟩
protected theorem postIrq {who w} : KeepsMem (postIrq who w) := ⟨fun _ hs => hs⟩
protected theorem doubleFault {who} : KeepsMem (doubleFault who) := ⟨fun _ hs => hs⟩
protected theorem takeTrap {x} : KeepsMem (takeTrap x) := ⟨takeTrap_keeps x⟩

/-! ## Floating-point control and flags -/

protected theorem sampleFpc : KeepsMem sampleFpc := ⟨fun _ hs => hs⟩
protected theorem raiseAccov {k} : KeepsMem (raiseAccov k) := ⟨fun _ hs => hs⟩

/-! ## L1 lines and the home directory -/

protected theorem setDir {pline d} : KeepsMem (setDir pline d) := ⟨fun _ hs => hs⟩
protected theorem notifyHook {pline mask} : KeepsMem (notifyHook pline mask) :=
  .modify fun _ hs => by dsimp only; split <;> exact hs
protected theorem noteQuiet {p a b} : KeepsMem (Note.quiet p a b) := ⟨fun _ hs => hs⟩
protected theorem writeHome {note pline mask data kind src} (hnote : ∀ {p a b}, KeepsMem (note p a b)) :
    KeepsMem (writeHome note pline mask data kind src) :=
  .ite (.bind .get fun _ => .bind .putBytes fun _ => .guard ⟨fun _ hs => hs⟩ fun _ => .bind hnote fun _ =>
    .notifyHook) .pure
protected theorem homeLine {pline} : KeepsMem (homeLine pline) := ⟨fun _ hs => hs⟩
protected theorem postMemerr {die ctx info} : KeepsMem (postMemerr die ctx info) :=
  .bind .postIrq fun _ => .ite .postIrq (.bind .get fun _ => .ite .postIrq .pure)
protected theorem withheld {pline ctx} : KeepsMem (withheld pline ctx) :=
  .getBind fun _ hs => (.ite .pure (.ite (.bind (.set hs) fun _ => .bind .modDieRegs fun _ => .bind .postMemerr fun _ =>
    .pure) .pure))
protected theorem localWithheld {place n who ctx} : KeepsMem (localWithheld place n who ctx) :=
  .getBind fun _ hs => (.ite .pure (.ite (.bind (.set hs) fun _ => .bind .modDieRegs fun _ => .bind .postMemerr fun _ =>
    .pure) .pure))
protected theorem askCore {core pline ask} : KeepsMem (askCore core pline ask) :=
  .bind .getCore fun _ => .ite ⟨fun _ hs => hs⟩ .pure
protected theorem currentLine {pline d} : KeepsMem (currentLine pline d) := ⟨fun _ hs => hs⟩
protected theorem storeBytes {note pline d mask data kind src atHome} (hnote : ∀ {p a b}, KeepsMem (note p a b)) :
    KeepsMem (storeBytes note pline d mask data kind src atHome) := by
  refine .bind (.forM fun _ => .ite ?_ .pure) fun _ => .ite (.writeHome hnote) .pure
  split
  · exact .bind .modCore fun _ => .bind .wakeAll fun _ => hnote
  · exact .bind .takeBytes fun _ => .bind .putBytes fun _ => .bind .wakeAll fun _ => hnote
protected theorem mergeBytes {note pline mask data kind src} (hnote : ∀ {p a b}, KeepsMem (note p a b)) :
    KeepsMem (mergeBytes note pline mask data kind src) :=
  .ite (.bind .get fun _ => .storeBytes hnote) .pure
protected theorem installCopy {c r rep kind newReg stored} : KeepsMem (installCopy c r rep kind newReg stored) :=
  ⟨fun _ hs => hs⟩
protected theorem updateOwn {c pline mask data} : KeepsMem (updateOwn c pline mask data) := ⟨fun _ hs => hs⟩
protected theorem refreshOwn {r mask data} : KeepsMem (refreshOwn r mask data) := by
  unfold refreshOwn
  split
  · exact .ite .pure .modCore
  · exact .pure
protected theorem takeNotice {note q} (hnote : ∀ {p a b}, KeepsMem (note p a b)) : KeepsMem (takeNotice note q) :=
  .bind .get fun _ => .bind .setDir fun _ => .ite (.writeHome hnote) (.mergeBytes hnote)
protected theorem recallHolders {note pline} (hnote : ∀ {p a b}, KeepsMem (note p a b)) :
    KeepsMem (recallHolders note pline) :=
  .bind .get fun _ => .forM fun _ => .bind .askCore fun _ => .mergeBytes hnote
protected theorem takeWaiting {note q} (hnote : ∀ {p a b}, KeepsMem (note p a b)) : KeepsMem (takeWaiting note q) := by
  refine .bind .get fun _ => ?_
  extract_lets
  split
  · exact .bind (.recallHolders hnote) fun _ => .takeNotice hnote
  · exact .bind (.recallHolders hnote) fun _ => .takeNotice hnote
  · exact .takeNotice hnote
protected theorem absorb {note pline but} (hnote : ∀ {p a b c}, KeepsMem (note p a b c)) :
    KeepsMem (absorb note pline but) :=
  .getBind fun _ hs => (.ite (.bind (.set hs) fun _ => .forM fun _ => .bind .get fun _ => .takeWaiting hnote) .pure)
protected theorem ringWrite {pline0 mask data} : KeepsMem (ringWrite pline0 mask data) :=
  .bind .get fun _ => .ite (.bind (.absorb .noteQuiet) fun _ => .bind (.recallHolders .noteQuiet) fun _ =>
    .bind .get fun _ => .bind .setDir fun _ => .storeBytes .noteQuiet) .pure
protected theorem traceAppend {pline mask kind src} : KeepsMem (traceAppend pline mask kind src) :=
  .bind .get fun _ => .ite (.bind .modDie fun _ => .ringWrite) .pure
protected theorem noteAt {pline traced mask kind src} : KeepsMem (noteAt pline traced mask kind src) := by
  unfold noteAt
  split
  · exact .traceAppend
  · exact .noteQuiet
protected theorem takeReturned {r core a x} : KeepsMem (takeReturned r core a x) := by
  refine .bind .get fun _ => ?_
  extract_lets
  split
  · exact .bind .setDir fun _ => .bind .pure fun _ => .bind (.mergeBytes .noteAt) fun _ => .ite .refreshOwn .pure
  · exact .bind .pure fun _ => .bind (.mergeBytes .noteAt) fun _ => .ite .refreshOwn .pure
protected theorem doAsk {r a} : KeepsMem (doAsk r a) := .bind .askCore fun _ => .bind .takeReturned fun _ => .pure
protected theorem recallNames {r core} : KeepsMem (recallNames r core) :=
  .bind .getCore fun _ => .bind .modCore fun _ => .forM fun _ => .bind .get fun _ => .bind .setDir fun _ =>
    .bind (.mergeBytes .noteAt) fun _ => .mergeBytes .noteAt
protected theorem evictDir {pline} : KeepsMem (evictDir pline) := by
  refine .bind (.absorb .noteAt) fun _ => .bind .get fun _ => .bind (.forM fun _ => .bind .doAsk fun _ =>
      .pure) fun _ => .bind (.forM fun _ => ?_) fun _ => ⟨fun _ hs => hs⟩
  split
  · exact .bind .get fun _ => .bind .get fun _ => .bind .setDir fun _ => .bind (.forM fun _ =>
        .mergeBytes .noteAt) fun _ => .modCore
  · exact .pure
protected theorem pinWithheld {r d} : KeepsMem (pinWithheld r d) := by
  refine .foldlM fun _ _ => ?_
  split
  · exact .ite .localWithheld .pure
  · exact .pure
protected theorem dropIssued {r} : KeepsMem (dropIssued r) := .ite .modCore .pure
protected theorem finishReq {afadd r dx} : KeepsMem (finishReq afadd r dx) := by
  refine .bind .get fun _ => .joined .withheld .pure fun _ => .joined .pinWithheld .pure fun _ =>
    .ite (.bind .setDir fun _ => .bind .dropIssued fun _ => .pure) (.ite (.bind .setDir fun _ =>
    .guard (.storeBytes .noteAt) fun _ => .bind .currentLine fun _ => .pure) ?_)
  extract_lets _ st put _ rest
  clear_value st
  have hput {d} : KeepsMem (put d) := .setDir
  have hrest : KeepsMem (rest ()) := by
    refine .bind .get fun _ => .bind .currentLine fun _ => ?_
    dsimp only
    split
    · refine .bind hput fun _ => ?_
      split
      · exact .pure
      · exact .guard .installCopy fun _ => .pure
    · refine .bind hput fun _ => ?_
      split
      · exact .pure
      · exact .guard .installCopy fun _ => .pure
    · exact .bind hput fun _ => .bind (.storeBytes .noteAt) fun _ => .bind .installCopy fun _ => .bind .wakeAll fun _ =>
        .ite (.bind .noteAt fun _ => .bind .notifyHook fun _ => .pure) .pure
    · exact .bind hput fun _ => .bind (.storeBytes .noteAt) fun _ => .bind .installCopy fun _ => .bind .wakeAll fun _ =>
        .ite (.bind .noteAt fun _ => .bind .notifyHook fun _ => .pure) .pure
    · exact .bind hput fun _ => .bind (.storeBytes .noteAt) fun _ => .bind .installCopy fun _ => .bind .wakeAll fun _ =>
        .ite (.bind .noteAt fun _ => .bind .notifyHook fun _ => .pure) .pure
    · exact .bind hput fun _ => .bind .installCopy fun _ => .bind (.storeBytes .noteAt) fun _ =>
        .guard .wakeAll fun _ => .pure
    · exact .bind hput fun _ => .pure
    · refine .bind hput fun _ => .bind (.storeBytes .noteAt) fun _ => .ite ?_ .pure
      split
      · exact .bind .updateOwn fun _ => .pure
      · exact .pure
    · refine .bind hput fun _ => .bind (.storeBytes .noteAt) fun _ => .ite ?_ .pure
      split
      · exact .bind .updateOwn fun _ => .pure
      · exact .pure
    · refine .bind hput fun _ => ?_
      split
      · exact .pure
      · refine .bind (.storeBytes .noteAt) fun _ => ?_
        split
        · exact .bind .updateOwn fun _ => .pure
        · exact .pure
    · exact .bind (.takeNotice .noteAt) fun _ => .pure
    · exact .bind (.takeNotice .noteAt) fun _ => .pure
    · exact .bind (.takeNotice .noteAt) fun _ => .pure
  split
  · exact .ite (.bind .doAsk fun _ => hrest) hrest
  · exact .ite (.bind .doAsk fun _ => hrest) hrest
  · exact .ite (.bind .doAsk fun _ => hrest) hrest
  · exact hrest
protected theorem deliver {r rep} : KeepsMem (deliver r rep) := by
  unfold deliver
  extract_lets +onlyGivenNames _ _ _ _ rest
  have hrest : KeepsMem (rest ()) := by
    unfold rest
    split
    · exact .pure
    · exact ⟨fun _ hs => hs⟩
  split
  · exact .bind .modThread fun _ => hrest
  · exact hrest
protected theorem applyAck {a r} : KeepsMem (applyAck a r) := .takeReturned
protected theorem completeBusy {afadd pline dx} : KeepsMem (completeBusy afadd pline dx) := by
  refine .bind .get fun _ => ?_
  extract_lets
  split
  · exact .pure
  · exact .bind .setDir fun _ => .bind (.absorb .noteAt) fun _ => .bind .finishReq fun _ => .deliver
protected theorem finishBusy {afadd pline} : KeepsMem (finishBusy afadd pline) := by
  refine .bind .get fun _ => ?_
  split
  · exact .pure
  · exact .bind ⟨fun _ hs => hs⟩ fun _ => .bind (.forM fun _ => .applyAck) fun _ => .bind (.foldlM fun _ _ =>
        (.bind .doAsk fun _ => .pure)) fun _ => .completeBusy
protected theorem makeRoom {afadd pline} : KeepsMem (makeRoom afadd pline) := by
  refine .bind .get fun _ => .ite .pure (.ite .pure ?_)
  extract_lets
  split
  · exact .evictDir
  · exact .bind .finishBusy fun _ => .evictDir
  · exact .pure
protected theorem prepare {afadd r} : KeepsMem (prepare afadd r) :=
  .bind (.absorb .noteAt) fun _ => .bind .get fun _ => .bind (.forM fun _ => .recallNames) fun _ => .ite .makeRoom .pure
protected theorem serveWhole {afadd r} : KeepsMem (serveWhole afadd r) :=
  .bind .prepare fun _ => .bind .get fun _ => .bind (.foldlM fun _ _ => (.bind .doAsk fun _ => .pure)) fun _ =>
    .finishReq
protected theorem drainQueue {afadd pline} : ∀ {n}, KeepsMem (drainQueue afadd pline n)
  | 0 => .pure
  | n + 1 => by
    refine .getBind fun s hs => ?_
    split
    · exact .pure
    · exact .bind (.set hs) fun _ => .bind .serveWhole fun _ => .bind .deliver fun _ => .drainQueue
protected theorem drainLine {afadd pline} : KeepsMem (drainLine afadd pline) :=
  .bind .finishBusy fun _ => .bind .get fun _ => .drainQueue
protected theorem drainReqs {afadd p} : KeepsMem (drainReqs afadd p) :=
  .bind .get fun _ => .forM fun _ => .drainLine
protected theorem serveWith {afadd r} : KeepsMem (serveWith afadd r) := by
  refine .bind .get fun _ => ?_
  split
  · exact .pure
  · exact .bind .get fun _ => .guard .throw fun _ => .bind .drainLine fun _ => .serveWhole
protected theorem queueReq {r} : KeepsMem (queueReq r) := by
  refine .bind .get fun _ => ?_
  split
  · exact .deliver
  · exact .bind .get fun _ => .guard .throw fun _ => ⟨fun _ hs => hs⟩

/-! ## Translation and custody -/

protected theorem serve {r} : KeepsMem (serve r) := .serveWith
protected theorem myView : KeepsMem myView := ⟨fun _ hs => hs⟩
protected theorem walkerOf {die slice} : KeepsMem (walkerOf die slice) := .bind .choose fun _ => .pure
protected theorem checkCustody {v w frame table faddr finfo} : KeepsMem (checkCustody v w frame table faddr finfo) :=
  .bind .get fun _ => .ite (.ite .modDie (.ite (.ite .throw (.ite .trap .trap)) .pure)) .pure
protected theorem readTable {v pa faddr finfo} : KeepsMem (readTable v pa faddr finfo) := by
  refine .bind .get fun _ => .guard .trap fun _ => .bind .serve fun _ => ?_
  split
  · exact .trap
  · exact .trap
  · exact .pure
protected theorem rootOf {v faddr finfo} : KeepsMem (rootOf v faddr finfo) :=
  .ite (.bind .get fun _ => .bind .readTable fun _ => .guard .trap fun _ => .readTable) ⟨fun _ hs => hs⟩
protected theorem walkerFor {v va faddr finfo} : KeepsMem (walkerFor v va faddr finfo) :=
  .joined (.bind .rootOf fun _ => .pure) .pure fun _ => .walkerOf
protected theorem cacheWalk {w found} : KeepsMem (cacheWalk w found) := .ite .pure .modDie
protected theorem walkLevel1 {v w va faddr finfo} : KeepsMem (walkLevel1 v w va faddr finfo) := by
  refine .bind .get fun _ => ?_
  split
  · exact .pure
  · exact .bind .rootOf fun _ => .bind .checkCustody fun _ => .bind .readTable fun _ => .guard .trap fun _ =>
        .guard .trap fun _ => .bind .checkCustody fun _ => .pure
protected theorem readGroup {v table idx e faddr finfo} : KeepsMem (readGroup v table idx e faddr finfo) :=
  .mapM fun _ => .ite .pure .readTable
protected theorem checkLeaf {v w t va faddr finfo} : KeepsMem (checkLeaf v w t va faddr finfo) := by
  unfold checkLeaf
  split
  · exact .checkCustody
  · exact .pure
protected theorem walkLevel3 {v va table faddr finfo} : KeepsMem (walkLevel3 v va table faddr finfo) :=
  .bind .readTable fun _ => .guard .trap fun _ => .guard .trap fun _ => .ite (.bind .readGroup fun _ =>
    .ite .pure .pure) .pure
protected theorem walkTree {v w va faddr finfo} : KeepsMem (walkTree v w va faddr finfo) := by
  refine .bind .get fun _ => ?_
  split
  · exact .bind .walkLevel3 fun _ => .pure
  · exact .bind .walkLevel1 fun _ => .bind .readTable fun _ => .guard .trap fun _ => .ite (.guard .trap fun _ =>
        .pure) (.guard .trap fun _ => .bind .checkCustody fun _ => .bind .walkLevel3 fun _ => .pure)
protected theorem walk {v va faddr finfo} : KeepsMem (walk v va faddr finfo) :=
  .bind .walkerFor fun _ => .bind .walkTree fun _ => .bind .checkLeaf fun _ => .bind .cacheWalk fun _ => .pure
protected theorem installL3 {die va t} : KeepsMem (installL3 die va t) := ⟨fun _ hs => hs⟩
protected theorem installTlb {v va t} : KeepsMem (installTlb v va t) :=
  .bind .modCore fun _ => .ite ⟨fun _ hs => hs⟩ .pure
protected theorem checkPerms {v t n faddr finfo} : KeepsMem (checkPerms v t n faddr finfo) :=
  .guard .trap fun _ => .guard .trap fun _ => .ite .trap .pure
protected theorem checkHit {v t va faddr finfo} : KeepsMem (checkHit v t va faddr finfo) :=
  .ite (.bind .walkerFor fun _ => .checkLeaf) .pure
protected theorem translate {v va n faddr finfo} : KeepsMem (translate v va n faddr finfo) := by
  refine .bind .get fun _ => .ite (.guard .trap fun _ => .bind .walkerOf fun _ => .bind .checkCustody fun _ =>
      .pure) (.guard .trap fun _ => ?_)
  split
  · exact .bind .checkHit fun _ => .bind .checkPerms fun _ => .pure
  · exact .bind .walk fun _ => .bind .installTlb fun _ => .bind .checkPerms fun _ => .pure

/-! ## One access: the local window, the L1 and the home -/

protected theorem resolve {v vec va n need store pol atomic faddr finfo} :
    KeepsMem (resolve v vec va n need store pol atomic faddr finfo) := by
  refine .ite (.bind .getCore fun _ => ?_) (.bind .translate fun _ => ?_)
  · split
    · exact .pure
    · exact .trap
  · split
    · exact .pure
    · exact .guard .trap fun _ => .pure
protected theorem loseStore {thread x} : KeepsMem (loseStore thread x) := ⟨fun _ hs => hs⟩
protected theorem loseMarks {l m link} : KeepsMem (loseMarks l m link) := .forM fun _ => .loseStore
protected theorem postRemote {thread who tag tva data ctx faddr finfo order} :
    KeepsMem (postRemote thread who tag tva data ctx faddr finfo order) :=
  ⟨fun _ hs => hs⟩
protected theorem removeLine {who l} : KeepsMem (removeLine who l) := ⟨fun _ hs => hs⟩
protected theorem clearDirty {who l m} : KeepsMem (clearDirty who l m) := ⟨fun _ hs => hs⟩
protected theorem settledLine {who l} : KeepsMem (settledLine who l) := by
  unfold settledLine
  extract_lets
  split
  · exact .bind .get fun _ => .bind .drainLine fun _ => ⟨fun _ hs => hs⟩
  · exact ⟨fun _ hs => hs⟩
protected theorem writeBack {who l m} : KeepsMem (writeBack who l m) := by
  refine .ite ?_ .pure
  split
  · refine .bind .get fun _ => .ite (.bind .clearDirty fun _ => .loseMarks) (.bind .settledLine fun _ => ?_)
    split
    · exact .pure
    · refine .ite (.bind .clearDirty fun _ => .bind .serve fun _ => ?_) .pure
      split
      · exact .pure
      · exact .loseMarks
  · refine .bind .clearDirty fun _ => .bind .get fun _ => ?_
    split
    · exact .loseMarks
    · exact .forM fun _ => .forM fun _ => .postRemote
protected theorem cleanLine {who l} : KeepsMem (cleanLine who l) := .writeBack
protected theorem cleanCore {who} : KeepsMem (cleanCore who) := .bind .getCore fun _ => .forM fun _ => .cleanLine
protected theorem sendReq {later r} : KeepsMem (sendReq later r) := .ite .queueReq (.bind .serve fun _ => .pure)
protected theorem dropLine {who later l} : KeepsMem (dropLine who later l) := by
  unfold dropLine
  split
  · exact .bind .writeBack fun _ => .removeLine
  · refine .bind .get fun _ => .ite (.bind .removeLine fun _ => .loseMarks) (.bind .get fun _ =>
        .joined .pure .settledLine fun _ => ?_)
    split
    · exact .pure
    · extract_lets _ rest
      have hrest : KeepsMem (rest ()) := by
        refine .bind .getCore fun _ => ?_
        split
        · exact .pure
        · exact .bind .removeLine fun _ => .guard .sendReq fun _ => .ite .sendReq .pure
      exact .ite (.bind .clearDirty fun _ => .bind .sendReq fun _ => hrest) hrest
protected theorem evictIfFull {who} : KeepsMem (evictIfFull who) := by
  refine .bind .getCore fun _ => .ite (.bind .choose fun _ => ?_) .pure
  split
  · exact .bind .choose fun _ => .dropLine
  · exact .pure
protected theorem invalidateSelf {who} : KeepsMem (invalidateSelf who) := .bind .cleanCore fun _ => .modCore
protected theorem reportLost {k} : KeepsMem (reportLost k) := by
  refine .bind .getThread fun _ => .bind .getCore fun _ => ?_
  split
  · exact .pure
  · refine .bind .modThread fun _ => .bind .modCore fun _ => .bind .modDieRegs fun _ => ?_
    extract_lets
    split <;> exact .trap
protected theorem performAll {p q} : KeepsMem (performAll p q) :=
  .bind .get fun _ => .bind (.forM fun _ => .drainLine) fun _ => .drainReqs
protected theorem performPosted {who} : KeepsMem (performPosted who) := .performAll
protected theorem performRead {who} : KeepsMem (performRead who) := .drainReqs
protected theorem release {k sc} : KeepsMem (release k sc) :=
  .ite (.bind .performPosted fun _ => .bind .cleanCore fun _ => .bind .reportLost fun _ => .ite (.bind .get fun _ =>
    .ite .throw .pure) .pure) (.bind .reportLost fun _ => .ite (.bind .get fun _ => .ite .throw .pure) .pure)
protected theorem acquire {k sc} : KeepsMem (acquire k sc) := .ite .pure .invalidateSelf
protected theorem remoteScope {α : Type} {k} {m : M α} (hm : KeepsMem m) : KeepsMem (remoteScope k m) := by
  refine .of_ends (fun s a t hs h => ?_) fun s e t hs h => ?_ <;> unfold remoteScope at h <;> split at h <;> cases h
  · next h => exact State.dropWaits_memWf (hm.keeps.ok (State.askAgain_memWf hs) h)
  · next h => exact hm.keeps.error (State.askAgain_memWf hs) h
  · next h => exact State.dropWaits_memWf (hm.keeps.error (State.askAgain_memWf hs) h)
protected theorem remote {k v op tag tva len data atop faddr finfo} :
    KeepsMem (remote k v op tag tva len data atop faddr finfo) := by
  refine .getBind fun _ hs => ?_
  split
  · split
    · exact .throw
    · exact .bind (.set hs) fun _ => .ite .pure .trap
  · split
    · exact .trap
    · exact .guard .throw fun _ => .bind (.set hs) fun _ => .throw
protected theorem remoteAtom {k v tag tva n op faddr finfo} : KeepsMem (remoteAtom k v tag tva n op faddr finfo) :=
  .remote
protected theorem remoteStore {k v tag tva data faddr finfo} : KeepsMem (remoteStore k v tag tva data faddr finfo) := by
  refine .bind .get fun _ => ?_
  split <;> exact ⟨fun _ hs => hs⟩
protected theorem abortTrap {α : Type} {a e} : KeepsMem (abortTrap a e : M α) := ⟨fun _ hs => hs⟩
protected theorem checkIsolated {a} : KeepsMem (checkIsolated a) := .bind .get fun _ => .ite .trap .pure
protected theorem ask {a kind} : KeepsMem (ask a kind) := by
  refine .bind .serve fun _ => ?_
  split
  · exact .abortTrap
  · exact .bind .getCore fun _ => .bind .evictIfFull fun _ => .pure
protected theorem flushOwn {a} : KeepsMem (flushOwn a) :=
  .bind .get fun _ => .bind .getCore fun _ => .forM fun _ => .writeBack
protected theorem meetWaiting {a pol} : KeepsMem (meetWaiting a pol) :=
  .getBind fun _ hs => (.ite (.ite (.set hs) .drainLine) .pure)
protected theorem loadPart {a pol} : KeepsMem (loadPart a pol) := by
  refine .bind .meetWaiting fun _ => .bind .getCore fun _ => ?_
  split
  · exact .ite .pure .ask
  · exact .ask
protected theorem loadHome {a pol} : KeepsMem (loadHome a pol) := by
  unfold loadHome
  split
  · exact .bind .flushOwn fun _ => .ask
  · exact .bind (.mapM fun _ => .loadPart) fun _ => .pure
  · exact .loadPart
protected theorem post {a r} : KeepsMem (post a r) := by
  refine .bind .choose fun _ => .bind .get fun _ => ?_
  split
  · exact .deliver
  · exact .ite (.bind .updateOwn fun _ => .queueReq) (.bind .serve fun _ => .bind .deliver fun _ => .evictIfFull)
protected theorem registerWord {a} : KeepsMem (registerWord a) := by
  refine .bind .getCore fun _ => .ite (.bind .serve fun _ => ?_) .pure
  split
  · exact .abortTrap
  · exact .evictIfFull
protected theorem storeHome {a pol data now} : KeepsMem (storeHome a pol data now) := by
  refine .bind .get fun _ => ?_
  extract_lets mine _ put send rest
  have hput {l} : KeepsMem (put l) := .bind .modCore fun _ => .bind .wakeAll fun _ => .evictIfFull
  have hsend {r} : KeepsMem (send r) := by
    refine .ite (.bind .serve fun _ => ?_) .post
    split
    · exact .abortTrap
    · exact .evictIfFull
  have hrest : KeepsMem (rest ()) := .ite .notifyHook .pure
  split
  · exact .guard hput fun _ => .guard hsend fun _ => hrest
  · cases mine with
    | some l =>
      exact .ite (.ite (.bind hput fun _ => hrest) (.bind hput fun _ => hrest)) (.ite (.bind hsend fun _ =>
        hrest) (.ite (.bind hsend fun _ => hrest) (.bind .cleanLine fun _ => .bind hsend fun _ => hrest)))
    | none => exact .bind hsend fun _ => hrest
  · refine .guard (.forM fun _ => .registerWord) fun _ => .bind (.forM fun _ => .bind .getCore fun _ => ?_) fun _ => hrest
    split
    · exact .ite hput hsend
    · exact hsend
  · exact .bind .flushOwn fun _ => .bind hsend fun _ => hrest
protected theorem atomHome {a op} : KeepsMem (atomHome a op) := by
  refine .bind .flushOwn fun _ => .bind .serve fun _ => ?_
  split
  · exact .abortTrap
  · exact .pure
protected theorem flushAway {v va n} : KeepsMem (flushAway v va n) := by
  refine .bind .getCore fun _ => ?_
  split
  · exact .ite .writeBack .pure
  · exact .pure
protected theorem updateAway {v va n value} : KeepsMem (updateAway v va n value) := ⟨fun _ hs => hs⟩
protected theorem loadAt {k v w va n pol faddr finfo} : KeepsMem (loadAt k v w va n pol faddr finfo) := by
  unfold loadAt
  split
  · exact .bind .localWithheld fun _ => .guard .trap fun _ => ⟨fun _ hs => hs⟩
  · exact .bind .checkIsolated fun _ => .loadHome
  · refine .ite (.bind .getCore fun _ => ?_) (.bind .flushAway fun _ => .bind .remote fun _ => .pure)
    split
    · exact .ite .pure (.bind .remote fun _ => ⟨fun _ hs => hs⟩)
    · exact .bind .remote fun _ => .bind .modCore fun _ => .bind .evictIfFull fun _ => .pure
protected theorem storeAt {k v w va n pol value now faddr finfo} :
    KeepsMem (storeAt k v w va n pol value now faddr finfo) := by
  unfold storeAt
  split
  · exact .putBytes
  · exact .bind .get fun _ => .ite (.ite .trap ⟨fun _ hs => hs⟩) (.bind .get fun _ => .ite .trap .storeHome)
  · exact .ite (.bind .getCore fun _ => .bind .get fun _ => .bind .modCore fun _ =>
        .evictIfFull) (.bind .flushAway fun _ => .ite (.bind .remote fun _ => .updateAway) (.bind .remoteStore fun _ =>
        .ite .updateAway .pure))
protected theorem atomAt {k v w va n op faddr finfo} : KeepsMem (atomAt k v w va n op faddr finfo) := by
  unfold atomAt
  split
  · exact .bind .localWithheld fun _ => .guard .trap fun _ => .bind .takeBytes fun _ => .bind .putBytes fun _ => .pure
  · exact .bind .checkIsolated fun _ => .atomHome
  · exact .bind .flushAway fun _ => .bind .remoteAtom fun _ => ⟨fun _ hs => hs⟩
protected theorem l1Hit {v va n need pol store} : KeepsMem (l1Hit v va n need pol store) := by
  refine .bind .getCore fun _ => ?_
  split
  · exact .pure
  · refine .ite ?_ .pure
    extract_lets
    split <;> exact .pure
protected theorem checkScalar {va n need store pol atomic faddr finfo} :
    KeepsMem (checkScalar va n need store pol atomic faddr finfo) := by
  unfold checkScalar
  refine .guard .trap fun _ => .bind .myView fun _ => .bind .myThread fun _ => .ite (.bind .l1Hit fun _ => ?_) .resolve
  split
  · exact .pure
  · exact .resolve

/-! ## Accesses made at home -/

protected theorem threadAgent : KeepsMem threadAgent := ⟨fun _ hs => hs⟩
protected theorem abortCause {α : Type} {e faddr finfo} : KeepsMem (abortCause e faddr finfo : M α) :=
  ⟨fun _ hs => hs⟩
protected theorem readPiece {g va n faddr finfo} : KeepsMem (readPiece g va n faddr finfo) := by
  refine .ite (.bind .getCore fun _ => ?_) (.bind .translate fun _ => ?_)
  · split
    · exact .trap
    · exact .bind .localWithheld fun _ => .guard .trap fun _ => .takeBytes
  · split
    · exact .remote
    · refine .bind .checkIsolated fun _ => .ite (.bind .serve fun _ => ?_) (.bind .loadHome fun _ => .pure)
      split
      · exact .abortCause
      · exact .pure
protected theorem writePiece {g va data faddr finfo} : KeepsMem (writePiece g va data faddr finfo) := by
  refine .ite (.bind .getCore fun _ => ?_) (.bind .translate fun _ => ?_)
  · split
    · exact .trap
    · exact .putBytes
  · split
    · exact .bind .remote fun _ => .pure
    · refine .bind .checkIsolated fun _ => .ite (.bind .serve fun _ => ?_) (.bind .get fun _ => .ite .trap .storeHome)
      split
      · exact .abortCause
      · exact .pure
protected theorem readVa {g va n finfo} : KeepsMem (readVa g va n finfo) :=
  .bind (.mapM fun _ => .readPiece) fun _ => .pure
protected theorem writeVa {g va data finfo} : KeepsMem (writeVa g va data finfo) :=
  .bind (.foldlM fun _ _ => (.bind .writePiece fun _ => .pure)) fun _ => .pure

/-! ## Effect lists -/

protected theorem myCluster : KeepsMem myCluster := ⟨fun _ hs => hs⟩
protected theorem checkRoom {who n faddr finfo} : KeepsMem (checkRoom who n faddr finfo) :=
  .bind .getCluster fun _ => .bind .getCore fun _ => .guard .trap fun _ => .ite .trap .pure
protected theorem resolveHandle {w} : KeepsMem (resolveHandle w) :=
  .bind .me fun _ => .bind .getThread fun _ => .bind .getCluster fun _ => .ite .pure (.ite ⟨fun _ hs => hs⟩
    (⟨fun _ hs => hs⟩))
protected theorem storeHandle {w} : KeepsMem (storeHandle w) := by
  refine .bind .resolveHandle fun _ => ?_
  split
  · exact .pure
  · exact .trap
protected theorem myList {d} : KeepsMem (myList d) := ⟨fun _ hs => hs⟩
protected theorem modMyList {d f} : KeepsMem (modMyList d f) := ⟨fun _ hs => hs⟩
protected theorem makeList {l} : KeepsMem (makeList l) := by
  refine .bind .myCluster fun _ => .bind .getCluster fun _ => .bind .myWho fun _ => .guard .trap fun _ => ?_
  split
  · exact .trap
  · exact ⟨fun _ hs => hs⟩
protected theorem readImage {g va ctx} : KeepsMem (readImage g va ctx) := by
  refine .ite .pure (.bind (.attempt .readVa) fun _ => ?_)
  split
  · exact .pure
  · refine .ite .pure (.bind (.attempt .readVa) fun _ => ?_)
    split
    · exact .pure
    · exact .ite .pure .pure
protected theorem readChain {g ctx} : ∀ {n va}, KeepsMem (readChain g ctx n va)
  | 0, _ => .pure
  | n + 1, va => by
    refine .bind .readImage fun _ => ?_
    split
    · exact .pure
    · refine .ite .pure (.bind .readChain fun _ => ?_)
      split <;> exact .pure
protected theorem markSignature {va} : KeepsMem (markSignature va) := ⟨fun _ hs => hs⟩
protected theorem record {e faddr finfo} : KeepsMem (record e faddr finfo) := by
  refine .bind .myThread fun _ => .bind .myWho fun _ => .bind .checkRoom fun _ => ?_
  split
  · exact .modMyList
  · exact .pure
protected theorem entriesFor {va n} : ∀ {ds}, KeepsMem (entriesFor va n ds)
  | [] => .pure
  | d :: ds => by
    refine .bind .myList fun _ => .ite .pure ?_
    extract_lets rest
    have hrest {x} : KeepsMem (rest x) := .ite .pure (.bind .entriesFor fun _ => .pure)
    split
    · exact hrest
    · refine .bind .threadAgent fun _ => .bind .readChain fun _ => ?_
      split
      · exact hrest
      · exact .bind .throw fun _ => hrest
      · exact .bind .trap fun _ => hrest
protected theorem collectedLoad {va n load} (hload : ∀ {p a}, KeepsMem (load p a)) :
    KeepsMem (collectedLoad va n load) :=
  .bind .myThread fun _ => .bind .entriesFor fun _ => .bind (.mapM fun _ => .bind hload fun _ => .pure) fun _ =>
    .guard .markSignature fun _ => ⟨fun _ hs => hs⟩

/-! ## Slots, the end of an activation, lane groups -/

protected theorem modChannel {die num f} : KeepsMem (modChannel die num f) := ⟨fun _ hs => hs⟩
protected theorem slotFreed {die num idx} : KeepsMem (slotFreed die num idx) := by
  refine .bind .modChannel fun _ => .bind .get fun _ => ?_
  extract_lets
  split
  · exact .ite .modChannel .pure
  · refine .bind .get fun _ => .ite (.bind .choose fun _ => ?_) .pure
    split
    · exact .pure
    · exact ⟨fun _ hs => hs⟩
  · exact .pure
protected theorem withSlot {α : Type} {die num idx k} {m : M α} (hm : KeepsMem m) :
    KeepsMem (withSlot die num idx k m) := by
  refine .of_ends (fun s a t hs h => ?_) fun s e t hs h => ?_ <;> unfold withSlot at h
  · split at h
    · next h' => cases h; exact hm.keeps.ok hs h'
    · cases h
    · split at h <;> cases h
    · cases h
  · split at h
    · cases h
    · next u h' => cases h; exact (hm.keeps.error hs h' : MemWf u)
    · next h' =>
      split at h
      · next hf => cases h; exact KeepsMem.slotFreed.keeps.ok (hm.keeps.error hs h') hf
      · next hf => cases h; exact KeepsMem.slotFreed.keeps.error (hm.keeps.error hs h') hf
    · next h' => cases h; exact hm.keeps.error hs h'
protected theorem freeSlot {who sl} : KeepsMem (freeSlot who sl) := by
  unfold freeSlot
  split
  · exact .modCore
  · exact .bind .get fun _ => .ite .slotFreed .pure
protected theorem giveUpLanes {k n} : KeepsMem (giveUpLanes k n) := ⟨fun _ hs => hs⟩
protected theorem releaseLanes {k} : KeepsMem (releaseLanes k) := .ite .pure ⟨fun _ hs => hs⟩
protected theorem freeSlots {k start} : KeepsMem (freeSlots k start) := by
  refine .bind .getThread fun _ => .ite ?_ (.forM fun _ => .freeSlot)
  split
  · exact .ite (.bind .freeSlot fun _ => .forM fun _ => .freeSlot) (.forM fun _ => .freeSlot)
  · exact .forM fun _ => .freeSlot
protected theorem dropLists {k} : KeepsMem (dropLists k) := by
  refine .bind .getCluster fun _ => .forM fun _ => ?_
  split
  · exact .ite .modCluster .pure
  · exact .pure
protected theorem dormant {k} : KeepsMem (dormant k) := ⟨fun _ hs => hs⟩
protected theorem cancelPending {who num} : KeepsMem (cancelPending who num) :=
  .bind .getCore fun _ => .bind .modCore fun _ => .forM fun _ => .freeSlot
protected theorem errorToken {die num} : KeepsMem (errorToken die num) :=
  .bind .get fun _ => .ite (.bind .modChannel fun _ => .ite (.bind .cancelPending fun _ =>
    ⟨fun _ hs => hs⟩) .pure) .pure
protected theorem modLaunch {id f} : KeepsMem (modLaunch id f) := .modify fun _ hs => by split <;> exact hs
protected theorem failLaunch {id cancel} : KeepsMem (failLaunch id cancel) := by
  refine .bind .get fun _ => ?_
  split
  · exact .pure
  · exact .ite (.guard (.forM fun _ => .errorToken) fun _ => .modLaunch) .pure
protected theorem stageFault {who} : KeepsMem (stageFault who) := by
  refine .bind .get fun _ => ?_
  split
  · exact .failLaunch
  · exact .pure
protected theorem abortActivation {k} : KeepsMem (abortActivation k) :=
  .bind .dropLists fun _ => .bind .releaseLanes fun _ => .bind .freeSlots fun _ => .bind .dormant fun _ => .stageFault
protected theorem endActivation : KeepsMem endActivation := by
  refine .bind .me fun _ => .bind .getThread fun _ => .guard .trap fun _ => .bind .get fun _ => .guard .throw fun _ =>
      .bind .modThread fun _ => .bind .release fun _ => .bind .releaseLanes fun _ => ?_
  extract_lets
  split
  · refine .ite (.bind .freeSlots fun _ => ?_) (.bind .freeSlots fun _ => .dormant)
    split
    · exact ⟨fun _ hs => hs⟩
    · exact .bind .freeSlot fun _ => .dormant
  · exact .bind .freeSlots fun _ => .dormant

/-! ## Scalar loads, stores and atomics -/

protected theorem loadScalar {va n pol acq finfo} : KeepsMem (loadScalar va n pol acq finfo) :=
  .bind .me fun _ => .bind .myView fun _ => .bind .checkScalar fun _ => .bind .collecting fun _ =>
    .ite (.bind (.collectedLoad .loadAt) fun _ => .pure) (.bind .loadAt fun _ => .pure)
protected theorem load {d va pol w} : KeepsMem (load d va pol w) := .bind .loadScalar fun _ => .produce
protected theorem refuseLocal {va n fa finfo} : KeepsMem (refuseLocal va n fa finfo) :=
  .guard .trap fun _ => .ite .trap .pure
protected theorem storeScalar {va n pol value rel finfo} : KeepsMem (storeScalar va n pol value rel finfo) :=
  .bind .me fun _ => .bind .myView fun _ => .bind .collecting fun _ => .ite (.bind .refuseLocal fun _ =>
    .bind .checkScalar fun _ => .record) (.bind .checkScalar fun _ => .guard .release fun _ => .storeAt)
protected theorem atomic {va op o} : KeepsMem (atomic va op o) :=
  .bind .me fun _ => .bind .myView fun _ => .bind .collecting fun _ => .ite (.guard .trap fun _ =>
    .bind .refuseLocal fun _ => .bind .checkScalar fun _ => .bind (.collectedLoad .loadAt) fun _ =>
    .bind .record fun _ => .guard .acquire fun _ => .pure) (.bind .checkScalar fun _ => .guard .release fun _ =>
    .bind .atomAt fun _ => .guard .acquire fun _ => .pure)
protected theorem formAtomic {d a b e f wide o len op} : KeepsMem (formAtomic d a b e f wide o len op) :=
  .straight (.bind .readG fun _ => .bind .readG fun _ => .bind .checkDest fun _ => .bind .me fun _ =>
    .remoteScope (.bind .atomic fun _ => .produce))
protected theorem doLd {p d a l w e o len} : KeepsMem (doLd p d a l w e o len) :=
  .straight (.bind .readIn fun _ => .bind .checkDest fun _ => .bind .me fun _ => .remoteScope .load)
protected theorem doSt {p d a l w e o len} : KeepsMem (doSt p d a l w e o len) :=
  .straight (.bind .readIn fun _ => .bind .readIn fun _ => .bind .me fun _ => .remoteScope .storeScalar)
protected theorem doLdx {p d a b e f l w len} : KeepsMem (doLdx p d a b e f l w len) :=
  .straight (.bind .readIn fun _ => .bind .readIn fun _ => .bind .checkDest fun _ => .bind .me fun _ =>
    .remoteScope .load)
protected theorem doStx {p d a b e f l w len} : KeepsMem (doStx p d a b e f l w len) :=
  .straight (.bind .readIn fun _ => .bind .readIn fun _ => .bind .readIn fun _ => .bind .me fun _ =>
    .remoteScope .storeScalar)
protected theorem doLdacq {p d a e l w len} : KeepsMem (doLdacq p d a e l w len) :=
  .straight (.bind .readIn fun _ => .bind .checkDest fun _ => .bind .me fun _ =>
    .remoteScope (.bind .loadScalar fun _ => .bind .me fun _ => .bind .acquire fun _ => .produce))
protected theorem doStrel {p a b e f l w len} : KeepsMem (doStrel p a b e f l w len) :=
  .straight (.bind .readIn fun _ => .bind .readIn fun _ => .bind .me fun _ => .remoteScope .storeScalar)
protected theorem doAcas {d a b e f w o len} : KeepsMem (doAcas d a b e f w o len) :=
  .straight (.bind .readG fun _ => .bind .readG fun _ => .bind .readG fun _ => .bind .checkDest fun _ =>
    .bind .me fun _ => .remoteScope (.bind .atomic fun _ => .produce))

/-! ## Messages and their arrival -/

protected theorem takeSlot {die num k} : KeepsMem (takeSlot die num k) := by
  refine .bind .get fun _ => .ite .pure (.bind .choose fun _ => ?_)
  split
  · exact .pure
  · exact ⟨fun _ hs => hs⟩
protected theorem launchMessage {die num idx src ep header bytes ctx} :
    KeepsMem (launchMessage die num idx src ep header bytes ctx) :=
  ⟨fun _ hs => hs⟩
protected theorem deliverOn {who n die num idx len ts bytes ord note err ctx} :
    KeepsMem (deliverOn who n die num idx len ts bytes ord note err ctx) :=
  ⟨fun _ hs => hs⟩
protected theorem checkSend {kind y} : KeepsMem (checkSend kind y) := by
  refine .bind .myWho fun _ => .bind .getCore fun _ => ?_
  extract_lets
  split
  · exact .trap
  · exact .bind .get fun _ => .guard .trap fun _ => .guard .trap fun _ => .guard .trap fun _ => .guard .trap fun _ =>
        .guard .trap fun _ => .pure
protected theorem checkPayload {va len} : KeepsMem (checkPayload va len) :=
  .bind .myView fun _ => .bind .myThread fun _ => .forM fun _ => .guard .trap fun _ => .bind .resolve fun _ => .pure
protected theorem reachDevice {who tag} : KeepsMem (reachDevice who tag) := by
  refine .bind .get fun _ => ?_
  split
  · exact .trap
  · exact .ite .pure .throw
protected theorem sendRemote {d who n die num tag len ts ord read} (hread : ∀ {p}, KeepsMem (read p)) :
    KeepsMem (sendRemote d who n die num tag len ts ord read) :=
  .bind .reachDevice fun _ => .bind .get fun _ => .bind .getCore fun _ => .bind .choose fun _ =>
    .ite .writeG (.bind hread fun _ => ⟨fun _ hs => hs⟩)
protected theorem sendChecked {kind d x y n die num} : KeepsMem (sendChecked kind d x y n die num) := by
  refine .bind .me fun _ => .bind .get fun _ => .bind .release fun _ => .bind .getCore fun _ => .ite .writeG ?_
  split
  · exact .writeG
  · split
    · exact .sendRemote (.ite .pure (.bind .threadAgent fun _ => .readVa))
    · refine .bind .takeSlot fun _ => ?_
      split
      · exact .park
      · exact .bind (.withSlot (.ite .pure (.bind .threadAgent fun _ => .readVa))) fun _ => ⟨fun _ hs => hs⟩
protected theorem sendForm {kind d a b e f len} : KeepsMem (sendForm kind d a b e f len) :=
  .straight (.bind .readG fun _ => .bind .readG fun _ => .bind .checkDest fun _ => .guard .forbidCollecting fun _ =>
    .bind .me fun _ => .remoteScope (.bind .checkSend fun _ => .bind .collecting fun _ => .ite (.guard .trap fun _ =>
    .bind .checkPayload fun _ => .bind .record fun _ => ⟨fun _ hs => hs⟩) (.guard .checkPayload fun _ => .sendChecked)))
protected theorem doRecv {d a e len} : KeepsMem (doRecv d a e len) := by
  refine .straight (.bind .readG fun _ => .bind .checkDest fun _ => .bind .forbidCollecting fun _ => .bind .me fun _ =>
      .bind .get fun _ => .ite .produce (.ite .produce ?_))
  extract_lets
  split
  · exact .bind .modCore fun _ => .bind .modMe fun _ => .bind .acquire fun _ => .produce
  · exact .ite (.bind .modCore fun _ => .produce) ⟨fun _ hs => hs⟩
protected theorem doMsgfree {d a e len} : KeepsMem (doMsgfree d a e len) := by
  refine .straight (.bind .readG fun _ => .bind .checkDest fun _ => .bind .forbidCollecting fun _ => .bind .me fun _ =>
      .bind .release fun _ => .bind .myThread fun _ => ?_)
  split
  · exact .writeG
  · exact .ite .writeG (.joined .modMe .modMe fun _ => .bind .freeSlot fun _ => .writeG)
protected theorem doChstat {d a b e f len} : KeepsMem (doChstat d a b e f len) :=
  .straight (.bind .readG fun _ => .bind .readG fun _ => .bind .checkDest fun _ => .bind .forbidCollecting fun _ =>
    ⟨fun _ hs => hs⟩)
protected theorem pend {who p ordered} : KeepsMem (pend who p ordered) := by
  refine .bind .getCore fun _ => .bind .modCore fun _ => ?_
  split
  · exact .modThread
  · exact .pure
protected theorem placeMessage {who off header bytes} : KeepsMem (placeMessage who off header bytes) :=
  .bind .putBytes fun _ => .modCore
protected theorem arrive {k} : KeepsMem (arrive k) := by
  refine .getBind fun _ hs => ?_
  split
  · exact .pure
  · refine .ite .pure (.bind (.set hs) fun _ => ?_)
    split
    · exact .pure
    · refine .ite .pure (.ite .freeSlot (.ite ?_ (.ite ⟨fun _ hs => hs⟩ (.bind .placeMessage fun _ => .pend))))
      split
      · exact .bind .modDie fun _ => .ite ⟨fun _ hs => hs⟩ (.bind .placeMessage fun _ => .pend)
      · exact .ite ⟨fun _ hs => hs⟩ (.bind .placeMessage fun _ => .pend)
protected theorem systemRelease {x} : KeepsMem (systemRelease x) := by
  unfold systemRelease
  split
  · exact .bind .performPosted fun _ => .cleanCore
  · exact .pure
protected theorem deliverSystem {k} : KeepsMem (deliverSystem k) := by
  refine .getBind fun _ hs => ?_
  split
  · exact .pure
  · refine .ite .pure (.bind .systemRelease fun _ => .getBind fun _ hs => ?_)
    extract_lets
    split
    · exact .pure
    · exact .bind (.set hs) fun _ => .bind .modCore fun _ => .bind .placeMessage fun _ => .pend
protected theorem remoteMessage {die num tag who ep ts seq note err bytes} :
    KeepsMem (remoteMessage die num tag who ep ts seq note err bytes) := by
  refine .bind .get fun _ => .ite .pure (.bind .takeSlot fun _ => ?_)
  split
  · exact .pure
  · exact ⟨fun _ hs => hs⟩
protected theorem settleChannel {pl} : KeepsMem (settleChannel pl) := .bind .get fun _ => .ite .modChannel .pure
protected theorem remoteCloses {die num tag who ep} : KeepsMem (remoteCloses die num tag who ep) :=
  .bind .modChannel fun _ => .settleChannel
protected theorem settleStarts {id} : KeepsMem (settleStarts id) := by
  refine .bind .get fun _ => ?_
  split
  · refine .forM fun _ => ?_
    split
    · exact .settleChannel
    · exact .pure
  · exact .pure
protected theorem messageArrival {k} : KeepsMem (messageArrival k) := by
  refine .bind .get fun _ => ?_
  split
  · exact .pure
  · refine .bind .arrive fun _ => ?_
    split
    · exact .ite .settleStarts .pure
    · exact .pure

/-! ## Format-aware pointers and tensor shapes -/

protected theorem checkFat {accept w faddr} : KeepsMem (checkFat accept w faddr) := by
  unfold checkFat
  split
  · exact .trap
  · exact .pure
protected theorem readShape {x} : KeepsMem (readShape x) := by
  unfold readShape
  exact .guard .trap fun _ => .bind .threadAgent fun _ => .bind .readVa fun _ => .pure
protected theorem shapeTrap {α : Type} {sub addr} : KeepsMem (shapeTrap sub addr : M α) := ⟨fun _ hs => hs⟩
protected theorem shapeChecks {checks} : KeepsMem (shapeChecks checks) := by
  unfold shapeChecks
  split
  · exact .shapeTrap
  · exact .pure

/-! ## Engine operations and frees -/

protected theorem checkObject {w} : KeepsMem (checkObject w) := by
  unfold checkObject
  refine .guard .trap fun _ => ?_
  split
  · exact .pure
  · refine .guard .trap fun _ => .bind .myWho fun _ => .bind .getCore fun _ => .bind .myThread fun _ => ?_
    split
    · exact .trap
    · exact .pure
protected theorem scopeOf {va} : KeepsMem (scopeOf va) := by
  refine .ite .pure (.bind .myView fun _ => .bind (.attempt .translate) fun _ => ?_)
  split
  · split <;> exact .pure
  · exact .pure
protected theorem fork {op obj fn} : KeepsMem (fork op obj fn) := ⟨fun _ hs => hs⟩
protected theorem engineFault {e t addr} : KeepsMem (engineFault e t addr) := ⟨fun _ hs => hs⟩
protected theorem engineAtomic {g va op} : KeepsMem (engineAtomic g va op) := by
  refine .ite (.bind .getCore fun _ => ?_) (.bind .translate fun _ => ?_)
  · split
    · exact .trap
    · exact .bind .localWithheld fun _ => .guard .trap fun _ => .bind .takeBytes fun _ => .putBytes
  · split
    · exact .bind .remoteAtom fun _ => .pure
    · refine .bind .checkIsolated fun _ => .bind .serve fun _ => ?_
      split
      · exact .abortCause
      · exact .pure
protected theorem completionAdd {g obj failed} : KeepsMem (completionAdd g obj failed) := .attempt .engineAtomic
protected theorem modEngine {id f} : KeepsMem (modEngine id f) := ⟨fun _ hs => hs⟩
protected theorem engineGone {e} : KeepsMem (Engine.gone e) := ⟨fun _ hs => hs⟩
protected theorem engineComplete {e fault} : KeepsMem (Engine.complete e fault) := by
  unfold Engine.complete
  extract_lets _ rest
  have hrest : KeepsMem (rest ()) := by
    refine .bind .completionAdd fun _ => ?_
    split
    · exact .engineFault
    · exact .pure
  split
  · exact .bind .engineFault fun _ => hrest
  · exact .ite (.bind .freeWord fun _ => .bind .modThread fun _ => hrest) hrest
protected theorem faultOf {m} (hm : KeepsMem m) : KeepsMem (faultOf m) := by
  refine .bind (.attempt hm) fun _ => ?_
  split <;> exact .pure
protected theorem engineRun {id adds body after'} (hbody : ∀ p, KeepsMem (body p))
    (hafter' : ∀ e, KeepsMem (after' e)) : KeepsMem (engineRun id adds body after') := by
  refine .remoteScope (.bind .get fun _ => ?_)
  split
  · exact .pure
  · refine .joined .pure (hbody _) fun _ => .bind .modEngine fun _ => .ite (.bind .get fun _ =>
        ?_) (.bind (hafter' _) fun _ => .engineGone)
    split
    · exact .bind .engineComplete fun _ => .bind (hafter' _) fun _ => .engineGone
    · exact .bind (hafter' _) fun _ => .engineGone
protected theorem checkRange {va n dest} : KeepsMem (checkRange va n dest) := by
  refine .bind .myWho fun _ => .bind .getCore fun _ => .forM fun _ => ?_
  split
  · exact .pure
  · exact .ite .trap .pure
protected theorem engineOperands {d a b e f} : KeepsMem (engineOperands d a b e f) :=
  .bind .readP fun _ => .bind .readG fun _ => .bind .readG fun _ => .bind .readG fun _ => .pure
protected theorem doCopy {d a b e f len} : KeepsMem (doCopy d a b e f len) :=
  .straight (.bind .engineOperands fun _ => .bind .forbidCollecting fun _ => .bind .checkObject fun _ =>
    .guard .trap fun _ => .bind .checkRange fun _ => .bind .checkRange fun _ => .bind .me fun _ =>
    .bind .scopeOf fun _ => .bind .release fun _ => .fork)
protected theorem copyBytes {g src dst n} : KeepsMem (copyBytes g src dst n) := .bind .readVa fun _ => .writeVa
protected theorem copyDone {e} : KeepsMem (copyDone e) := by
  unfold copyDone
  split
  · exact .faultOf .copyBytes
  · exact .pure
protected theorem doCopys {d a b e f len} : KeepsMem (doCopys d a b e f len) :=
  .straight (.bind .readP fun _ => .bind .readG fun _ => .bind .readG fun _ => .bind .forbidCollecting fun _ =>
    .bind .me fun _ => .remoteScope (.bind .checkObject fun _ => .bind .readShape fun _ => .bind .readShape fun _ =>
    .bind .checkFat fun _ => .bind .checkFat fun _ => .bind .shapeChecks fun _ => .bind (.forM fun _ =>
    .checkRange) fun _ => .bind (.forM fun _ => .checkRange) fun _ => .bind .me fun _ => .bind .scopeOf fun _ =>
    .bind .release fun _ => .fork))
protected theorem copyTile {g src dst} : KeepsMem (copyTile g src dst) :=
  .bind (.mapM fun _ => .readVa) fun _ => .forM fun _ => .writeVa
protected theorem copysDone {e} : KeepsMem (copysDone e) := by
  unfold copysDone
  split
  · exact .faultOf .copyTile
  · exact .pure
protected theorem checkNote {z} : KeepsMem (checkNote z) := by
  refine .bind .myWho fun _ => .bind .getCore fun _ => ?_
  extract_lets
  split
  · exact .trap
  · exact .bind .get fun _ => .guard .trap fun _ => .guard .trap fun _ => .guard .trap fun _ => .pure
protected theorem putForm {handler d a b e f len} : KeepsMem (putForm handler d a b e f len) := by
  refine .straight (.bind .engineOperands fun _ => .bind .forbidCollecting fun _ => .bind .me fun _ =>
      .remoteScope (.bind .me fun _ => .bind .checkObject fun _ => .guard .trap fun _ => .bind (.forM fun _ =>
      .ite .trap .pure) fun _ => .bind .checkRange fun _ => .joined (.bind .checkNote fun _ => .pure) .pure fun _ =>
      .bind .get fun _ => .bind (.mapM fun _ => .scopeOf) fun _ => .joined .pure .scopeOf fun _ =>
      .bind .release fun _ => ?_))
  extract_lets +onlyGivenNames _ rest
  have hrest {x} : KeepsMem (rest x) := by
    refine .ite ?_ ⟨fun _ hs => hs⟩
    split
    · exact .bind (.map (.ite (.bind .threadAgent fun _ => .readVa) (.withSlot (.bind .threadAgent fun _ =>
          .readVa)))) fun _ => .fork
    · exact .bind (.map (.bind .threadAgent fun _ => .readVa)) fun _ => .fork
  split
  · exact .bind .pure fun _ => hrest
  · refine .ite (.bind .pure fun _ => hrest) (.bind .takeSlot fun _ => ?_)
    split
    · exact .bind .park fun _ => hrest
    · exact .bind .pure fun _ => hrest
protected theorem translateAll {g va n} : KeepsMem (translateAll g va n) :=
  .forM fun _ => .bind .translate fun _ => .pure
protected theorem freeNote {note} : KeepsMem (freeNote note) := by
  unfold freeNote
  split
  · exact .bind .get fun _ => .ite .slotFreed .pure
  · exact .pure
protected theorem leafDie {g va} : KeepsMem (leafDie g va) := by
  refine .bind .get fun _ => .ite .pure ?_
  split
  · exact .pure
  · refine .bind (.attempt (.bind .walkerFor fun _ => .bind .walkTree fun _ => .pure)) fun _ => ?_
    split <;> exact .pure
protected theorem sendNote {e dst n ep note} : KeepsMem (sendNote e dst n ep note) := by
  unfold sendNote
  split
  · exact .pure
  · refine .bind .get fun _ => ?_
    extract_lets
    split
    · exact .deliverOn
    · exact .bind .reachDevice fun _ => ⟨fun _ hs => hs⟩
protected theorem placeBytes {g dst bs} : KeepsMem (placeBytes g dst bs) := by
  refine .bind (.foldlM fun _ _ => (.bind .translate fun _ => ?_)) fun _ => .pure
  extract_lets
  split
  · exact .bind .remote fun _ => .pure
  · exact .bind .writeVa fun _ => .pure
protected theorem putDone {e} : KeepsMem (putDone e) := by
  unfold putDone
  split
  · extract_lets _ _ _ rest
    have hrest {read} : KeepsMem (rest read) := by
      unfold rest
      split
      · exact .bind .freeNote fun _ => .pure
      · refine .bind (.attempt .translateAll) fun _ => ?_
        split
        · exact .bind .freeNote fun _ => .bind .leafDie fun _ => .bind .sendSystemFrom fun _ => .pure
        · refine .bind (.attempt .placeBytes) fun _ => ?_
          split
          · exact .bind .freeNote fun _ => .pure
          · refine .bind (.attempt .sendNote) fun _ => ?_
            split <;> exact .pure
    split
    · exact .bind .pure fun _ => hrest
    · exact .bind (.attempt .readVa) fun _ => hrest
  · exact .pure
protected theorem allocLow {e cls entry} : KeepsMem (allocLow e cls entry) :=
  .bind .getDie fun _ => .ite ⟨fun _ hs => hs⟩ .pure
protected theorem tableWithheld {e p} : KeepsMem (tableWithheld e p) := .localWithheld
protected theorem allocBlock {e n} : KeepsMem (allocBlock e n) := by
  refine .bind .get fun _ => ?_
  split
  · exact .pure
  · refine .bind .tableWithheld fun _ => .ite ⟨fun _ hs => hs⟩ (.bind .takeBytes fun _ => .bind .takeBytes fun _ =>
        .bind .takeBytes fun _ => .guard .modDie fun _ => .ite (.bind .allocLow fun _ =>
        .pure) (.joined .pure (.attempt .readVa) fun _ => ?_))
    split
    · exact ⟨fun _ hs => hs⟩
    · exact .bind .putBytes fun _ => .guard .allocLow fun _ => .pure
protected theorem allocDone {e} : KeepsMem (allocDone e) := by
  unfold allocDone
  split
  · exact .bind .allocBlock fun _ => .bind .acquire fun _ => ⟨fun _ hs => hs⟩
  · exact .pure
protected theorem doAlloc {d a e len} : KeepsMem (doAlloc d a e len) :=
  .straight (.bind .readG fun _ => .bind .checkDest fun _ => .bind .forbidCollecting fun _ => .bind .me fun _ =>
    .bind .release fun _ => .bind .getCore fun _ => .ite .writeG (.bind .fork fun _ => .ite .modMe .pure))
protected theorem doFree {a b e f len} : KeepsMem (doFree a b e f len) :=
  .straight (.bind .readG fun _ => .bind .readG fun _ => .bind .forbidCollecting fun _ => .guard .trap fun _ =>
    .ite (.guard .trap fun _ => .bind .me fun _ => .bind .release fun _ => .fork) .pure)
protected theorem settleAllocs {k} : KeepsMem (settleAllocs k) :=
  .bind .get fun _ => .forM fun _ => .bind (.attempt (.engineRun (fun _ => .allocDone) fun _ => .pure)) fun _ => .pure
protected theorem asThread {α : Type} {k} {m : M α} (hm : KeepsMem m) : KeepsMem (asThread k m) := by
  refine .of_ends (fun s a t hs h => ?_) fun s e t hs h => ?_ <;> unfold asThread at h <;> split at h <;> cases h
  · next u h' => exact (hm.keeps.ok (s := { s with run := { s.run with cur := k } }) hs h' : MemWf u)
  · next u h' => exact (hm.keeps.error (s := { s with run := { s.run with cur := k } }) hs h' : MemWf u)
protected theorem trapOther {k x} : KeepsMem (trapOther k x) := .bind .settleAllocs fun _ => .asThread .takeTrap
protected theorem freeDone {e} : KeepsMem (freeDone e) := by
  unfold freeDone
  split
  · refine .bind .get fun _ => ?_
    split
    · exact .pure
    · refine .bind .tableWithheld fun _ => .ite ⟨fun _ hs => hs⟩ (.bind .takeBytes fun _ => .bind .takeBytes fun _ =>
          .bind .takeBytes fun _ => .bind (.attempt .writeVa) fun _ => ?_)
      extract_lets
      split
      · exact ⟨fun _ hs => hs⟩
      · exact .bind .putBytes fun _ => .ite ⟨fun _ hs => hs⟩ .pure
  · exact .pure

/-! ## Barriers -/

protected theorem modGroup {die g f} : KeepsMem (modGroup die g f) := ⟨fun _ hs => hs⟩
protected theorem modBarrier {die b f} : KeepsMem (modBarrier die b f) := ⟨fun _ hs => hs⟩
protected theorem completePhase {die n} : KeepsMem (completePhase die n) := ⟨fun _ hs => hs⟩
protected theorem recheckBarrier {die n} : KeepsMem (recheckBarrier die n) :=
  .bind .get fun _ => .ite .completePhase .pure
protected theorem breakBarrier {die n sub} : KeepsMem (breakBarrier die n sub) :=
  .bind .modBarrier fun _ => .bind .get fun _ => .forM fun _ => .bind .modThread fun _ => .trapOther
protected theorem namedBarrier {x} : KeepsMem (namedBarrier x) :=
  .bind .myWho fun _ => .bind .get fun _ => .guard .trap fun _ => .bind .myThread fun _ => .guard .trap fun _ => .pure
protected theorem checkArrival {x arriving} : KeepsMem (checkArrival x arriving) :=
  .bind .namedBarrier fun _ => .bind .get fun _ => .bind .myWho fun _ => .guard ⟨fun _ hs => hs⟩ fun _ =>
    .guard ⟨fun _ hs => hs⟩ fun _ => .guard ⟨fun _ hs => hs⟩ fun _ => .pure
protected theorem arriveAt {die n} : KeepsMem (arriveAt die n) :=
  .bind .myWho fun _ => .bind .get fun _ => .bind .modBarrier fun _ => .bind .recheckBarrier fun _ => .pure
protected theorem grantPoint {k} : KeepsMem (grantPoint k) :=
  .bind .get fun _ => .ite (.bind .choose fun _ => .giveUpLanes) .pure
protected theorem awaitPhase {die n phase d} : KeepsMem (awaitPhase die n phase d) :=
  .bind .me fun _ => .bind .get fun _ => .ite ⟨fun _ hs => hs⟩ (.bind .acquire fun _ => .bind .grantPoint fun _ =>
    ⟨fun _ hs => hs⟩)
protected theorem doBararr {d a e len} : KeepsMem (doBararr d a e len) :=
  .straight (.bind .readG fun _ => .bind .checkDest fun _ => .bind .forbidCollecting fun _ =>
    .bind .checkArrival fun _ => .bind .me fun _ => .bind .release fun _ => .bind .arriveAt fun _ => .writeG)
protected theorem releasedPhase {x} : KeepsMem (releasedPhase x) := by
  refine .bind .myThread fun _ => ?_
  split
  · exact .pure
  · exact ⟨fun _ hs => hs⟩
protected theorem doBarwait {d a e len} : KeepsMem (doBarwait d a e len) := by
  refine .straight (.bind .readG fun _ => .bind .checkDest fun _ => .bind .forbidCollecting fun _ =>
      .bind .releasedPhase fun _ => ?_)
  split
  · exact .awaitPhase
  · refine .bind .checkArrival fun _ => .bind .myThread fun _ => ?_
    split
    · exact .awaitPhase
    · refine .bind .get fun _ => .bind .myWho fun _ => ?_
      split
      · exact .bind .me fun _ => .bind .grantPoint fun _ => .writeG
      · exact .awaitPhase
protected theorem doBararw {d a e len} : KeepsMem (doBararw d a e len) := by
  refine .straight (.bind .readG fun _ => .bind .checkDest fun _ => .bind .forbidCollecting fun _ =>
      .bind .releasedPhase fun _ => ?_)
  split
  · exact .awaitPhase
  · refine .bind .myThread fun _ => ?_
    split
    · exact .bind .checkArrival fun _ => .awaitPhase
    · exact .bind .checkArrival fun _ => .bind .me fun _ => .bind .release fun _ => .bind .arriveAt fun _ => .awaitPhase
protected theorem doBarcfg {d a b e f len} : KeepsMem (doBarcfg d a b e f len) :=
  .straight (.bind .readG fun _ => .bind .readG fun _ => .bind .checkDest fun _ => .bind .forbidCollecting fun _ =>
    .bind .me fun _ => .bind .namedBarrier fun _ => .bind .release fun _ => .ite (.bind .writeG fun _ =>
    .acquire) (.bind .get fun _ => .ite (.bind .writeG fun _ => .acquire) (.bind .modBarrier fun _ =>
    .bind .writeG fun _ => .acquire)))
protected theorem doBarq {d a b e f len} : KeepsMem (doBarq d a b e f len) :=
  .straight (.bind .readG fun _ => .bind .readG fun _ => .bind .checkDest fun _ => .bind .forbidCollecting fun _ =>
    .bind .namedBarrier fun _ => ⟨fun _ hs => hs⟩)

/-! ## List instructions, application and commit -/

protected theorem wholeList {d} : KeepsMem (wholeList d) := .bind .myList fun _ => .guard .trap fun _ => .pure
protected theorem checkAdded {n stored} : KeepsMem (checkAdded n stored) :=
  .bind .myWho fun _ => .bind .getCluster fun _ => .bind .getCore fun _ => .guard .trap fun _ => .ite .trap .pure
protected theorem doEcat {d a b e f len} : KeepsMem (doEcat d a b e f len) :=
  .straight (.bind .readG fun _ => .bind .readG fun _ => .bind .checkDest fun _ => .bind .storeHandle fun _ =>
    .bind .storeHandle fun _ => .guard .trap fun _ => .bind .wholeList fun _ => .bind .wholeList fun _ =>
    .bind .me fun _ => .bind .myCluster fun _ => .bind .checkAdded fun _ => ⟨fun _ hs => hs⟩)
protected theorem filterList {inside d a b e f len} : KeepsMem (filterList inside d a b e f len) :=
  .straight (.bind .readG fun _ => .bind .readG fun _ => .bind .readG fun _ => .bind .checkDest fun _ =>
    .bind .storeHandle fun _ => .bind .wholeList fun _ => .guard .trap fun _ => ⟨fun _ hs => hs⟩)
protected theorem doEreb {a b e f len} : KeepsMem (doEreb a b e f len) :=
  .straight (.bind .readG fun _ => .bind .readG fun _ => .bind .storeHandle fun _ => .bind .wholeList fun _ =>
    .guard .trap fun _ => .guard .trap fun _ => .modMyList)
protected theorem doEdrop {a e len} : KeepsMem (doEdrop a e len) := by
  refine .straight (.bind .readG fun _ => .bind .storeHandle fun _ => .bind .myList fun _ => ?_)
  split
  · exact .modMyList
  · exact ⟨fun _ hs => hs⟩
protected theorem doEinfo {d a b e f len} : KeepsMem (doEinfo d a b e f len) := by
  refine .straight (.bind .readG fun _ => .bind .readG fun _ => .bind .checkDest fun _ => .bind .me fun _ =>
      .remoteScope (.guard .trap fun _ => .bind .resolveHandle fun _ => ?_))
  extract_lets
  split
  · exact ⟨fun _ hs => hs⟩
  · exact ⟨fun _ hs => hs⟩
  · exact ⟨fun _ hs => hs⟩
  · refine .ite (.bind .threadAgent fun _ => .bind .myThread fun _ => .bind .readChain fun _ => ?_) (⟨fun _ hs => hs⟩)
    split <;> exact ⟨fun _ hs => hs⟩
protected theorem doEspill {d a b e f len} : KeepsMem (doEspill d a b e f len) := by
  refine .straight (.bind .readG fun _ => .bind .readG fun _ => .bind .checkDest fun _ => .bind .me fun _ =>
      .remoteScope (.bind .resolveHandle fun _ => ?_))
  extract_lets
  split
  · exact .bind .pure fun _ => .bind .myList fun _ => .guard .trap fun _ => .guard .trap fun _ =>
        .ite .writeG (.bind .threadAgent fun _ => .bind .writeVa fun _ => ⟨fun _ hs => hs⟩)
  · exact .bind .pure fun _ => .bind .myList fun _ => .guard .trap fun _ => .guard .trap fun _ =>
        .ite .writeG (.bind .threadAgent fun _ => .bind .writeVa fun _ => ⟨fun _ hs => hs⟩)
  · exact .bind .trap fun _ => .bind .myList fun _ => .guard .trap fun _ => .guard .trap fun _ =>
        .ite .writeG (.bind .threadAgent fun _ => .bind .writeVa fun _ => ⟨fun _ hs => hs⟩)
protected theorem loadChain {va} : KeepsMem (loadChain va) := by
  refine .bind .threadAgent fun _ => .bind .myThread fun _ => .bind .readChain fun _ => ?_
  split
  · exact .pure
  · exact .throw
  · exact .trap
protected theorem doEload {d a e len} : KeepsMem (doEload d a e len) := by
  refine .straight (.bind .readG fun _ => .bind .checkDest fun _ => .bind .me fun _ => .remoteScope (.bind .me fun _ =>
      .bind .resolveHandle fun _ => ?_))
  split
  · exact .bind .loadChain fun _ => .bind .checkAdded fun _ => .bind .myThread fun _ => .bind .makeList fun _ =>
        ⟨fun _ hs => hs⟩
  · refine .bind .myList fun _ => ?_
    split
    · exact .guard .trap fun _ => .bind .loadChain fun _ => .bind .checkAdded fun _ => ⟨fun _ hs => hs⟩
    · exact .trap
  · exact .trap
protected theorem applyForm {ordered a b e f len} : KeepsMem (applyForm ordered a b e f len) := by
  refine .straight (.bind .readG fun _ => .bind .readG fun _ => .bind .forbidCollecting fun _ =>
    .bind .resolveHandle fun _ => ?_)
  extract_lets rest
  have hrest {p} : KeepsMem (rest p) := by
    refine .bind .checkObject fun _ => .bind .me fun _ => .bind .scopeOf fun _ => .bind .release fun _ => ?_
    dsimp only
    split
    · exact .bind .modMyList fun _ => .fork
    · exact .fork
  split
  · exact .bind .pure fun _ => hrest
  · exact .bind .pure fun _ => hrest
  · exact .bind .trap fun _ => hrest
protected theorem checkEntry {g t} : KeepsMem (checkEntry g t) := by
  unfold checkEntry
  extract_lets _ one
  have hone {va w pol} : KeepsMem (one va w pol) := by
    refine .guard .trap fun _ => .bind .translate fun _ => ?_
    split
    · exact .ite .trap .pure
    · exact .pure
  split
  · exact hone
  · exact hone
  · exact .forM fun _ => hone
  · exact .pure
protected theorem applyEntries {g l image ctx} : KeepsMem (applyEntries g l image ctx) := by
  unfold applyEntries
  extract_lets chain _ rest
  have hrest {old} : KeepsMem (rest old) := by
    unfold rest
    split
    · exact .pure
    · exact .pure
    · refine .bind (.attempt (.forM fun _ => .checkEntry)) fun _ => ?_
      split <;> exact .pure
  cases chain with
  | none => exact .bind .pure fun _ => hrest
  | some va => exact .bind .readChain fun _ => hrest
protected theorem performSend {g t} : KeepsMem (performSend g t) := by
  refine .bind .getCore fun _ => ?_
  extract_lets
  split
  · exact .pure
  · refine .bind .get fun _ => .ite .pure ?_
    split
    · exact .bind .reachDevice fun _ => .bind .readVa fun _ => ⟨fun _ hs => hs⟩
    · refine .bind .takeSlot fun _ => ?_
      split
      · exact .throw
      · exact .bind (.withSlot .readVa) fun _ => .deliverOn
protected theorem performEntry {g thread t} : KeepsMem (performEntry g thread t) := by
  unfold performEntry
  extract_lets
  split
  · exact .performSend
  · exact .trap
  · exact .engineAtomic
  · refine .ite (.bind .translate fun _ => ?_) .writePiece
    split
    · exact .trap
    · exact .bind .checkIsolated fun _ => .bind .get fun _ => .guard .trap fun _ => .storeHome
protected theorem performFrom {g thread note next} (hnote : ∀ {x va}, KeepsMem (note x va)) (hnext : KeepsMem next) :
    ∀ {es}, KeepsMem (performFrom g thread note next es)
  | [] => .pure
  | t :: ts => by
    have hrest {r : Unit} : KeepsMem (do
        modify fun s => s.dropWaits g.k
        next
        performFrom g thread note next ts) :=
      .bind (.modify fun _ hs => State.dropWaits_memWf hs) fun _ => .bind hnext fun _ => .performFrom hnote hnext
    refine .bind (.attempt .performEntry) fun _ => ?_
    split
    · exact hrest (r := ())
    · exact .bind hnote fun _ => hrest (r := ())
protected theorem applyDone {e} : KeepsMem (applyDone e) := by
  unfold applyDone
  split
  · refine .bind .getCluster fun _ => ?_
    extract_lets _ rest
    have hrest {start} : KeepsMem (rest start) := by
      unfold rest
      split
      · dsimp only
        split
        · exact .bind .modCluster fun _ => .pure
        · exact .pure
      · exact .bind .modEngine fun _ => .bind (.performFrom .modEngine .modEngine) fun _ => .bind .get fun _ => .pure
    split
    · exact .bind .pure fun _ => hrest
    · exact .bind .applyEntries fun _ => hrest
  · exact .pure
protected theorem applicationEnds {e} : KeepsMem (applicationEnds e) := by
  unfold applicationEnds
  split
  · refine .bind .getCluster fun _ => ?_
    split
    · exact .ite .modCluster (.ite .modCluster .modCluster)
    · exact .modCluster
    · exact .pure
  · exact .pure
protected theorem awaitingDrop {w} : KeepsMem (Awaiting.drop w) := ⟨fun _ hs => hs⟩
protected theorem unawait {die k} : KeepsMem (unawait die k) := ⟨fun _ hs => hs⟩
protected theorem modAwait {die k f} : KeepsMem (modAwait die k f) := ⟨fun _ hs => hs⟩
protected theorem rerun {die k w} : KeepsMem (rerun die k w) := ⟨fun _ hs => hs⟩
protected theorem commitAborted {die k va} : KeepsMem (commitAborted die k va) := ⟨fun _ hs => hs⟩
protected theorem commitMessage {die w va} : KeepsMem (commitMessage die w va) := ⟨fun _ hs => hs⟩
protected theorem committed {die k w es} : KeepsMem (committed die k w es) := by
  refine .bind .unawait fun _ => .bind .modDie fun _ => .bind .awaitingDrop fun _ => .bind .freeSlot fun _ => ?_
  split
  · exact .commitMessage
  · exact .pure
protected theorem commitList {die k} : KeepsMem (commitList die k) := by
  refine .bind .get fun _ => ?_
  split
  · exact .pure
  · refine .ite .pure (.remoteScope (.bind .getCluster fun _ => ?_))
    extract_lets _ rest
    have hrest {es} : KeepsMem (rest es) := by
      unfold rest
      split
      · exact .rerun
      · refine .bind .modAwait fun _ => .bind (.performFrom .commitAborted .modAwait) fun _ => .bind .get fun _ => ?_
        split
        · exact .committed
        · exact .pure
    split
    · exact .bind .pure fun _ => hrest
    · refine .ite (.bind .pure fun _ => hrest) (.bind .applyEntries fun _ => ?_)
      split <;> exact .bind .pure fun _ => hrest

/-! ## Removal of translations -/

protected theorem dropTlbs {who p} : KeepsMem (dropTlbs who p) := ⟨fun _ hs => hs⟩
protected theorem flushLines {who p} : KeepsMem (flushLines who p) :=
  .bind .getCore fun _ => .forM fun _ => .dropLine
protected theorem flushAll {q p} : KeepsMem (flushAll q p) := .bind .get fun _ => .forM fun _ => .flushLines
protected theorem drainWhere {p} : KeepsMem (drainWhere p) := .drainReqs
protected theorem dropSpace {sp u n} : KeepsMem (dropSpace sp u n) := ⟨fun _ hs => hs⟩
protected theorem writeKptroot {who v} : KeepsMem (writeKptroot who v) := ⟨fun _ hs => hs⟩
protected theorem doTlbi {d a len} : KeepsMem (doTlbi d a len) :=
  .straight (.bind .readP fun _ => .bind .readP fun _ => .bind .readP fun _ => .bind .forbidCollecting fun _ =>
    .bind .checkObject fun _ => .guard .trap fun _ => .bind .me fun _ => .bind .scopeOf fun _ => .bind .release fun _ =>
    ⟨fun _ hs => hs⟩)
protected theorem tlbiDone {e} : KeepsMem (tlbiDone e) := by
  unfold tlbiDone
  split
  · exact .bind .dropSpace fun _ => .bind .performAll fun _ => .bind .flushAll fun _ => .bind .get fun _ =>
        .guard .throw fun _ => .pure
  · exact .pure

/-! ## The Frame Custody Unit -/

protected theorem modCustody {f g} : KeepsMem (modCustody f g) := ⟨fun _ hs => hs⟩
protected theorem notice {side kind cause frame deadline time} :
    KeepsMem (notice side kind cause frame deadline time) := by
  refine .getBind fun _ hs => (.ite (.set hs) (.bind .serve fun _ => ?_))
  extract_lets
  split <;> exact .bind .pure fun _ => .bind .serve fun _ => .bind .serve fun _ => .pure
protected theorem writeRing {side v} : KeepsMem (writeRing side v) := .modify fun _ hs => by split <;> exact hs
protected theorem flushFrame {side frame} : KeepsMem (flushFrame side frame) := .flushAll
protected theorem revoke {side frame after' waiter began} : KeepsMem (revoke side frame after' waiter began) :=
  .bind .modCustody fun _ => .bind ⟨fun _ hs => hs⟩ fun _ => .bind .dropTlbs fun _ => .bind ⟨fun _ hs => hs⟩ fun _ =>
    .flushFrame
protected theorem zeroFrame {frame} : KeepsMem (zeroFrame frame) := .forM fun _ => .bind .serve fun _ => .pure
protected theorem whole {α : Type} {m : M α} (hm : KeepsMem m) : KeepsMem (whole m) := by
  refine .of_ends (fun s a t hs h => ?_) fun s e t hs h => ?_ <;> unfold whole at h <;> split at h
  · cases h
  · exact hm.keeps.ok hs h
  · cases h; exact hs
  · exact hm.keeps.error hs h
protected theorem deal {o side f y k} : KeepsMem (deal o side f y k) := by
  refine .bind .get fun _ => ?_
  extract_lets
  split
  · exact .ite .pure (.ite .pure (.bind .modCustody fun _ => .bind .notice fun _ => .pure))
  · exact .ite .pure (.ite .pure (.bind .modCustody fun _ => .bind .notice fun _ => .pure))
  · refine .ite .pure ?_
    split
    · exact .bind .modCustody fun _ => .bind .notice fun _ => .pure
    · exact .bind .modCustody fun _ => .bind .notice fun _ => .pure
    · exact .pure
  · split
    · exact .bind .zeroFrame fun _ => ⟨fun _ hs => hs⟩
    · exact .ite .pure (.bind .modThread fun _ => .bind .revoke fun _ => .pure)
    · exact .ite .pure .pure
  · split
    · exact .ite (.bind .modThread fun _ => .bind .revoke fun _ => .pure) .pure
    · exact .ite (.bind .modThread fun _ => .bind .revoke fun _ => .pure) .pure
    · exact .ite (.bind .modThread fun _ => .bind .revoke fun _ => .pure) .pure
    · exact .ite .pure .pure
protected theorem answerDeal {k st} : KeepsMem (answerDeal k st) := ⟨fun _ hs => hs⟩
protected theorem serveTurns {frame} : ∀ {n}, KeepsMem (serveTurns frame n)
  | 0 => .pure
  | n + 1 => by
    refine .bind .get fun _ => ?_
    extract_lets
    split
    · exact .pure
    · refine .ite (.bind .modCustody fun _ => .bind .deal fun _ => ?_) .pure
      split
      · exact .bind .answerDeal fun _ => .serveTurns
      · exact .serveTurns
protected theorem endRevocation {frame} : KeepsMem (endRevocation frame) := by
  refine .bind .get fun _ => .bind .drainWhere fun _ => ?_
  extract_lets owner turns answer told
  have howner {o} : KeepsMem (owner o) := .modCustody
  have hanswer : KeepsMem (answer ()) := by
    unfold answer
    split
    · exact .bind .answerDeal fun _ => .serveTurns
    · exact .serveTurns
  have htold : KeepsMem (told ()) := by
    unfold told
    split
    · exact .bind howner fun _ => hanswer
    · exact .guard .zeroFrame fun _ => .bind howner fun _ => .bind .notice fun _ => hanswer
    · refine .bind howner fun _ => ?_
      split
      · exact .ite (.bind (.modify_of_mem fun _ => rfl) fun _ => .bind .notice fun _ => .bind .notice fun _ =>
          hanswer) (.bind .notice fun _ => hanswer)
      · exact hanswer
    · exact hanswer
  split
  · exact .bind .flushFrame fun _ => htold
  · exact htold
protected theorem dealForm {o d a b e f len} : KeepsMem (dealForm o d a b e f len) := by
  refine .straight (.bind .readG fun _ => .bind .readG fun _ => .bind .checkDest fun _ =>
      .bind .forbidCollecting fun _ => .bind .me fun _ => .bind .myThread fun _ => ?_)
  split
  · exact .bind .modMe fun _ => .bind .writeG fun _ => .acquire
  · exact .throw
  · refine .bind .release fun _ => .bind .get fun _ => .guard .throw fun _ => .ite (.bind .writeG fun _ =>
        .acquire) (.ite (.bind .writeG fun _ => .acquire) (.ite ⟨fun _ hs => hs⟩ (.bind (.whole .deal) fun _ => ?_)))
    split
    · exact .bind .writeG fun _ => .acquire
    · exact .throw
protected theorem doFquery {d a b e f len} : KeepsMem (doFquery d a b e f len) :=
  .straight (.bind .readG fun _ => .bind .readG fun _ => .bind .checkDest fun _ => .bind .forbidCollecting fun _ =>
    .bind .get fun _ => .guard .throw fun _ => ⟨fun _ hs => hs⟩)

/-! ## Groups, multicast and reduction -/

protected theorem doGinfo {d a b e f len} : KeepsMem (doGinfo d a b e f len) :=
  .straight (.bind .readG fun _ => .bind .readG fun _ => .bind .checkDest fun _ => .bind .forbidCollecting fun _ =>
    ⟨fun _ hs => hs⟩)
protected theorem gsetApply {die x y} : KeepsMem (gsetApply die x y) := by
  refine .bind .get fun _ => ?_
  extract_lets
  split
  · exact .bind .modGroup fun _ => .forM fun _ => .bind .modBarrier fun _ => .recheckBarrier
  · exact .bind .modGroup fun _ => .forM fun _ => .bind .modBarrier fun _ => .recheckBarrier
  · exact .modGroup
  · exact .bind .modGroup fun _ => .forM fun _ => .bind .modBarrier fun _ => .recheckBarrier
protected theorem doGset {d a b e f len} : KeepsMem (doGset d a b e f len) := by
  refine .straight (.bind .readG fun _ => .bind .readG fun _ => .bind .checkDest fun _ =>
      .bind .forbidCollecting fun _ => .bind .me fun _ => .bind .release fun _ => .bind .get fun _ => ?_)
  extract_lets
  split
  · exact .bind .writeG fun _ => .acquire
  · exact .bind .gsetApply fun _ => .bind .writeG fun _ => .acquire
protected theorem checkGroup {z member} : KeepsMem (checkGroup z member) :=
  .bind .myWho fun _ => .bind .get fun _ => .bind .myThread fun _ => .guard .trap fun _ => .pure
protected theorem doGmcast {d a b e f len} : KeepsMem (doGmcast d a b e f len) :=
  .straight (.bind .engineOperands fun _ => .bind .forbidCollecting fun _ => .bind .checkObject fun _ =>
    .guard .trap fun _ => .bind .checkGroup fun _ => .bind .checkRange fun _ => .guard .trap fun _ => .bind .me fun _ =>
    .bind .scopeOf fun _ => .bind .release fun _ => ⟨fun _ hs => hs⟩)
protected theorem gmcastDone {e} : KeepsMem (gmcastDone e) := by
  unfold gmcastDone
  split
  · refine .bind (.attempt .readVa) fun _ => ?_
    split
    · exact .pure
    · exact .bind (.forM fun _ => .bind .getCore fun _ => .ite .modEngine .putBytes) fun _ => .pure
  · exact .pure
protected theorem doGred {d a b e f len} : KeepsMem (doGred d a b e f len) :=
  .straight (.bind .engineOperands fun _ => .bind .forbidCollecting fun _ => .bind .me fun _ =>
    .bind .checkObject fun _ => .guard .trap fun _ => .bind .checkGroup fun _ => .guard .trap fun _ =>
    .guard .trap fun _ => .bind .checkRange fun _ => .bind .checkRange fun _ => .bind .get fun _ =>
    .guard .park fun _ => .bind .scopeOf fun _ => .bind .release fun _ => .modGroup)
protected theorem foldMembers {die gn ctx arr} : KeepsMem (foldMembers die gn ctx arr) := by
  unfold foldMembers
  split
  · exact .pure
  · refine .bind (.attempt (.mapM fun _ => .readVa)) fun _ => ?_
    split
    · exact .pure
    · exact .pure
    · exact ⟨fun _ hs => hs⟩
protected theorem writeMembers {die gn ctx arr} : ∀ {n w}, KeepsMem (writeMembers die gn ctx arr n w)
  | 0, _ => .pure
  | n + 1, w => by
    unfold writeMembers
    split
    · exact .pure
    · extract_lets rest
      have hrest {x} : KeepsMem (rest x) := .bind (.modify fun _ hs => State.dropWaits_memWf hs) fun _ =>
        .bind .modGroup fun _ => .writeMembers
      split
      · exact hrest
      · refine .bind (.attempt .writePiece) fun _ => ?_
        split <;> exact hrest
protected theorem reduceAll {die gn ctx arr} : KeepsMem (reduceAll die gn ctx arr) := by
  refine .bind .get fun _ => ?_
  extract_lets
  split
  · exact .bind .pure fun _ => .writeMembers
  · exact .bind .foldMembers fun _ => .bind (.modify fun _ hs => State.dropWaits_memWf hs) fun _ =>
        .bind .modGroup fun _ => .bind .pure fun _ => .writeMembers
protected theorem redAdds {die gn ctx arr fault faulty} : KeepsMem (redAdds die gn ctx arr fault faulty) :=
  .forM fun _ => ⟨fun _ hs => hs⟩
protected theorem performAdds {die gn} : KeepsMem (performAdds die gn) := by
  refine .bind .get fun _ => .bind (.forIn fun e _ => .bind (.modify fun s hs => ?_) fun _ => .pure) fun _ => .wakeAll
  have hrun : KeepsMem (engineRun e.id true (fun _ => pure none) fun _ => pure ()) := .engineRun (fun _ => .pure) fun _ => .pure
  split
  · next h => exact hrun.keeps.ok hs h
  · next h => exact hrun.keeps.error hs h

protected theorem performRed {die gn} : KeepsMem (performRed die gn) := by
  refine .bind .get fun _ => ?_
  extract_lets
  split
  · exact .pure
  · exact .ite (.remoteScope (.joined .reduceAll .pure fun _ => .bind .modGroup fun _ => .redAdds)) .pure
protected theorem breakGroup {die gn who} : KeepsMem (breakGroup die gn who) :=
  .bind .get fun _ => .ite (.bind .modGroup fun _ => .bind (.forM fun _ => .redAdds) fun _ => .performAdds) .pure
protected theorem settleGroup {die gn} : KeepsMem (settleGroup die gn) :=
  .bind .get fun _ => .bind (.forM fun _ => .performRed) fun _ => .bind .get fun _ => .bind .modGroup fun _ =>
    .bind (.forM fun _ => .redAdds) fun _ => .bind .get fun _ => .bind (.forM fun _ => .engineRun (fun _ =>
    .gmcastDone) fun _ => .pure) fun _ => .bind .performAdds fun _ => .bind .get fun _ => .ite .throw .pure

/-! ## Mapping of scratchpad ranges -/

protected theorem recallLine {who pline traced} : KeepsMem (recallLine who pline traced) :=
  .bind .drainLine fun _ => .bind .get fun _ => .bind (.forM fun _ => .bind .doAsk fun _ => .pure) fun _ =>
    .bind .get fun _ => .bind (.forM fun _ => .bind .doAsk fun _ => .pure) fun _ => ⟨fun _ hs => hs⟩
protected theorem pinLine {who pline0 place traced} : KeepsMem (pinLine who pline0 place traced) :=
  .bind .get fun _ => .bind .get fun _ => .ite (.bind .makeRoom fun _ => ⟨fun _ hs => hs⟩) .pure
protected theorem dropPins {who pline0 place} : KeepsMem (dropPins who pline0 place) :=
  .bind .get fun _ => .bind .drainLine fun _ => .bind .get fun _ => .ite ⟨fun _ hs => hs⟩ .pure
protected theorem unpinLine {who pline0 place} : KeepsMem (unpinLine who pline0 place) :=
  .bind .get fun _ => .bind .get fun _ => .bind .dropPins fun _ => .ite (.bind .takeBytes fun _ =>
    .writeHome .noteAt) .pure
protected theorem mapEntryRelease {e who} : KeepsMem (MapEntry.release e who) :=
  .bind (.foldlM fun _ _ => (.bind .unpinLine fun _ => .pure)) fun _ => .pure
protected theorem evictMaps {who ctx} : KeepsMem (evictMaps who ctx) :=
  .bind .getCore fun _ => .bind (.forM fun _ => .ite .mapEntryRelease .pure) fun _ => .modCore
protected theorem removeMaps {who ctx} : KeepsMem (removeMaps who ctx) :=
  .bind .getCore fun _ => .bind (.forM fun _ => .ite .mapEntryRelease .pure) fun _ => .modCore

/-! ## The lane grant and vector registers -/

protected theorem modVec {f} : KeepsMem (modVec f) := ⟨fun _ hs => hs⟩
protected theorem formLane {d m len op} : KeepsMem (formLane d m len op) := .straight ⟨fun _ hs => hs⟩
protected theorem formV2 {d a b m len op} : KeepsMem (formV2 d a b m len op) := .formLane
protected theorem formVCmp {d a b m len op} : KeepsMem (formVCmp d a b m len op) := .straight .modVec
protected theorem raiseLanes {fs} : KeepsMem (raiseLanes fs) := ⟨fun _ hs => hs⟩
protected theorem formVF {d a b m len op} : KeepsMem (formVF d a b m len op) := .straight ⟨fun _ hs => hs⟩
protected theorem formVFCmp {d a b m len op} : KeepsMem (formVFCmp d a b m len op) :=
  .straight (.ite ⟨fun _ hs => hs⟩ .pure)
protected theorem takeGroups {k gs} : KeepsMem (takeGroups k gs) :=
  .bind .modCluster fun _ => .bind (.modify fun _ hs => Mem.zeros_wf _ _ _ hs) fun _ => .modThread
protected theorem doVclaim {d a e len} : KeepsMem (doVclaim d a e len) :=
  .straight (.bind .readG fun _ => .bind .checkDest fun _ => .bind .me fun _ => .ite .writeG (.bind .myThread fun _ =>
    .ite ⟨fun _ hs => hs⟩ (.bind .getCluster fun _ => .bind .takeGroups fun _ => ⟨fun _ hs => hs⟩)))
protected theorem doVrel {len} : KeepsMem (doVrel len) := .straight (.bind .me fun _ => .releaseLanes)
protected theorem doVlen {d len} : KeepsMem (doVlen d len) := .straight (.bind .checkDest fun _ => ⟨fun _ hs => hs⟩)
protected theorem doVbcast {d a m len} : KeepsMem (doVbcast d a m len) := .bind .readP fun _ => .formLane
protected theorem doVext {d a b len} : KeepsMem (doVext d a b len) :=
  .straight (.bind .readP fun _ => .bind .checkDest fun _ => ⟨fun _ hs => hs⟩)
protected theorem doVrsum {d a m len} : KeepsMem (doVrsum d a m len) :=
  .straight (.bind .checkDest fun _ => ⟨fun _ hs => hs⟩)
protected theorem formTree {d a m len empty op} : KeepsMem (formTree d a m len empty op) :=
  .straight (.bind .checkDest fun _ => ⟨fun _ hs => hs⟩)
protected theorem doMand {d a b len} : KeepsMem (doMand d a b len) := .straight .modVec
protected theorem doMor {d a b len} : KeepsMem (doMor d a b len) := .straight .modVec
protected theorem doMnot {d a len} : KeepsMem (doMnot d a len) := .straight .modVec
protected theorem doMpop {d a len} : KeepsMem (doMpop d a len) :=
  .straight (.bind .checkDest fun _ => ⟨fun _ hs => hs⟩)
protected theorem doMset {d a len} : KeepsMem (doMset d a len) := .straight (.bind .readP fun _ => .modVec)

/-! ## The weave array and the stake store -/

protected theorem modWeave {cl f} : KeepsMem (modWeave cl f) := ⟨fun _ hs => hs⟩
protected theorem getWeave {cl} : KeepsMem (getWeave cl) := ⟨fun _ hs => hs⟩
protected theorem wakeGang {cl} : KeepsMem (wakeGang cl) := ⟨fun _ hs => hs⟩
protected theorem doBload {d a b len} : KeepsMem (doBload d a b len) :=
  .straight (.bind .readP fun _ => .bind .readP fun _ => .bind .readP fun _ => .bind .readP fun _ =>
    .bind .forbidCollecting fun _ => .bind .me fun _ => .remoteScope (.bind .me fun _ => .bind .checkObject fun _ =>
    .bind .readShape fun _ => .bind .checkFat fun _ => .bind .shapeChecks fun _ => .bind .scopeOf fun _ =>
    .bind .release fun _ => ⟨fun _ hs => hs⟩))
protected theorem readSlab {g fmt row pos} : KeepsMem (readSlab g fmt row pos) := by
  refine .bind (.mapM fun _ => .bind .readVa fun _ => .ite ?_ .pure) fun _ => ?_
  · split
    · exact ⟨fun _ hs => hs⟩
    · exact .pure
  · split
    · exact .pure
    · refine .ite ?_ .pure
      split
      · exact ⟨fun _ hs => hs⟩
      · exact .pure
    · exact .pure
protected theorem bloadDone {e} : KeepsMem (bloadDone e) := by
  unfold bloadDone
  split
  · refine .bind .get fun _ => .bind .get fun _ => .guard .throw fun _ => .bind (.attempt (.mapM fun _ =>
        .bind .readSlab fun _ => .pure)) fun _ => ?_
    split <;> exact ⟨fun _ hs => hs⟩
  · exact .pure
protected theorem checkSlabs {w g va} : KeepsMem (checkSlabs w g va) := by
  unfold checkSlabs
  refine .guard .trap fun _ => ?_
  split
  · exact .trap
  · exact .pure
protected theorem checkGang {cl a} : KeepsMem (checkGang cl a) :=
  .asThread (.bind .getCore fun _ => .bind .getWeave fun _ => .joined (.bind .readShape fun _ =>
    .bind .checkFat fun _ => .pure) (.bind .checkFat fun _ => .pure) fun _ => .bind .shapeChecks fun _ =>
    .bind .getWeave fun _ => .bind .checkSlabs fun _ => .pure)
protected theorem gangFails {α : Type} {cl arr t} : KeepsMem (gangFails cl arr t : M α) :=
  .bind (.forM fun _ => .settleAllocs) fun _ => .bind .modWeave fun _ => .bind .me fun _ => .bind (.forM fun _ =>
    .ite .pure .trapOther) fun _ => ⟨fun _ hs => hs⟩
protected theorem finishArrival {a} : KeepsMem (finishArrival a) := ⟨fun _ hs => hs⟩
protected theorem gather {cl} : KeepsMem (gather cl) := by
  refine .bind .getWeave fun _ => .guard .gangFails fun _ => .bind .me fun _ =>
      .bind (.remoteScope (.attempt .checkGang)) fun _ => ?_
  split
  · exact .gangFails
  · exact .bind .modWeave fun _ => .ite (.bind .modWeave fun _ => .bind (.forM fun _ =>
        .ite .pure .finishArrival) fun _ => .wakeGang) ⟨fun _ hs => hs⟩
protected theorem gangIssue {a} : KeepsMem (gangIssue a) := by
  refine .bind .getWeave fun _ => .guard .park fun _ => ?_
  extract_lets
  split
  · exact .ite (.bind .park fun _ => .bind .getWeave fun _ => .guard .park fun _ => .gather) (.bind .getWeave fun _ =>
        .guard .park fun _ => .gather)
  · exact .bind .release fun _ => .bind .modWeave fun _ => .bind .getWeave fun _ => .guard .park fun _ => .gather
protected theorem doMweave {a b c set len} : KeepsMem (doMweave a b c set len) :=
  .straight (.bind .readP fun _ => .bind .readP fun _ => .bind .forbidCollecting fun _ => .bind .me fun _ =>
    .bind .myThread fun _ => .gangIssue)
protected theorem doMweaves {d a b c set len} : KeepsMem (doMweaves d a b c set len) :=
  .straight (.bind .readP fun _ => .bind .readP fun _ => .bind .readP fun _ => .bind .forbidCollecting fun _ =>
    .bind .me fun _ => .bind .myThread fun _ => .gangIssue)
protected theorem withdrawArrivals {cl} : KeepsMem (withdrawArrivals cl) := ⟨fun _ hs => hs⟩
protected theorem gangPeerLost {cl who} : KeepsMem (gangPeerLost cl who) :=
  .bind .getWeave fun _ => .ite (.bind .withdrawArrivals fun _ => .bind (.forM fun _ => .trapOther) fun _ =>
    .wakeGang) .pure
protected theorem takeOp {cl} : KeepsMem (takeOp cl) := by
  refine .bind .getWeave fun _ => ?_
  split
  · exact .ite (.bind .modWeave fun _ => .forM fun _ => .finishArrival) .pure
  · exact .pure
protected theorem dropOp {cl op cause sub} : KeepsMem (dropOp cl op cause sub) :=
  .bind .getWeave fun _ => .bind .modWeave fun _ => .bind .takeOp fun _ => .wakeGang
protected theorem readEarly {cl op i} : KeepsMem (readEarly cl op i) :=
  .bind .get fun _ => .bind .get fun _ => .bind .localWithheld fun _ => .ite .pure ⟨fun _ hs => hs⟩
protected theorem mayReadEarly {cl} : KeepsMem (mayReadEarly cl) := by
  refine .bind .getWeave fun _ => .bind .choose fun _ => ?_
  split
  · exact .bind .readEarly fun _ => .pure
  · exact .pure
protected theorem stepNow {cl op rest} : KeepsMem (stepNow cl op rest) :=
  .bind .get fun _ => .bind .localWithheld fun _ => .ite .dropOp (.bind .takeBytes fun _ => .bind .getWeave fun _ =>
    .bind .modWeave fun _ => .guard (.forM fun _ => .raiseAccov) fun _ => .ite (.bind .takeOp fun _ => .wakeGang) .pure)
protected theorem rowStep {cl} : KeepsMem (rowStep cl) := by
  refine .bind .getWeave fun _ => ?_
  split
  · exact .pure
  · refine .ite (.discard .mayReadEarly) (.ite .pure (.bind .get fun _ => .ite .modWeave (.bind .get fun _ =>
        .ite .pure ?_)))
    extract_lets
    split
    · exact .dropOp
    · exact .bind .mayReadEarly fun _ => .ite .stepNow .pure
protected theorem weaveMismatch {cl} : KeepsMem (weaveMismatch cl) := by
  refine .bind .getWeave fun _ => ?_
  split
  · exact .ite .dropOp .pure
  · exact .pure
protected theorem tileReady {c} : KeepsMem (tileReady c) :=
  .bind .forbidCollecting fun _ => .bind .me fun _ => .bind .getWeave fun _ => .ite (.bind .get fun _ =>
    .guard .throw fun _ => .bind .modWeave fun _ => .bind .trap fun _ => .ite .park .pure) (.ite .park .pure)
protected theorem doMzero {c len} : KeepsMem (doMzero c len) :=
  .straight (.bind .tileReady fun _ => ⟨fun _ hs => hs⟩)
protected theorem doMread {d a c m len} : KeepsMem (doMread d a c m len) :=
  .straight (.bind .readP fun _ => .bind .tileReady fun _ => ⟨fun _ hs => hs⟩)
protected theorem checkImage {va store} : KeepsMem (checkImage va store) := by
  unfold checkImage
  refine .guard .trap fun _ => .bind .myView fun _ => .bind .myThread fun _ => .bind (.mapM fun _ => ?_) fun _ =>
      .guard (.forM fun _ => ?_) fun _ => .pure
  · extract_lets
    split
    · exact .ite (.bind .trap fun _ => .bind .resolve fun _ => .pure) (.bind .resolve fun _ => .pure)
    · exact .bind .resolve fun _ => .pure
  · split
    · exact .bind .get fun _ => .ite .trap .pure
    · exact .pure
protected theorem doMsave {a c len} : KeepsMem (doMsave a c len) :=
  .straight (.bind .readP fun _ => .bind .tileReady fun _ => .bind .me fun _ => .bind .myView fun _ =>
    .remoteScope (.bind .checkImage fun _ => .bind .getWeave fun _ => .bind (.foldlM fun _ _ => (.bind .storeAt fun _ =>
    .pure)) fun _ => .pure))
protected theorem doMrestore {a c len} : KeepsMem (doMrestore a c len) := by
  refine .straight (.bind .readP fun _ => .bind .tileReady fun _ => .bind .me fun _ =>
      .remoteScope (.bind .checkImage fun _ => .bind .threadAgent fun _ => .bind .readVa fun _ => ?_))
  split
  · exact .trap
  · exact .modWeave
protected theorem doMstat {d a len} : KeepsMem (doMstat d a len) :=
  .straight (.bind .readP fun _ => .bind .checkDest fun _ => .bind .forbidCollecting fun _ => ⟨fun _ hs => hs⟩)

/-! ## Kills, isolation and hardware errors -/

protected theorem sendError {who n} : KeepsMem (sendError who n) := by
  refine .bind .getCore fun _ => ?_
  split
  · exact .pure
  · refine .bind .get fun _ => .bind .getCore fun _ => ?_
    extract_lets
    split
    · exact .bind .get fun _ => .ite .pure (.ite .pure ⟨fun _ hs => hs⟩)
    · refine .ite .pure (.ite .pure (.bind .takeSlot fun _ => ?_))
      split
      · exact .pure
      · exact ⟨fun _ hs => hs⟩
protected theorem settleErrors : KeepsMem settleErrors :=
  .bind .get fun _ => .ite (.bind (.filterM fun _ => .bind .sendError fun _ => .pure) fun _ => ⟨fun _ hs => hs⟩) .pure
protected theorem landAll {who} : ∀ {n}, KeepsMem (landAll who n)
  | 0 => .pure
  | n + 1 => by
    refine .bind .get fun _ => ?_
    extract_lets
    split
    · exact .pure
    · split
      · exact .pure
      · exact .bind .messageArrival fun _ => .landAll
protected theorem sealInbox {who} : KeepsMem (sealInbox who) :=
  .bind .getCore fun _ => .bind .getDie fun _ => .forM fun _ => ⟨fun _ hs => hs⟩
protected theorem writePhys {pa bs} : KeepsMem (writePhys pa bs) := .forM fun _ => .bind .serve fun _ => .pure
protected theorem readPhys {pa n} : KeepsMem (readPhys pa n) := by
  refine .bind .serve fun _ => ?_
  split <;> exact .pure
protected theorem retain {who held pending} : KeepsMem (retain who held pending) :=
  .bind .get fun _ => .ite .pure (.bind .takeBytes fun _ => .bind .writePhys fun _ => .bind .writePhys fun _ =>
    .bind .writePhys fun _ => .pure)
protected theorem dropOwned {who p} : KeepsMem (dropOwned who p) := by
  refine .bind .getCluster fun _ => .forM fun _ => ?_
  split
  · exact .ite .modCluster .pure
  · exact .pure
protected theorem haltThreads {who} : KeepsMem (haltThreads who) :=
  .bind (.forIn fun _ _ => (.bind .getThread fun _ => .bind .releaseLanes fun _ => ⟨fun _ hs => hs⟩)) fun _ =>
    ⟨fun _ hs => hs⟩
protected theorem dropAwaiting {who} : KeepsMem (dropAwaiting who) := ⟨fun _ hs => hs⟩
protected theorem loseCore {who} : KeepsMem (loseCore who) := ⟨fun _ hs => hs⟩
protected theorem discardSave {who} : KeepsMem (discardSave who) := ⟨fun _ hs => hs⟩
protected theorem killCore {who cause isolated} : KeepsMem (killCore who cause isolated) :=
  .bind .getCore fun _ => .ite (.bind .get fun _ => .bind .discardSave fun _ => .bind .haltThreads fun _ =>
    .bind .dropAwaiting fun _ => .bind .get fun _ => .bind .landAll fun _ => .bind .getCore fun _ =>
    .bind .modCore fun _ => .bind .sealInbox fun _ => .ite (.bind .loseCore fun _ => .joined .pure .retain fun _ =>
    .bind .getCore fun _ => .bind ⟨fun _ hs => hs⟩ fun _ => .bind .settleErrors fun _ => .bind .getDie fun _ =>
    .bind (.forM fun _ => .bind .get fun _ => .ite (.bind .get fun _ => .bind (.forM fun _ => .bind .get fun _ =>
    .ite .breakBarrier .pure) fun _ => .breakGroup) .breakGroup) fun _ => .guard .gangPeerLost fun _ =>
    .bind .dropOwned fun _ => .bind .modDieRegs fun _ => .ite .sendSystem .pure) (.bind .performPosted fun _ =>
    .bind .flushLines fun _ => .bind .getCore fun _ => .bind (.forM fun _ => .evictMaps) fun _ =>
    .joined .pure .retain fun _ => .bind .getCore fun _ => .bind ⟨fun _ hs => hs⟩ fun _ => .bind .settleErrors fun _ =>
    .bind .getDie fun _ => .bind (.forM fun _ => .bind .get fun _ => .ite (.bind .get fun _ => .bind (.forM fun _ =>
    .bind .get fun _ => .ite .breakBarrier .pure) fun _ => .breakGroup) .breakGroup) fun _ =>
    .guard .gangPeerLost fun _ => .bind .dropOwned fun _ => .bind .modDieRegs fun _ => .ite .sendSystem .pure)) .pure
protected theorem doKillcore {d a len} : KeepsMem (doKillcore d a len) :=
  .straight (.bind .readP fun _ => .bind .checkDest fun _ => .bind .forbidCollecting fun _ => .bind .me fun _ =>
    .bind .release fun _ => .ite .writeG (.ite .writeG (.ite .writeG (.bind .getCore fun _ =>
    .ite .writeG (.bind .killCore fun _ => .writeG)))))
protected theorem declareKill {who} : KeepsMem (declareKill who) :=
  .bind .get fun _ => .ite ⟨fun _ hs => hs⟩ ⟨fun _ hs => hs⟩
protected theorem writeKillres {die v} : KeepsMem (writeKillres die v) := by
  refine .bind .get fun _ => .ite .modDieRegs (.bind .modDieRegs fun _ => .bind .declareKill fun _ => ?_)
  split
  · exact .ite .failLaunch .pure
  · exact .pure
protected theorem forgetCores {at' gone} : KeepsMem (forgetCores at' gone) := by
  refine .bind ⟨fun _ hs => hs⟩ fun _ => .bind .get fun _ => .bind ⟨fun _ hs => hs⟩ fun _ => .forM fun _ =>
      .bind .get fun _ => .ite (.bind .get fun _ => ?_) .pure
  split
  · exact .completeBusy
  · exact .pure
protected theorem isolateDie {d} : KeepsMem (isolateDie d) :=
  .bind .getDie fun _ => .ite (.bind .modDie fun _ => .bind (.forM fun _ => .killCore) fun _ =>
    .bind .forgetCores fun _ => .bind .get fun _ => .bind (.forM fun _ => .postIrq) fun _ => .postIrq) .pure
protected theorem isolateHub {d} : KeepsMem (isolateHub d) :=
  .bind .get fun _ => .bind (.forM fun _ => ⟨fun _ hs => hs⟩) fun _ => .forgetCores
protected theorem loseLine {who i} : KeepsMem (loseLine who i) := by
  refine .bind .getCore fun _ => ?_
  split
  · exact .pure
  · refine .ite (.bind .modDieRegs fun _ => .dropLine) ?_
    split
    · exact .bind .loseMarks fun _ => .modCore
    · exact .bind .modCore fun _ => .bind .get fun _ => .bind .setDir fun _ => .bind (.modify fun _ hs =>
          by split <;> exact hs) fun _ => .bind .withheld fun _ => .pure
protected theorem discardEntry {c i} : KeepsMem (discardEntry c i) := by
  refine .bind .modDieRegs fun _ => ?_
  split
  · exact .modCore
  · exact .modCluster
  · exact .modCluster
  · exact .modDie
  · exact .modDie
  · exact .modDie

/-! ## What the front ends share -/

protected theorem contextField {die ctx o n} : KeepsMem (contextField die ctx o n) :=
  .bind .get fun _ => .ite .pure (.bind .readPhys fun _ => .pure)
protected theorem contextState {die ctx} : KeepsMem (contextState die ctx) := .bind .contextField fun _ => .pure
protected theorem setContextState {die ctx st} : KeepsMem (setContextState die ctx st) :=
  .bind .get fun _ => .writePhys
protected theorem unreported {m} (hm : KeepsMem m) : KeepsMem (unreported m) := .bind (.attempt hm) fun _ => .pure
protected theorem frontScope {α : Type} {k} {m : M α} (hm : KeepsMem m) : KeepsMem (frontScope k m) := by
  refine .of_ends (fun s a t hs h => ?_) fun s e t hs h => ?_ <;> unfold frontScope at h <;> split at h <;> cases h
  · next u h' => exact (hm.keeps.ok (State.askAgain_memWf hs) h' : MemWf u)
  · exact hs
  · next u _ h' => exact (hm.keeps.error (State.askAgain_memWf hs) h' : MemWf u)
protected theorem readPlain {g va n} : KeepsMem (readPlain g va n) := .guard .trap fun _ => .readVa
protected theorem modQueue {die q f} : KeepsMem (modQueue die q f) := ⟨fun _ hs => hs⟩
protected theorem endLaunch {id st status} : KeepsMem (endLaunch id st status) := by
  refine .bind .get fun _ => ?_
  split
  · exact .pure
  · refine .bind .modLaunch fun _ => .bind .modQueue fun _ => .guard (.unreported .writeVa) fun _ => ?_
    split
    · exact .ite (.unreported .engineAtomic) .pure
    · exact .pure
protected theorem cancelDependents : ∀ {n id}, KeepsMem (cancelDependents n id)
  | 0, _ => .pure
  | n + 1, id => by
    refine .bind .get fun _ => .forM fun _ => .ite ?_ .pure
    split
    · exact .bind .endLaunch fun _ => .cancelDependents
    · exact .failLaunch
    · exact .failLaunch
    · exact .failLaunch
    · exact .pure
protected theorem cancelLaunch {id} : KeepsMem (cancelLaunch id) :=
  .bind .endLaunch fun _ => .bind .get fun _ => .cancelDependents
protected theorem leaveSet {die q st} : KeepsMem (leaveSet die q st) :=
  .bind .modQueue fun _ => .modify fun _ hs => State.dropWaits_memWf hs
protected theorem stopQueue {die q idx code frozen} : KeepsMem (stopQueue die q idx code frozen) := by
  refine .bind .get fun _ => .bind .leaveSet fun _ => ?_
  extract_lets
  split
  · exact .bind (.unreported .writeVa) fun _ => .bind .get fun _ => .bind (.forM fun _ =>
        .ite .cancelLaunch .pure) fun _ => ⟨fun _ hs => hs⟩
  · exact .bind .get fun _ => .bind (.forM fun _ => .ite .cancelLaunch .pure) fun _ => ⟨fun _ hs => hs⟩
protected theorem freezeQueue {die q idx code} : KeepsMem (freezeQueue die q idx code) := by
  refine .bind .get fun _ => ?_
  split
  · exact .pure
  · exact .pure
  · exact .stopQueue
protected theorem faultLaunch {id status} : KeepsMem (faultLaunch id status) := by
  refine .bind .get fun _ => ?_
  split
  · exact .pure
  · exact .bind .endLaunch fun _ => .bind .get fun _ => .bind .cancelDependents fun _ => .freezeQueue

/-! ## Launches -/

protected theorem readTableAt {g va size n} : KeepsMem (readTableAt g va size n) := .mapM fun _ => .readPlain
protected theorem readPlan {g h} : KeepsMem (readPlan g h) :=
  .bind .readTableAt fun _ => .bind (.mapM fun _ => .bind .readPlain fun _ => .bind .readPlain fun _ =>
    .bind .readPlain fun _ => .bind .readPlain fun _ => .pure) fun _ => .bind .readTableAt fun _ =>
    .bind .readTableAt fun _ => .bind (.mapM fun _ => .bind .readPlain fun _ => .pure) fun _ =>
    .bind .readTableAt fun _ => .bind .readTableAt fun _ => .bind (.mapM fun _ => .bind .readPlain fun _ =>
    .pure) fun _ => .pure
protected theorem contextBinds {l p} : KeepsMem (contextBinds l p) :=
  .bind .contextState fun _ => .bind .contextField fun _ => ⟨fun _ hs => hs⟩
protected theorem bindCore {id ctx i q who d places all} : KeepsMem (bindCore id ctx i q who d places all) :=
  .bind .modCore fun _ => .bind (.forIn fun _ _ => ⟨fun _ hs => hs⟩) fun _ => ⟨fun _ hs => hs⟩
protected theorem bindLaunch {id l p} : KeepsMem (bindLaunch id l p) :=
  .bind (.forM fun _ => .forM fun _ => .bindCore) fun _ => .bind (.forM fun _ => ⟨fun _ hs => hs⟩) fun _ =>
    .bind (.forM fun _ => .modGroup) fun _ => .bind (.forM fun _ => .modBarrier) fun _ => .bind .modLaunch fun _ =>
    .forM fun _ => .modChannel
protected theorem sendStarts : ∀ {n id}, KeepsMem (sendStarts n id)
  | 0, _ => .pure
  | n + 1, id => by
    refine .bind .get fun _ => ?_
    split
    · exact .pure
    · split
      · exact .guard .modLaunch fun _ => .settleStarts
      · split
        · exact .pure
        · refine .bind .get fun _ => .ite (.bind .modLaunch fun _ => .sendStarts) (.bind .takeSlot fun _ => ?_)
          split
          · exact .pure
          · exact .bind .launchMessage fun _ => .bind .modLaunch fun _ => .sendStarts
protected theorem checkPlan {id l g h} : KeepsMem (checkPlan id l g h) := by
  refine .bind (.attempt .readPlan) fun _ => ?_
  split
  · exact .faultLaunch
  · refine .bind .get fun _ => ?_
    split
    · exact .faultLaunch
    · exact .bind .get fun _ => .ite (.bind .contextBinds fun _ => .ite (.bind .bindLaunch fun _ =>
          .sendStarts) .pure) .pure
protected theorem launchBinding {id} : KeepsMem (launchBinding id) := by
  refine .bind .get fun _ => ?_
  split
  · exact .pure
  · extract_lets
    split
    · split
      · exact .modLaunch
      · exact .ite .cancelLaunch (.ite .modLaunch .pure)
    · refine .ite .cancelLaunch (.bind (.attempt .readPlain) fun _ => ?_)
      split
      · exact .faultLaunch
      · exact .bind .modLaunch fun _ => .ite .faultLaunch .checkPlan
    · exact .sendStarts
    · exact .pure
protected theorem endStage {id stage} : KeepsMem (endStage id stage) := by
  refine .bind .get fun _ => ?_
  split
  · exact .pure
  · exact .ite (.bind (.forM fun _ => .modCore) fun _ => .bind (.forM fun _ => .settleChannel) fun _ =>
        .modLaunch) .pure
protected theorem unbind {id l} : KeepsMem (unbind id l) :=
  .bind (.forM fun _ => .bind .removeMaps fun _ => .dropOwned) fun _ => .bind (.forM fun _ => .bind .get fun _ =>
    .ite ⟨fun _ hs => hs⟩ ⟨fun _ hs => hs⟩) fun _ => .bind (.forM fun _ => .modDie) fun _ => .bind (.forM fun _ =>
    .modDie) fun _ => .forM fun _ => .modCore
protected theorem sayFailing {id l} : KeepsMem (sayFailing id l) :=
  .bind .modLaunch fun _ => .guard .freezeQueue fun _ => .bind .get fun _ => .cancelDependents
protected theorem launchDone {id} : KeepsMem (launchDone id) := by
  refine .bind .get fun _ => ?_
  split
  · exact .pure
  · exact .ite .sayFailing (.ite (.bind .unbind fun _ => .ite .faultLaunch (.ite .cancelLaunch .endLaunch)) .pure)
protected theorem readWords {va n} : KeepsMem (readWords va n) :=
  .bind .threadAgent fun _ => .bind (.mapM fun _ => .guard .trap fun _ => .readVa) fun _ => .pure
protected theorem imageForm {bank d a len} : KeepsMem (imageForm bank d a len) :=
  .straight (.bind .readP fun _ => .bind .readP fun _ => .bind .checkDest fun _ => .bind .me fun _ =>
    .remoteScope (.ite .writeG (.ite .writeG (.bind .release fun _ => .bind .readWords fun _ => ⟨fun _ hs => hs⟩))))

/-! ## Queues and their commands -/

protected theorem learnNotify {die ctx} : KeepsMem (learnNotify die ctx) := by
  refine .bind .contextField fun _ => .ite (.bind (.attempt .translate) fun _ => ?_) .pure
  split
  · exact .pure
  · split
    · exact ⟨fun _ hs => hs⟩
    · exact .pure
protected theorem tableHdr {die q} : KeepsMem (tableHdr die q) := by
  refine .bind .contextField fun _ => .bind (.attempt .readPlain) fun _ => ?_
  split
  · exact .pure
  · exact .ite .pure .pure
protected theorem swapIn {die q prio} : KeepsMem (swapIn die q prio) := by
  refine .bind .get fun _ => .ite .pure (.bind .tableHdr fun _ => ?_)
  split
  · exact .pure
  · refine .bind .get fun _ => .ite .pure (.bind .learnNotify fun _ => .bind (.attempt .readPlain) fun _ => ?_)
    extract_lets
    split
    · exact .bind .modQueue fun _ => .bind .stopQueue fun _ => .pure
    · exact .bind .modQueue fun _ => .ite (.bind .stopQueue fun _ => .pure) ⟨fun _ hs => hs⟩
protected theorem swapOut {die q} : KeepsMem (swapOut die q) := by
  refine .bind .get fun _ => ?_
  split
  · exact .bind .leaveSet fun _ => .pure
  · exact .bind .leaveSet fun _ => .pure
  · exact .throw
  · exact .pure
protected theorem makeReady {die q} : KeepsMem (makeReady die q) := by
  refine .bind .get fun _ => ?_
  extract_lets
  split
  · exact .bind (.unreported .writeVa) fun _ => .modQueue
  · exact .modQueue
protected theorem restartQueue {die q} : KeepsMem (restartQueue die q) := by
  refine .bind .get fun _ => .ite .pure (.bind (.attempt .readPlain) fun _ => ?_)
  split
  · exact .pure
  · exact .bind .modQueue fun _ => .bind .makeReady fun _ => .pure
protected theorem thawQueue {die q} : KeepsMem (thawQueue die q) :=
  .bind .get fun _ => .ite .pure (.bind .makeReady fun _ => .pure)
protected theorem queueCommand {t action} (haction : ∀ {k}, KeepsMem (action k)) : KeepsMem (queueCommand t action) :=
  .joined .pure (.frontScope haction) fun _ => .modThread
protected theorem writeQcmd {k v} : KeepsMem (writeQcmd k v) := by
  refine .queueCommand (.ite .pure ?_)
  split
  · exact .swapIn
  · exact .swapOut
  · exact .restartQueue
  · exact .thawQueue
  · exact .pure
protected theorem readHead {die q r} : KeepsMem (readHead die q r) := by
  refine .bind (.attempt .readPlain) fun _ => ?_
  split
  · exact .pure
  · refine .ite .pure (.ite .pure (.ite .pure (.bind (.attempt .readPlain) fun _ => ?_)))
    split
    · exact .pure
    · exact .ite .pure (.ite .pure (.ite .pure (.ite .pure .pure)))
protected theorem publishRd {die q rd} : KeepsMem (publishRd die q rd) := by
  refine .bind .get fun _ => ?_
  split
  · exact .unreported .writeVa
  · exact .pure
protected theorem beginLook {die q} : KeepsMem (beginLook die q) :=
  .bind .get fun _ => .ite ⟨fun _ hs => hs⟩ .pure
protected theorem examine {die q} : KeepsMem (examine die q) := by
  refine .bind .get fun _ => .bind .readHead fun _ => .bind .modQueue fun _ => ?_
  split
  · exact .pure
  · exact ⟨fun _ hs => hs⟩
  · exact .bind .stopQueue fun _ => .pure
  · exact .bind .publishRd fun _ => ⟨fun _ hs => hs⟩
protected theorem orLater {m} (hm : KeepsMem m) : KeepsMem (orLater m) := by
  refine .of_ends (fun s a t hs h => ?_) fun s e t hs h => ?_ <;> unfold orLater at h <;> split at h
  · next h' => cases h; exact hm.keeps.error hs h'
  · exact hm.keeps.ok hs h
  · cases h
  · exact hm.keeps.error hs h
protected theorem tryExamine {die q} : KeepsMem (tryExamine die q) :=
  .bind .beginLook fun _ => .orLater (.frontScope .examine)
protected theorem takeFirst {die} : ∀ {qs}, KeepsMem (takeFirst die qs)
  | [] => .pure
  | _ :: _ => .bind .contextState fun _ => .ite .takeFirst (.bind .get fun _ => .bind .tryExamine fun _ =>
      .ite .modDie .takeFirst)
protected theorem proceed {die q} : KeepsMem (proceed die q) := ⟨fun _ hs => hs⟩
protected theorem holdQueue {die q w} : KeepsMem (holdQueue die q w) :=
  .bind .get fun _ => .bind .modQueue fun _ => .ite .sendSystemFrom .pure
protected theorem startLaunch {die q c} : KeepsMem (startLaunch die q c) := by
  refine .bind (.attempt .readPlain) fun _ => ?_
  extract_lets
  split <;> exact ⟨fun _ hs => hs⟩
protected theorem startCopy {die q c} : KeepsMem (startCopy die q c) := ⟨fun _ hs => hs⟩
protected theorem performSignal {die q c} : KeepsMem (performSignal die q c) :=
  .guard (.unreported .engineAtomic) fun _ => .proceed
protected theorem failWait {die q idx code} : KeepsMem (failWait die q idx code) :=
  .bind .modQueue fun _ => .bind .publishRd fun _ => .stopQueue
protected theorem checkWait {die q obj target idx first} : KeepsMem (checkWait die q obj target idx first) := by
  refine .bind (.attempt .readVa) fun _ => ?_
  split
  · exact .failWait
  · exact .ite .failWait (.ite .proceed (.ite .holdQueue .pure))
protected theorem startCommand {die q c} : KeepsMem (startCommand die q c) := by
  unfold startCommand
  split
  · exact .startLaunch
  · exact .checkWait
  · exact .performSignal
  · exact .startCopy
  · exact .proceed
protected theorem waitMet {die q} : KeepsMem (waitMet die q) := by
  refine .bind .get fun _ => .bind .get fun _ => .ite ?_ .pure
  split
  · exact .frontScope .checkWait
  · exact .ite (.frontScope .startCommand) .pure
  · exact .pure
protected theorem queueCopyDone {e} : KeepsMem (queueCopyDone e) := by
  unfold queueCopyDone
  split
  · exact .ite .pure (.faultOf .copyBytes)
  · exact .pure
protected theorem queueCopyEnds {e} : KeepsMem (queueCopyEnds e) := by
  unfold queueCopyEnds
  split
  · exact .frontScope (.guard (.unreported .engineAtomic) fun _ => .bind .modQueue fun _ => .ite .freezeQueue .pure)
  · exact .pure

/-! ## Contexts -/

protected theorem postContextIrq {die ctx kind info} : KeepsMem (postContextIrq die ctx kind info) :=
  .bind .postIrq fun _ => .bind .contextField fun _ => .bind .contextField fun _ => .ite .postIrq .pure
protected theorem dropContextLists {ctx} : KeepsMem (dropContextLists ctx) :=
  .bind .get fun _ => .forM fun _ => .bind (.forIn fun _ _ => (.bind .dropOwned fun _ => .pure)) fun _ => .pure
protected theorem saveBlock {die ctx who} : KeepsMem (saveBlock die ctx who) := by
  refine .bind .contextField fun _ => .bind .readPhys fun _ => ?_
  split <;> exact .pure
protected theorem stopThread {k} : KeepsMem (stopThread k) := .bind .settleAllocs fun _ => ⟨fun _ hs => hs⟩
protected theorem stopWeave {cl} : KeepsMem (stopWeave cl) := ⟨fun _ hs => hs⟩
protected theorem resumeBarriers {p} : KeepsMem (resumeBarriers p) := ⟨fun _ hs => hs⟩
protected theorem contextCommand {k ctx malformed action} (haction : ∀ {c s}, KeepsMem (action c s)) :
    KeepsMem (contextCommand k ctx malformed action) :=
  .ite (.bind .contextState fun _ => ⟨fun _ hs => hs⟩) (.ite (.bind .contextState fun _ => ⟨fun _ hs => hs⟩) (.bind
    (.frontScope (.bind .contextState fun _ => haction)) fun _ => .bind .contextState fun _ => ⟨fun _ hs => hs⟩))
protected theorem beginStop {k ctx obj die state} : KeepsMem (beginStop k ctx obj die state) :=
  .ite .pure (.bind .get fun _ => .bind (.mapM fun _ => .saveBlock) fun _ => .ite .pure (.bind .setContextState fun _ =>
    .bind .getThread fun _ => .bind ⟨fun _ hs => hs⟩ fun _ => .bind (.forM fun _ => .forM fun _ => .stopThread) fun _ =>
    .bind (.forM fun _ => .stopWeave) fun _ => ⟨fun _ hs => hs⟩))
protected theorem doGstop {d a len} : KeepsMem (doGstop d a len) :=
  .straight (.bind .readP fun _ => .bind .readP fun _ => .bind .checkDest fun _ => .bind .forbidCollecting fun _ =>
    .bind .me fun _ => .bind .checkObject fun _ => .bind (.contextCommand .beginStop) fun _ => .writeG)
protected theorem writeBlock {p image} : KeepsMem (writeBlock p image) := by
  refine .foldlM fun _ _ => (.bind .serve fun _ => ?_)
  split <;> exact .pure
protected theorem nextImage : KeepsMem nextImage := ⟨fun _ hs => hs⟩
protected theorem saveCoreAs {image die ctx who} : KeepsMem (saveCoreAs image die ctx who) := by
  refine .bind .saveBlock fun _ => ?_
  extract_lets
  split
  · exact .bind .get fun _ => .bind .pure fun _ => .ite (.bind .killCore fun _ => ⟨fun _ hs => hs⟩) (.bind
        (.mapM fun _ => ⟨fun _ hs => hs⟩) fun _ => ⟨fun _ hs => hs⟩)
  · exact .bind .get fun _ => .ite (.bind .writeBlock fun _ => .ite (.bind .killCore fun _ => ⟨fun _ hs => hs⟩) (.bind
        (.mapM fun _ => ⟨fun _ hs => hs⟩) fun _ => ⟨fun _ hs => hs⟩)) (.bind .pure fun _ =>
        .ite (.bind .killCore fun _ => ⟨fun _ hs => hs⟩) (.bind (.mapM fun _ => ⟨fun _ hs => hs⟩) fun _ =>
        ⟨fun _ hs => hs⟩))
protected theorem saveCore {die ctx who} : KeepsMem (saveCore die ctx who) := .bind .nextImage fun _ => .saveCoreAs
protected theorem haltWeaves {ctx} : KeepsMem (haltWeaves ctx) := .bind .get fun _ => .forM fun _ => .modWeave
protected theorem saveDone {ctx} : KeepsMem (saveDone ctx) := by
  refine .bind .get fun _ => ?_
  split
  · exact .pure
  · refine .ite (.bind .haltWeaves fun _ => .bind (.mapM fun _ => .saveCore) fun _ => .bind .setContextState fun _ =>
        .bind ⟨fun _ hs => hs⟩ fun _ => .bind .completionAdd fun _ => ?_) .pure
    split
    · exact .engineFault
    · exact .pure
protected theorem restoreLanes {k part} : KeepsMem (restoreLanes k part) :=
  .bind .getThread fun _ => .bind .getCluster fun _ => .bind .modCluster fun _ => .bind (.forM fun _ =>
    .modify fun _ hs => memRestore_wf hs) fun _ => .modThread
protected theorem restoreWeave {who old rebound} : KeepsMem (restoreWeave who old rebound) := ⟨fun _ hs => hs⟩
protected theorem restoreCore {v} : KeepsMem (restoreCore v) := by
  unfold restoreCore
  split
  · exact .pure
  · exact .bind .modCore fun _ => .bind (.forM fun _ => .modThread) fun _ => .bind (.forM fun _ => .modify fun _ hs =>
        memRestore_wf hs) fun _ => .restoreWeave
protected theorem resumeContext {k ctx die state} : KeepsMem (resumeContext k ctx die state) := by
  refine .bind .get fun _ => .ite .pure (.ite .pure (.ite .throw (.bind .release fun _ => .bind (.forM fun _ =>
      .restoreCore) fun _ => .bind (.forM fun _ => ?_) fun _ => .bind (.forM fun _ => .forM fun _ =>
      .restoreLanes) fun _ => .bind (.forM fun _ => .forM fun _ => ⟨fun _ hs => hs⟩) fun _ => .bind (.forM fun _ =>
      .modWeave) fun _ => .bind .resumeBarriers fun _ => .bind ⟨fun _ hs => hs⟩ fun _ => .bind .setContextState fun _ =>
      .bind .acquire fun _ => .pure)))
  split
  · exact .modCore
  · exact .pure
protected theorem doGresume {d a len} : KeepsMem (doGresume d a len) :=
  .straight (.bind .readP fun _ => .bind .checkDest fun _ => .bind .forbidCollecting fun _ => .bind .me fun _ =>
    .bind (.contextCommand .resumeContext) fun _ => .writeG)
protected theorem createContext {ctx die state} : KeepsMem (createContext ctx die state) := by
  refine .ite .pure (.bind .get fun _ => .ite .pure (.bind .readPhys fun _ => .bind .readPhys fun _ => ?_))
  split
  · exact .ite .pure (.bind .setContextState fun _ => .pure)
  · exact .pure
protected theorem startContext {ctx die state} : KeepsMem (startContext ctx die state) :=
  .ite (.bind .setContextState fun _ => .bind .learnNotify fun _ => .pure) .pure
protected theorem resetContext {ctx die state} : KeepsMem (resetContext ctx die state) :=
  .ite .pure (.bind .setContextState fun _ => .bind .get fun _ => .bind (.forM fun _ => .ite .killCore .pure) fun _ =>
    .bind (.forM fun _ => .modWeave) fun _ => .bind ⟨fun _ hs => hs⟩ fun _ => .bind (.forM fun _ =>
    .ite (.bind (.forM fun _ => .settleGroup) fun _ => .bind .unbind fun _ => .cancelLaunch) .pure) fun _ =>
    .bind .get fun _ => .bind (.forM fun _ => .forM fun _ => .ite .stopQueue .pure) fun _ =>
    .bind .dropContextLists fun _ => .bind .setContextState fun _ => .bind .postContextIrq fun _ => .pure)
protected theorem destroyContext {ctx die state} : KeepsMem (destroyContext ctx die state) :=
  .ite (.bind .setContextState fun _ => .bind .dropSpace fun _ => .bind .dropContextLists fun _ => .pure) .pure
protected theorem evictCore {ctx who} : KeepsMem (evictCore ctx who) :=
  .bind .evictMaps fun _ => .bind .get fun _ => .bind ⟨fun _ hs => hs⟩ fun _ => .bind .modCore fun _ =>
    .bind (.forIn fun _ _ => ⟨fun _ hs => hs⟩) fun _ => .bind (.filterM fun _ => .bind .choose fun _ => .pure) fun _ =>
    .modWeave
protected theorem storeBlock {die ctx who} : KeepsMem (storeBlock die ctx who) := by
  refine .bind .saveBlock fun _ => ?_
  split
  · exact .bind .nextImage fun _ => .bind .writeBlock fun _ => .pure
  · exact .pure
protected theorem evictContext {ctx die state} : KeepsMem (evictContext ctx die state) :=
  .ite .pure (.bind .get fun _ => .bind (.forM fun _ => .storeBlock) fun _ => .bind (.forM fun _ => .evictCore) fun _ =>
    .bind .setContextState fun _ => .pure)
protected theorem contextOp {k ctx op malformed} : KeepsMem (contextOp k ctx op malformed) := by
  refine .bind (.contextCommand ?_) fun _ => .pure
  split
  · exact .createContext
  · exact .startContext
  · exact .resetContext
  · exact .destroyContext
  · exact .evictContext
protected theorem writeCtxcmd {k v} : KeepsMem (writeCtxcmd k v) := .contextOp

/-! ## Page migration -/

protected theorem modMig {die f} : KeepsMem (modMig die f) := ⟨fun _ hs => hs⟩
protected theorem migrationStart {k old new both} : KeepsMem (migrationStart k old new both) :=
  .bind .get fun _ => .ite .modMig .modMig
protected theorem migrationStop {k} : KeepsMem (migrationStop k) := ⟨fun _ hs => hs⟩
protected theorem writeMigcmd {k v} : KeepsMem (writeMigcmd k v) := .ite .migrationStart (.ite .migrationStop .pure)
protected theorem moveLine {old new src} : KeepsMem (moveLine old new src) :=
  .bind .evictDir fun _ => .bind .evictDir fun _ => .bind .get fun _ => .bind .setDir fun _ => .bind .homeLine fun _ =>
    .bind .get fun _ => .bind .get fun _ => .bind (.storeBytes .noteQuiet) fun _ => ⟨fun _ hs => hs⟩
protected theorem migrationAdd {m die} : KeepsMem (migrationAdd m die) := .bind .completionAdd fun _ => .pure
protected theorem migrationLine {die} : KeepsMem (migrationLine die) :=
  .bind .get fun _ => .ite (.ite (.bind .moveLine fun _ => .bind .modMig fun _ => .ite (.bind .migrationAdd fun _ =>
    ⟨fun _ hs => hs⟩) .pure) (.ite (.bind .migrationAdd fun _ => ⟨fun _ hs => hs⟩) .pure)) .pure

/-! ## Links to other devices -/

protected theorem setLink {l st} : KeepsMem (setLink l st) := ⟨fun _ hs => hs⟩
protected theorem resendFlits {l} : KeepsMem (resendFlits l) := ⟨fun _ hs => hs⟩
protected theorem linkMessage {l st} : KeepsMem (linkMessage l st) :=
  .bind .get fun _ => .forM fun _ => .sendSystemFrom
protected theorem endWait {w status data} : KeepsMem (endWait w status data) :=
  .ite (.bind ⟨fun _ hs => hs⟩ fun _ => .ite .loseStore .pure) ⟨fun _ hs => hs⟩
protected theorem endUnreachable : KeepsMem endUnreachable := .bind .get fun _ => .forM fun _ => .endWait
protected theorem portLost {p} : KeepsMem (portLost p) := .bind .resendFlits fun _ => .endUnreachable
protected theorem sending {m} (hm : KeepsMem m) : KeepsMem (sending m) :=
  .bind .get fun _ => .bind hm fun _ => ⟨fun _ hs => hs⟩
protected theorem response {id status data} : KeepsMem (response id status data) := by
  refine .bind .get fun _ => ?_
  split
  · exact .pure
  · exact .ite .pure (.sending .endWait)
protected theorem timeout {id} : KeepsMem (timeout id) := by
  refine .bind .get fun _ => ?_
  split
  · exact .pure
  · exact .ite .pure (.sending .endWait)
protected theorem trainPort {p} : KeepsMem (trainPort p) := .bind .get fun _ => .ite .setLink .pure
protected theorem downPort {p} : KeepsMem (downPort p) :=
  .bind .get fun _ => .bind .setLink fun _ => .ite (.bind .portLost fun _ => .ite .linkMessage .pure) (.ite
    (.bind .endUnreachable fun _ => .ite .linkMessage .pure) (.ite .linkMessage .pure))
protected theorem writePortcmd {v} : KeepsMem (writePortcmd v) :=
  .ite .pure (.ite .trainPort (.ite .downPort .pure))
protected theorem raiseLink {l} : KeepsMem (raiseLink l) := ⟨fun _ hs => hs⟩
protected theorem loseLane {l} : KeepsMem (loseLane l) := .bind .get fun _ => .ite ⟨fun _ hs => hs⟩ .pure
protected theorem routeFailed {r} : KeepsMem (routeFailed r) :=
  .ite .isolateHub (.bind .getDie fun _ => .bind .getDie fun _ => .ite .pure (.bind .choose fun _ => .isolateDie))
protected theorem failLink {l} : KeepsMem (failLink l) :=
  .bind .get fun _ => .ite (.bind .setLink fun _ => .bind ⟨fun _ hs => hs⟩ fun _ =>
    .joined .portLost .resendFlits fun _ => .ite (.bind .get fun _ => .ite (.bind .routeFailed fun _ =>
    .linkMessage) .linkMessage) .linkMessage) .pure
protected theorem untrained {l} : KeepsMem (untrained l) :=
  .bind .setLink fun _ => .ite .endUnreachable (.bind .get fun _ => .ite .routeFailed .pure)
protected theorem trained {l lanes} : KeepsMem (trained l lanes) :=
  .bind .get fun _ => .ite (.ite .untrained (.sending (.bind .setLink fun _ => .bind .raiseLink fun _ =>
    .ite (.bind .linkMessage fun _ => ⟨fun _ hs => hs⟩) .pure))) .pure
protected theorem failUp {l} : KeepsMem (failUp l) :=
  .bind .setLink fun _ => .bind ⟨fun _ hs => hs⟩ fun _ => .linkMessage
protected theorem failLinks {b} : KeepsMem (failLinks b) :=
  .ite (.bind .failUp fun _ => .endUnreachable) (.ite (.bind .failUp fun _ => .bind .failUp fun _ =>
    .routeFailed) .pure)
protected theorem linkTranslate {ctx va w} : KeepsMem (linkTranslate ctx va w) := by
  refine .bind .get fun _ => .guard .trap fun _ => ?_
  extract_lets
  split
  · exact .bind .checkHit fun _ => .bind .pure fun _ => .bind .checkPerms fun _ => .pure
  · exact .bind .walk fun _ => .bind .installL3 fun _ => .bind .pure fun _ => .bind .checkPerms fun _ => .pure
protected theorem linkPlace {r va} : KeepsMem (linkPlace r va) := by
  refine .guard .trap fun _ => .bind .linkTranslate fun _ => ?_
  split
  · exact .trap
  · exact .bind .getDie fun _ => .guard .trap fun _ => .pure
protected theorem servePiece {r va n back link} : KeepsMem (servePiece r va n back link) := by
  refine .bind .linkPlace fun ⟨_, _⟩ => ?_
  dsimp only
  split
  · exact .bind .queueReq fun _ => .pure
  · refine .bind .serve fun _ => ?_
    split
    · exact .trap
    · exact .pure
protected theorem checkPages {r ps} : KeepsMem (checkPages r ps) := by
  refine .forM fun _ => .bind (.attempt .linkPlace) fun _ => ?_
  split
  · exact .pure
  · exact .ite (.bind .leafDie fun _ => ⟨fun _ hs => hs⟩) .throw
protected theorem answerLink {id tag status data} : KeepsMem (answerLink id tag status data) := ⟨fun _ hs => hs⟩
protected theorem incoming {r} : KeepsMem (incoming r) := by
  refine .bind .get fun _ => .ite (.bind ⟨fun _ hs => hs⟩ fun _ => .joined .choose .pure fun _ =>
      .joined .choose .pure fun _ => .guard ⟨fun _ hs => hs⟩ fun _ => .bind (.attempt (.bind .checkPages fun _ =>
      .mapM fun _ => .servePiece)) fun _ => ?_) .pure
  split
  · exact .ite .pure .answerLink
  · exact ⟨fun _ hs => hs⟩

/-! ## Bring-up and power -/

protected theorem startCore {who entry} : KeepsMem (startCore who entry) :=
  .bind .modCore fun _ => .bind (.forIn fun _ _ => ⟨fun _ hs => hs⟩) fun _ => .pure
protected theorem runRom : KeepsMem runRom := by
  refine .getBind fun _ hs => .bind (.set (romCopies_memWf hs)) fun _ => ?_
  split
  · exact .bind (.modify_of_mem fun _ => rfl) fun _ => .modCore
  · exact .bind (.modify_of_mem fun _ => rfl) fun _ => .bind (.forIn fun _ _ => .ite (.bind .startCore fun _ =>
      .pure) .pure) fun _ => .bind (.forIn fun _ _ => .bind .startCore fun _ => .pure) fun _ => .pure
protected theorem resetPackage : KeepsMem resetPackage := ⟨fun _ hs => hs⟩
protected theorem clustersReady {d} : KeepsMem (clustersReady d) :=
  .bind .get fun _ => .bind .modDieRegs fun _ => .ite .startCore .pure
protected theorem riseBit {f} : KeepsMem (riseBit f) := by
  refine .bind .get fun _ => .ite (.bind ⟨fun _ hs => hs⟩ fun _ => ?_) .pure
  extract_lets
  split
  · exact .ite (.bind .clustersReady fun _ => .bind .get fun _ => .ite .runRom .pure) (.bind .get fun _ =>
        .ite .runRom .pure)
  · exact .bind .get fun _ => .ite .runRom .pure
protected theorem spdm {r} : KeepsMem (spdm r) := .bind .get fun _ => .ite ⟨fun _ hs => hs⟩ .pure
protected theorem contextOn {s die} : KeepsMem (contextOn s die) :=
  .anyM fun _ => .bind .contextState fun _ => ⟨fun _ hs => hs⟩
protected theorem unpower {die} : KeepsMem (unpower die) := .modify fun _ hs => Mem.filter_wf hs
protected theorem endTrip {die} : KeepsMem (endTrip die) := ⟨fun _ hs => hs⟩
protected theorem changePower {die goal} : KeepsMem (changePower die goal) :=
  .bind .getDie fun _ => .ite (.ite (.bind .unpower fun _ => .ite .endTrip .pure) (.ite .endTrip .pure)) (.ite
    (.bind .modDieRegs fun _ => .ite .endTrip .pure) (.bind .modDieRegs fun _ => .ite .endTrip .pure))
protected theorem doPwrset {d a len} : KeepsMem (doPwrset d a len) :=
  .straight (.bind .readP fun _ => .bind .checkDest fun _ => .bind .forbidCollecting fun _ => .bind .me fun _ =>
    .bind .myThread fun _ => .ite (.bind .getDie fun _ => .guard .throw fun _ => .bind .modMe fun _ =>
    .bind .acquire fun _ => .writeG) (.ite .writeG (.ite .writeG (.bind .get fun _ =>
    .ite .writeG (.joined .contextOn .pure fun _ => .ite .writeG (.bind .release fun _ => .bind .changePower fun _ =>
    .bind .getDie fun _ => .ite (.bind .modMe fun _ => .bind .throw fun _ => .bind .acquire fun _ =>
    .writeG) (.bind .acquire fun _ => .writeG)))))))
protected theorem trip {die} : KeepsMem (trip die) := .bind .getDie fun _ => .ite ⟨fun _ hs => hs⟩ .pure
protected theorem bringUpFails {f} : KeepsMem (bringUpFails f) := by
  refine .bind .get fun _ => .ite (.bind ⟨fun _ hs => hs⟩ fun _ => ?_) .pure
  split
  · exact .failLinks
  · exact .pure
protected theorem applyUpset {x} : KeepsMem (applyUpset x) := by
  unfold applyUpset
  split
  · exact ⟨fun _ hs => hs⟩
  · exact .ite .killCore .pure
  · exact .bind (.mapM fun _ => .freeLine) fun _ => .modWeave
  · exact .modCluster
  · exact .loseLine
  · exact .discardEntry
  · exact .modDieRegs
  · exact .remoteMessage
  · exact .remoteCloses
  · exact .modify fun _ hs => by split <;> exact hs
  · exact .modify fun _ hs => by split <;> exact hs
  · exact .bind .modDieRegs fun _ => .ite .weaveMismatch .pure
  · exact .modDieRegs
  · exact .modDieRegs
  · exact .bringUpFails

/-! ## Moves of homes, L1s, cleaners and walkers -/

protected theorem unqueue {k} : KeepsMem (unqueue k) := ⟨fun _ hs => hs⟩
protected theorem homeServe {kind k} : KeepsMem (homeServe kind k) := by
  refine .bind .get fun _ => ?_
  split
  · exact .pure
  · exact .ite (.bind .unqueue fun _ => .bind .prepare fun _ => .bind .get fun _ => .ite (.bind .finishReq fun _ =>
        .deliver) ⟨fun _ hs => hs⟩) .pure
protected theorem l1Answer {k} : KeepsMem (l1Answer k) := by
  refine .bind .get fun _ => ?_
  split
  · exact .pure
  · exact .bind .askCore fun _ => ⟨fun _ hs => hs⟩
protected theorem homeAnswer {k} : KeepsMem (homeAnswer k) := by
  refine .bind .get fun _ => ?_
  split
  · exact .pure
  · refine .bind ⟨fun _ hs => hs⟩ fun _ => .bind .get fun _ => ?_
    split
    · exact .pure
    · exact .bind .applyAck fun _ => .bind .get fun _ => .bind .setDir fun _ => .bind .get fun _ =>
          .ite .completeBusy .pure
protected theorem forwardReq {k} : KeepsMem (forwardReq k) := by
  refine .bind .get fun _ => ?_
  split
  · exact .pure
  · exact .ite (.bind .unqueue fun _ => .bind .serveWhole fun _ => .deliver) .pure
protected theorem cleaner {who k} : KeepsMem (cleaner who k) := by
  refine .bind .getCore fun _ => ?_
  split
  · exact .pure
  · split
    · exact .cleanLine
    · refine .bind .choose fun _ => .bind .get fun _ => .bind .get fun _ => .joined .pure .settledLine fun _ => ?_
      split
      · exact .pure
      · exact .ite .pure (.bind .clearDirty fun _ => .ite .loseMarks (.guard .sendReq fun _ => .ite .sendReq .pure))
protected theorem endWalk {k} : KeepsMem (endWalk k) := by
  refine .bind .get fun _ => ?_
  split
  · exact .pure
  · refine .bind (.attempt .walk) fun _ => .bind ⟨fun _ hs => hs⟩ fun _ => ?_
    split
    · exact .pure
    · exact .ite .modCore .modCluster

/-! ## Between instructions: binding, late results, interrupts -/

protected theorem pendingFault {who kind p} : KeepsMem (pendingFault who kind p) := ⟨fun _ hs => hs⟩
protected theorem baseList {who key} : KeepsMem (baseList who key) := by
  refine .bind .getCluster fun _ => ?_
  split
  · exact .pure
  · exact ⟨fun _ hs => hs⟩
protected theorem bindTo {who key p} : KeepsMem (bindTo who key p) :=
  .bind .get fun _ => .bind .modCore fun _ => .joined .baseList .pure fun _ => .bind .acquire fun _ => ⟨fun _ hs => hs⟩
protected theorem bindActivation {who} : KeepsMem (bindActivation who) := by
  refine .bind .get fun _ => .ite .pure ?_
  split
  · exact .bind .modCore fun _ => .bind .freeSlot fun _ => .pendingFault
  · split
    · exact .bindTo
    · exact .pure
protected theorem writeback {k} : KeepsMem (writeback k) := by
  refine .bind .getThread fun _ => ?_
  split
  · exact .pure
  · exact ⟨fun _ hs => hs⟩
protected theorem takeInterrupt {who} : KeepsMem (takeInterrupt who) := by
  refine .bind .get fun _ => ?_
  split
  · exact .pure
  · exact .ite (.bind .modCore fun _ => .bind .modThread fun _ => .bind .getThread fun _ => .bind .modThread fun _ =>
        .ite .doubleFault .pure) .pure

/-! ## Fetch and decode -/

protected theorem codeLine {v pline} : KeepsMem (codeLine v pline) := by
  unfold codeLine
  extract_lets read
  have hread : KeepsMem read := by
    refine .bind .serve fun _ => ?_
    split <;> exact .pure
  refine .ite hread (.bind .getCluster fun _ => ?_)
  extract_lets held rest
  have hrest {again} : KeepsMem (rest again) := by
    unfold rest
    clear_value held
    split
    · exact .pure
    · refine .bind hread fun _ => ?_
      split
      · exact .pure
      · exact .bind .modCluster fun _ => .pure
  cases held with
  | some l => exact .bind .choose fun _ => hrest
  | none => exact .bind .pure fun _ => hrest
protected theorem fetchParcel {pc} : KeepsMem (fetchParcel pc) := by
  refine .bind .me fun _ => .bind .myView fun _ => .guard .trap fun _ => .bind .translate fun _ => ?_
  split
  · refine .bind .get fun _ => .guard .trap fun _ => .bind .codeLine fun _ => ?_
    split
    · exact .trap
    · exact .trap
    · exact .pure
  · exact .loadAt
protected theorem fetchInstr {pc} : KeepsMem (fetchInstr pc) := by
  refine .bind .fetchParcel fun _ => ?_
  split
  · exact .pure
  · exact .bind .fetchParcel fun _ => .bind .fetchParcel fun _ => .bind .fetchParcel fun _ => .pure
  · exact .bind .fetchParcel fun _ => .pure
protected theorem illAt {α : Type} {pc e info} : KeepsMem (illAt pc e info : M α) := ⟨fun _ hs => hs⟩
protected theorem dictWord {i} : KeepsMem (dictWord i) := ⟨fun _ hs => hs⟩
protected theorem myOffer : KeepsMem myOffer := ⟨fun _ hs => hs⟩
protected theorem repChecks {α : Type} {m} (hm : KeepsMem m) : KeepsMem (repChecks m : M α) := by
  refine .bind (.attempt hm) fun _ => ?_
  split
  · exact .pure
  · exact .guard .modMe fun _ => .throw
protected theorem fetchHere : KeepsMem fetchHere := by
  refine .bind .myThread fun _ => .bind .fetchInstr fun ⟨_, _, _⟩ => ?_
  dsimp -zeta only
  extract_lets _ rest
  have hrest : KeepsMem (rest ()) := by
    refine .bind .myOffer fun _ => ?_
    split
    · exact .ite (.repChecks .illAt) .illAt
    · exact .bind .inKernel fun _ => .guard .trap fun _ => .pure
  exact .ite (.bind .fetchInstr fun _ => hrest) hrest
protected theorem fetchDecode : KeepsMem fetchDecode := by
  refine .bind .me fun _ => .remoteScope (.bind .myThread fun _ => ?_)
  split
  · exact .pure
  · exact .fetchHere

/-! ## Operand forms -/

protected theorem formRIn {p d a b e f len op} : KeepsMem (formRIn p d a b e f len op) :=
  .straight (.bind .readIn fun _ => .bind .readIn fun _ => .bind .checkDest fun _ => .writeIn)
protected theorem formR {d a b e f len op} : KeepsMem (formR d a b e f len op) := .formRIn
protected theorem formRLong {d a b e f len op} : KeepsMem (formRLong d a b e f len op) :=
  .straight (.bind .readG fun _ => .bind .readG fun _ => .bind .checkDest fun _ => .produce)
protected theorem formIIn {p d a e len op} : KeepsMem (formIIn p d a e len op) :=
  .straight (.bind .readIn fun _ => .bind .checkDest fun _ => .writeIn)
protected theorem formI {d a e len op} : KeepsMem (formI d a e len op) := .formIIn
protected theorem formW {d len v} : KeepsMem (formW d len v) := .straight (.bind .checkDest fun _ => .writeG)
protected theorem formPc {d len op} : KeepsMem (formPc d len op) :=
  .straight (.bind .checkDest fun _ => ⟨fun _ hs => hs⟩)
protected theorem formF2 {d a b e f dbl len op} : KeepsMem (formF2 d a b e f dbl len op) :=
  .straight (.bind .readG fun _ => .bind .readG fun _ => .bind .checkDest fun _ => ⟨fun _ hs => hs⟩)
protected theorem formF1 {d a e len op} : KeepsMem (formF1 d a e len op) :=
  .straight (.bind .readG fun _ => .bind .checkDest fun _ => ⟨fun _ hs => hs⟩)
protected theorem formFCmp {d a b e f dbl len op} : KeepsMem (formFCmp d a b e f dbl len op) := .formF2
protected theorem formFma {d a b e f dbl len} : KeepsMem (formFma d a b e f dbl len) :=
  .straight (.bind .readG fun _ => .bind .readG fun _ => .bind .readP fun _ => ⟨fun _ hs => hs⟩)
protected theorem formFLit {d a e len lit op} : KeepsMem (formFLit d a e len lit op) :=
  .straight (.bind .readG fun _ => .bind .checkDest fun _ => ⟨fun _ hs => hs⟩)
protected theorem formFmaLit {d a e len lit} : KeepsMem (formFmaLit d a e len lit) :=
  .straight (.bind .readG fun _ => .bind .readP fun _ => ⟨fun _ hs => hs⟩)
protected theorem formFDest {d len lit op} : KeepsMem (formFDest d len lit op) :=
  .straight (.bind .readP fun _ => ⟨fun _ hs => hs⟩)
protected theorem bankWord {k} : KeepsMem (bankWord k) := ⟨fun _ hs => hs⟩

/-! ## Integer instructions -/

/-! ## Immediate instructions -/

/-! ## Control transfer and the activation -/

protected theorem stackAccess {α : Type} {sub m} (hm : KeepsMem m) : KeepsMem (stackAccess sub m : M α) := by
  refine .bind (.attempt hm) fun _ => ?_
  split
  · exact .pure
  · exact .throw
protected theorem spillStore {va x} : KeepsMem (spillStore va x) :=
  .bind .checkScalar fun _ => .bind .me fun _ => .bind .myView fun _ => .storeAt
protected theorem fillLoad {va} : KeepsMem (fillLoad va) :=
  .bind .checkScalar fun _ => .bind .me fun _ => .bind .myView fun _ => .bind .loadAt fun _ => .pure
protected theorem push {e} : KeepsMem (push e) :=
  .bind .myThread fun _ => .ite (.guard .trap fun _ => .bind (.stackAccess .spillStore) fun _ => .modMe) .modMe
protected theorem peekStack : KeepsMem peekStack := by
  refine .bind .myThread fun _ => ?_
  split
  · exact .pure
  · exact .ite .pure (.bind (.stackAccess .fillLoad) fun _ => .guard .trap fun _ => .pure)
protected theorem goto {pc} : KeepsMem (goto pc) := ⟨fun _ hs => hs⟩
protected theorem targetOf {x} : KeepsMem (targetOf x) := .guard .trap fun _ => .pure
protected theorem call {d target c len} : KeepsMem (call d target c len) :=
  .bind .myThread fun _ => .bind .push fun _ => ⟨fun _ hs => hs⟩
protected theorem collectingCall {d target len} : KeepsMem (collectingCall d target len) :=
  .bind .me fun _ => .guard .trap fun _ => .bind .getThread fun _ => .guard .trap fun _ => .bind .getCluster fun _ =>
    .guard .trap fun _ => .bind .call fun _ => .bind .makeList fun _ => .modMe
protected theorem doBr {a b c o len} : KeepsMem (doBr a b c o len) :=
  .bind .readP fun _ => .bind .readP fun _ => ⟨fun _ hs => hs⟩
protected theorem doJ {i _len} : KeepsMem (doJ i _len) := ⟨fun _ hs => hs⟩
protected theorem doJal {d i len} : KeepsMem (doJal d i len) :=
  .bind .checkDest fun _ => .bind .myThread fun _ => .call
protected theorem doCallc {d i len} : KeepsMem (doCallc d i len) :=
  .bind .checkDest fun _ => .bind .myThread fun _ => .collectingCall
protected theorem doJr {a e _len} : KeepsMem (doJr a e _len) := .bind .readG fun _ => .bind .targetOf fun _ => .goto
protected theorem doJalr {d a e len} : KeepsMem (doJalr d a e len) :=
  .bind .readG fun _ => .bind .targetOf fun _ => .bind .checkDest fun _ => .call
protected theorem doCallcr {d a e len} : KeepsMem (doCallcr d a e len) :=
  .bind .readG fun _ => .bind .targetOf fun _ => .bind .checkDest fun _ => .collectingCall
protected theorem doRet {_len} : KeepsMem (doRet _len) := by
  refine .bind .peekStack fun _ => ?_
  split
  · exact .endActivation
  · refine .ite (.bind .myThread fun _ => ?_) ⟨fun _ hs => hs⟩
    split
    · exact .trap
    · exact .bind .checkDest fun _ => ⟨fun _ hs => hs⟩
protected theorem doAlign {len} : KeepsMem (doAlign len) :=
  .bind .me fun _ => .bind .get fun _ => .ite ⟨fun _ hs => hs⟩ (.ite .advance ⟨fun _ hs => hs⟩)
protected theorem doYield {len} : KeepsMem (doYield len) := .straight ⟨fun _ hs => hs⟩
protected theorem doTrigger {len} : KeepsMem (doTrigger len) := by
  refine .straight (.bind .forbidCollecting fun _ => .bind .me fun _ => .bind .release fun _ => .bind .get fun _ => ?_)
  split
  · exact .pure
  · exact .modify fun _ hs => by split <;> exact hs
protected theorem parcelOf {k pc} : KeepsMem (parcelOf k pc) := by
  refine .bind .getThread fun _ => .guard .trap fun _ => .bind .translate fun _ => ?_
  split
  · refine .bind .get fun _ => .guard .trap fun _ => .bind .serve fun _ => ?_
    split
    · exact .abortCause
    · exact .pure
  · exact .bind .me fun _ => .bind .remote fun _ => .pure
protected theorem unitLength {k pc} : KeepsMem (unitLength k pc) :=
  .bind .parcelOf fun _ => .ite (.bind .parcelOf fun _ => .pure) .pure
protected theorem doResume {d a b e f len} : KeepsMem (doResume d a b e f len) := by
  refine .straight (.bind .readG fun _ => .bind .readG fun _ => .bind .checkDest fun _ => .bind .me fun _ =>
      .remoteScope (.bind .me fun _ => .bind .release fun _ => .bind .getThread fun _ =>
      .ite .writeG (.ite .writeG (.ite .writeG ?_))))
  extract_lets
  split
  · exact .bind (.bind .modThread fun _ => .acquire) fun _ => .writeG
  · exact .bind .unitLength fun _ => .bind (.bind .modThread fun _ => .acquire) fun _ => .writeG
  · exact .ite (.bind (.bind .modThread fun _ => .abortActivation) fun _ => .writeG) (.bind (.bind .modThread fun _ =>
        .acquire) fun _ => .writeG)
  · exact .bind (.bind .modThread fun _ => .abortActivation) fun _ => .writeG

/-! ## Scalar floating point -/

protected theorem doFmak {d a k len} : KeepsMem (doFmak d a k len) := .bind .bankWord fun _ => .formFmaLit
protected theorem doFaddk {d a k len} : KeepsMem (doFaddk d a k len) := .bind .bankWord fun _ => .formFLit
protected theorem doFmulk {d a k len} : KeepsMem (doFmulk d a k len) := .bind .bankWord fun _ => .formFLit
protected theorem doMovk {d k len} : KeepsMem (doMovk d k len) := .bind .bankWord fun _ => .formW

/-! ## Fences, cache control, mapping and completion objects -/

protected theorem releaseHere {sc} : KeepsMem (releaseHere sc) :=
  .bind .collecting fun _ => .ite (.bind .me fun _ => .release) .pure
protected theorem acquireHere {sc} : KeepsMem (acquireHere sc) :=
  .bind .myWho fun _ => .bind .performRead fun _ => .bind .me fun _ => .acquire
protected theorem doFence {sc kind len} : KeepsMem (doFence sc kind len) := by
  refine .straight ?_
  split
  · exact .bind .releaseHere fun _ => .acquireHere
  · exact .acquireHere
  · exact .releaseHere
protected theorem doAcq {sc len} : KeepsMem (doAcq sc len) := .straight .acquireHere
protected theorem doRel {sc len} : KeepsMem (doRel sc len) := .straight .releaseHere
protected theorem heldLine {va} : KeepsMem (heldLine va) := .bind .myView fun _ => .ite .pure ⟨fun _ hs => hs⟩
protected theorem cleanHeld {l} : KeepsMem (cleanHeld l) := by
  refine .bind .myWho fun _ => .bind .writeBack fun _ => ?_
  split
  · exact .pure
  · refine .bind .get fun _ => .joined .pure .settledLine fun _ => ?_
    split
    · exact .pure
    · exact .ite (.bind .clearDirty fun _ => .ite .loseMarks (.bind .serve fun _ => .pure)) .pure
protected theorem doClean {a e len} : KeepsMem (doClean a e len) := by
  refine .straight (.bind .readG fun _ => .bind .heldLine fun _ => ?_)
  split
  · exact .cleanHeld
  · exact .pure
protected theorem doDrop {a e len} : KeepsMem (doDrop a e len) := by
  refine .straight (.bind .readG fun _ => .bind .heldLine fun _ => ?_)
  split
  · exact .pure
  · refine .bind .cleanHeld fun _ => .bind .heldLine fun _ => ?_
    split
    · exact .bind .myWho fun _ => .dropLine
    · exact .pure
protected theorem hintPage {v va w} : KeepsMem (hintPage v va w) :=
  .bind .get fun _ => .ite (.ite .pure .pure) (.ite .pure .pure)
protected theorem doPref {a l e len} : KeepsMem (doPref a l e len) := by
  refine .straight (.bind .readG fun _ => .bind .myView fun _ => .bind .choose fun _ => ?_)
  split
  · exact .pure
  · refine .ite .pure (.bind .hintPage fun _ => ?_)
    split
    · exact .pure
    · split
      · refine .bind .me fun _ => .bind .get fun _ => ?_
        split
        · exact .ite .queueReq .pure
        · exact .pure
      · exact .pure
protected theorem mapHomes {v fill ps} : KeepsMem (mapHomes v fill ps) := by
  refine .foldlM fun _ _ => (.bind .translate fun _ => ?_)
  split
  · exact .bind .get fun _ => .guard .trap fun _ => .bind .get fun _ => .guard .trap fun _ => .ite (.bind .get fun _ =>
        .bind .withheld fun _ => .ite ⟨fun _ hs => hs⟩ .pure) .pure
  · exact .trap
protected theorem recallHomes {who place fill homes} : KeepsMem (recallHomes who place fill homes) :=
  .bind (.forM fun _ => .bind .get fun _ => .recallLine) fun _ => .ite (.forM fun _ => .bind .get fun _ =>
    .bind .get fun _ => .bind .currentLine fun _ => .putBytes) .pure
protected theorem pinHomes {who place homes} : KeepsMem (pinHomes who place homes) :=
  .bind (.foldlM fun _ _ => (.ite .pure (.bind .pinLine fun _ => .ite .pure .pure))) fun _ => .pure
protected theorem unpinHomes {who place n homes} : KeepsMem (unpinHomes who place n homes) :=
  .forM fun _ => .bind .dropPins fun _ => .pure
protected theorem doSpmap {d a b e f len} : KeepsMem (doSpmap d a b e f len) := by
  refine .straight (.bind .readG fun _ => .bind .readG fun _ => .bind .readG fun _ => .bind .checkDest fun _ =>
      .bind .forbidCollecting fun _ => .bind .me fun _ => .bind .myView fun _ => .bind .myThread fun _ =>
      .bind .release fun _ => .bind .getCore fun _ => .bind .myThread fun _ => ?_)
  extract_lets
  split
  · exact .bind .writeG fun _ => .acquire
  · exact .ite (.bind .writeG fun _ => .acquire) (.ite (.bind .writeG fun _ => .acquire) (.bind .mapHomes fun _ =>
        .bind .recallHomes fun _ => .bind .pinHomes fun _ => .ite (.bind .unpinHomes fun _ => .bind .writeG fun _ =>
        .acquire) (.bind .modCore fun _ => .bind .writeG fun _ => .acquire)))
protected theorem doSpunmap {d a e len} : KeepsMem (doSpunmap d a e len) := by
  refine .straight (.bind .readG fun _ => .bind .checkDest fun _ => .bind .forbidCollecting fun _ => .bind .me fun _ =>
      .bind .release fun _ => .bind .myThread fun _ => .bind .getCore fun _ => ?_)
  extract_lets
  split
  · exact .bind .writeG fun _ => .acquire
  · exact .bind .modCore fun _ => .ite (.bind .writeG fun _ => .acquire) (.bind .mapEntryRelease fun _ =>
        .bind .writeG fun _ => .acquire)
protected theorem readObject {va} : KeepsMem (readObject va) :=
  .bind .checkScalar fun _ => .bind .me fun _ => .bind .myView fun _ => .bind .loadAt fun _ => .pure
protected theorem doWaitc {d a b e f len} : KeepsMem (doWaitc d a b e f len) := by
  refine .straight (.bind .readG fun _ => .bind .readG fun _ => .bind .checkDest fun _ => .bind .me fun _ =>
      .remoteScope (.bind .readObject fun _ => .ite (.bind .me fun _ => .bind .acquire fun _ =>
      .produce) (.bind .get fun _ => ?_)))
  split
  · exact .park
  · exact .bind .me fun _ => .bind (.modify fun _ hs => State.dropWaits_memWf hs) fun _ => .throw
protected theorem doTestc {d a e len} : KeepsMem (doTestc d a e len) :=
  .straight (.bind .readG fun _ => .bind .checkDest fun _ => .bind .me fun _ => .remoteScope (.bind .readObject fun _ =>
    .bind .me fun _ => .bind .acquire fun _ => .writeG))

/-! ## Control registers, ECALL and ERET -/

protected theorem doCrr {d n len} : KeepsMem (doCrr d n len) :=
  .straight (.bind .checkDest fun _ => ⟨fun _ hs => hs⟩)
protected theorem modCtl {k f} : KeepsMem (modCtl k f) := ⟨fun _ hs => hs⟩
protected theorem modKern {k f} : KeepsMem (modKern k f) := ⟨fun _ hs => hs⟩
protected theorem modRegs {who f} : KeepsMem (modRegs who f) := ⟨fun _ hs => hs⟩
protected theorem writeFpf {k v} : KeepsMem (writeFpf k v) := ⟨fun _ hs => hs⟩
protected theorem writeCtxid {k v} : KeepsMem (writeCtxid k v) := ⟨fun _ hs => hs⟩
protected theorem writeL2mode {die v} : KeepsMem (writeL2mode die v) :=
  .ite .pure (.bind .get fun _ => .bind .contextOn fun _ => .ite .pure .modDieRegs)
protected theorem writeTracectl {k v} : KeepsMem (writeTracectl k v) :=
  .bind .release fun _ => .ite .acquire (.bind .getDie fun _ => .bind .modDie fun _ => .acquire)
protected theorem writeUser {k n v} : KeepsMem (writeUser k n v) := by
  unfold writeUser
  split
  · exact .writeCtxid
  · exact .modCtl
  · exact .writeFpf
  · exact .modCtl
  · exact .modCtl
  · exact .modCtl
  · exact .modRegs
  · exact .modCtl
  · exact .modCtl
  · exact .modCtl
  · exact .modCtl
  · exact .modCtl
  · exact .pure
protected theorem writeCoreCr {k n v} : KeepsMem (writeCoreCr k n v) := by
  unfold writeCoreCr
  extract_lets
  split
  · exact .modKern
  · exact .modKern
  · exact .modKern
  · exact .modKern
  · exact .modKern
  · exact .modKern
  · exact .writeKptroot
  · exact .modRegs
  · exact .modRegs
  · exact .modRegs
  · exact .modRegs
  · exact .modRegs
  · exact .writeQcmd
  · exact .writeCtxcmd
  · exact .writeMigcmd
  · split
    · exact .modRegs
    · exact .pure
protected theorem writeDieCr {k n v} : KeepsMem (writeDieCr k n v) := by
  unfold writeDieCr
  extract_lets
  split
  · exact .modDieRegs
  · exact .writeL2mode
  · exact .modDieRegs
  · exact .modDieRegs
  · exact .writeRing
  · exact .writeTracectl
  · exact .writePortcmd
  · exact .modDieRegs
  · exact .modDieRegs
  · exact .modDieRegs
  · exact .writeKillres
  · exact .pure
protected theorem writeCr {k n v} : KeepsMem (writeCr k n v) := .ite .writeUser (.ite .writeDieCr .writeCoreCr)
protected theorem doCrw {a n len} : KeepsMem (doCrw a n len) :=
  .straight (.bind .myThread fun _ => .guard .trap fun _ => .bind .readP fun _ => .bind .me fun _ => .writeCr)
protected theorem doEcall {a sub _len} : KeepsMem (doEcall a sub _len) := .bind .readP fun _ => .trap
protected theorem doTrapi {sub _len} : KeepsMem (doTrapi sub _len) := ⟨fun _ hs => hs⟩
protected theorem doEret {_len} : KeepsMem (doEret _len) :=
  .bind .me fun _ => .bind .get fun _ => .guard .throw fun _ => .bind .myThread fun _ => .guard .trap fun _ => .modMe

/-! ## Vector memory instructions -/

protected theorem checkAligned {p lane acc} : KeepsMem (checkAligned p lane acc) := by
  unfold checkAligned
  split
  · exact .ite .trap .pure
  · exact .pure
protected theorem placeOf {p lane va n} : KeepsMem (placeOf p lane va n) := by
  refine .bind .myView fun _ => .bind .myThread fun _ => .ite (.bind .l1Hit fun _ => ?_) .resolve
  split
  · exact .pure
  · exact .resolve
protected theorem checkLane {p lane acc} : KeepsMem (checkLane p lane acc) :=
  .bind .checkAligned fun _ => .mapM fun _ => .placeOf
protected theorem loadPlace {p lane va n w} : KeepsMem (loadPlace p lane va n w) :=
  .bind .me fun _ => .bind .myView fun _ => .bind .collecting fun _ => .ite (.collectedLoad .loadAt) .loadAt
protected theorem loadLanes {d p elem places} : KeepsMem (loadLanes d p elem places) :=
  .bind .sampleFpc fun _ => .bind (.mapM fun _ => .bind (.mapM fun _ => .loadPlace) fun _ => .pure) fun _ =>
    ⟨fun _ hs => hs⟩
protected theorem vectorLoad {d p elem} : KeepsMem (vectorLoad d p elem) :=
  .bind .me fun _ => .remoteScope (.bind (.mapM fun _ => .bind .checkLane fun _ => .pure) fun _ => .loadLanes)
protected theorem checkPresent {w fa fi} : KeepsMem (checkPresent w fa fi) := by
  unfold checkPresent
  split
  · exact .bind .get fun _ => .ite .trap .pure
  · exact .pure
protected theorem vectorStore {d p} : KeepsMem (vectorStore d p) :=
  .bind .me fun _ => .remoteScope (.bind .me fun _ => .bind .myView fun _ => .bind .myThread fun _ =>
    .bind .sampleFpc fun _ => .bind .collecting fun _ => .ite (.bind (.forM fun _ => .forM fun _ =>
    .bind .checkAligned fun _ => .guard .trap fun _ => .bind .placeOf fun _ => .record) fun _ =>
    .raiseLanes) (.bind (.mapM fun _ => .bind .checkLane fun _ => .pure) fun _ => .bind (.forM fun _ => .forM fun _ =>
    .checkPresent) fun _ => .bind (.forM fun _ => .forM fun _ => .storeAt) fun _ => .raiseLanes))
protected theorem checkVecFmt {q4 w} : KeepsMem (checkVecFmt q4 w) := .checkFat
protected theorem doVld {p d a x l m e len} : KeepsMem (doVld p d a x l m e len) :=
  .straight (.bind .readIn fun _ => .bind .readIn fun _ => .bind .checkVecFmt fun _ => .bind .myThread fun _ =>
    .ite (.guard .trap fun _ => .vectorLoad) .vectorLoad)
protected theorem doVst {p d a x l m e len} : KeepsMem (doVst p d a x l m e len) :=
  .straight (.bind .readIn fun _ => .bind .readIn fun _ => .bind .checkVecFmt fun _ => .bind .myThread fun _ =>
    .vectorStore)
protected theorem doVlds {p d a x l m e len} : KeepsMem (doVlds p d a x l m e len) :=
  .straight (.bind .readIn fun _ => .bind .readIn fun _ => .bind .checkVecFmt fun _ => .bind .myThread fun _ =>
    .vectorLoad)
protected theorem doVsts {p d a x l m e len} : KeepsMem (doVsts p d a x l m e len) :=
  .straight (.bind .readIn fun _ => .bind .readIn fun _ => .bind .checkVecFmt fun _ => .bind .myThread fun _ =>
    .vectorStore)
protected theorem doVscat {p d a l m e len} : KeepsMem (doVscat p d a l m e len) :=
  .straight (.bind .readIn fun _ => .bind .checkVecFmt fun _ => .bind .myThread fun _ => .vectorStore)
protected theorem startWalk {v va} : KeepsMem (startWalk v va) :=
  .bind .me fun _ => .modify fun _ hs => by split <;> exact hs
protected theorem unkeep {k} : KeepsMem (unkeep k) := ⟨fun _ hs => hs⟩
protected theorem doVgath {p d a l m nf e len} : KeepsMem (doVgath p d a l m nf e len) :=
  .straight (.bind .readIn fun _ => .bind .checkVecFmt fun _ => .bind .me fun _ => .bind .myThread fun _ =>
    .ite (.bind .vectorLoad fun _ => .unkeep) (.bind .myView fun _ => .bind (.remoteScope (.bind (.forM fun _ =>
    .bind .checkAligned fun _ => .forM fun _ => .ite (.bind .placeOf fun _ => .pure) .pure) fun _ => .bind .get fun _ =>
    .bind (.forM fun _ => .forM fun _ => .startWalk) fun _ => .bind (.mapM fun _ => .bind .checkLane fun _ =>
    .pure) fun _ => .bind .loadLanes fun _ => .modVec)) fun _ => .unkeep))
protected theorem checkSlice {i o store} : KeepsMem (checkSlice i o store) := by
  unfold checkSlice
  exact .guard .trap fun _ => .bind .myWho fun _ => .ite .trap .pure
protected theorem doVldl {p d a x m e len} : KeepsMem (doVldl p d a x m e len) :=
  .straight (.bind .readIn fun _ => .bind .readIn fun _ => .bind .me fun _ => .bind .getThread fun _ =>
    .bind (.forM fun _ => .checkSlice) fun _ => .bind (.mapM fun _ => .bind .localWithheld fun _ =>
    .guard .trap fun _ => ⟨fun _ hs => hs⟩) fun _ => .modVec)
protected theorem doVstl {p d a x m e len} : KeepsMem (doVstl p d a x m e len) :=
  .straight (.bind .readIn fun _ => .bind .readIn fun _ => .bind .me fun _ => .bind .collecting fun _ =>
    .guard .trap fun _ => .bind .myThread fun _ => .bind (.forM fun _ => .checkSlice) fun _ => .forM fun _ => .putBytes)

/-! ## Dictionary parcels, REP and the instructions they run -/

protected theorem perform {i len} : KeepsMem (perform i len) := by
  unfold Machine.perform
  cases i with
  | add | sub | and | or | xor | andn | sll | srl | sra | padd | fatset => exact .formRIn
  | mul | mulh | mulhn | rol | min | max | minn | maxn | slt | sltn | seq | pdiff | addw | subw | mulw | sllw | srlw
  | sraw => exact .formR
  | div | divn | rem | remn | divw | divnw | remw | remnw => exact .formRLong
  | clz | ctz | popc | slti | sltni => exact .formI
  | fatget | addi | andi | ori | xori | slli | srli | srai | roli | paddi => exact .formIIn
  | movi | fmovi => exact .formW
  | adr => exact .formPc
  | faddi | fmuli => exact .formFDest
  | fadd | fsub | fmul | fdiv | fmin | fmax => exact .formF2
  | fsqrt | fneg | fabs | fclass | fcvti | fcvtf | fcvtp | fcvtit => exact .formF1
  | fma => exact .formFma
  | feq | flt | fle => exact .formFCmp
  | fmak => exact .doFmak
  | faddk => exact .doFaddk
  | fmulk => exact .doFmulk
  | movk => exact .doMovk
  | br => exact .doBr
  | j => exact .doJ
  | jal => exact .doJal
  | callc => exact .doCallc
  | jr => exact .doJr
  | jalr => exact .doJalr
  | ret => exact .doRet
  | align => exact .doAlign
  | endact => exact .endActivation
  | yield => exact .doYield
  | trigger => exact .doTrigger
  | resume => exact .doResume
  | ld => exact .doLd
  | st => exact .doSt
  | ldx => exact .doLdx
  | stx => exact .doStx
  | ldacq => exact .doLdacq
  | strel => exact .doStrel
  | aadd | aand | aor | axor | amin | amax | aminn | amaxn | aswap | afadd => exact .formAtomic
  | acas => exact .doAcas
  | fence => exact .doFence
  | acq => exact .doAcq
  | rel => exact .doRel
  | clean => exact .doClean
  | drop => exact .doDrop
  | pref => exact .doPref
  | spmap => exact .doSpmap
  | spunmap => exact .doSpunmap
  | waitc => exact .doWaitc
  | testc => exact .doTestc
  | ecat => exact .doEcat
  | efilt | efiltx => exact .filterList
  | ereb => exact .doEreb
  | eapply | eapplyO => exact .applyForm
  | edrop => exact .doEdrop
  | einfo => exact .doEinfo
  | espill => exact .doEspill
  | eload => exact .doEload
  | callcr => exact .doCallcr
  | send | sendr | tsend => exact .sendForm
  | put | puth => exact .putForm
  | recv => exact .doRecv
  | msgfree => exact .doMsgfree
  | chstat => exact .doChstat
  | alloc => exact .doAlloc
  | free => exact .doFree
  | copy => exact .doCopy
  | copys => exact .doCopys
  | ginfo => exact .doGinfo
  | gmcast => exact .doGmcast
  | gred => exact .doGred
  | gset => exact .doGset
  | barcfg => exact .doBarcfg
  | bararr => exact .doBararr
  | barwait => exact .doBarwait
  | bararw => exact .doBararw
  | barq => exact .doBarq
  | vadd | vsub | vmul | vmin | vmax | vminn | vmaxn | vand | vor | vxor | vsll | vsrl | vsra => exact .formV2
  | vcmpeq | vcmplt | vcmpltn => exact .formVCmp
  | vfadd | vfsub | vfmul | vffma | vfmin | vfmax | vfneg | vfabs | vfdiv | vexp2 | vlog2 | vrcp | vrsqrt | vcvtfi
  | vcvtif => exact .formVF
  | vfeq | vflt | vfle => exact .formVFCmp
  | vbcast => exact .doVbcast
  | vext => exact .doVext
  | vidx | vsel | vperm => exact .formLane
  | vrsum => exact .doVrsum
  | vfrsum | vfrmax => exact .formTree
  | mand => exact .doMand
  | mor => exact .doMor
  | mnot => exact .doMnot
  | mpop => exact .doMpop
  | mset => exact .doMset
  | vld => exact .doVld
  | vst => exact .doVst
  | vlds => exact .doVlds
  | vsts => exact .doVsts
  | vgath => exact .doVgath
  | vscat => exact .doVscat
  | vldl => exact .doVldl
  | vstl => exact .doVstl
  | vclaim => exact .doVclaim
  | vrel => exact .doVrel
  | vlen => exact .doVlen
  | mzero => exact .doMzero
  | mweave => exact .doMweave
  | mweaves => exact .doMweaves
  | mread => exact .doMread
  | bload => exact .doBload
  | mstat => exact .doMstat
  | msave => exact .doMsave
  | mrestore => exact .doMrestore
  | crr => exact .doCrr
  | crw => exact .doCrw
  | ecall => exact .doEcall
  | eret => exact .doEret
  | trapi => exact .doTrapi
  | tlbi => exact .doTlbi
  | gstop => exact .doGstop
  | gresume => exact .doGresume
  | dict | kload => exact .imageForm
  | pwrset => exact .doPwrset
  | killcore => exact .doKillcore
  | foffer | faccept | flend | frecall | freturn => exact .dealForm
  | fquery => exact .doFquery
  | _ => exact .pure
protected theorem dictInstr {i at' repf} : KeepsMem (dictInstr i at' repf) := by
  refine .bind .dictWord fun _ => .ite .illAt (.ite .illAt (.bind .myOffer fun _ => ?_))
  split
  · exact .illAt
  · exact .pure
protected theorem doD16 {i len} : KeepsMem (doD16 i len) :=
  .bind .myThread fun _ => .bind .dictInstr fun _ => .bind .inKernel fun _ => .guard .trap fun _ => .perform
protected theorem follower {at'} : KeepsMem (follower at') := by
  refine .bind .fetchInstr fun _ => .ite ?_ (.guard .illAt fun _ => .bind .myOffer fun _ => ?_)
  · split
    · exact .bind .dictInstr fun _ => ⟨fun _ hs => hs⟩
    · exact .illAt
    · exact .illAt
  · split
    · exact .illAt
    · exact .pure
protected theorem repInstance {pc m} (hm : KeepsMem m) : KeepsMem (repInstance pc m) := by
  have hm' : KeepsMem (do modMe fun t => { t with pc := after pc 4 }; m) := .bind .modMe fun _ => hm
  refine .of_ends (fun s a t hs h => ?_) fun s e t hs h => ?_ <;> unfold repInstance at h <;> split at h
  · next h' => cases h; exact hm'.keeps.ok hs h'
  · split at h <;> cases h
  · cases h
  · next u h' =>
    have hu : MemWf u := hm'.keeps.error hs h'
    split at h <;> cases h <;> exact hu
protected theorem checkRep {n sd sa sb rw} : KeepsMem (checkRep n sd sa sb rw) :=
  .bind .myThread fun _ => .bind .follower fun _ => .guard .illAt fun _ => .guard .illAt fun _ =>
    .bind .inKernel fun _ => .guard .trap fun _ => .pure
protected theorem repUnit {n sd sa sb rw} : KeepsMem (repUnit n sd sa sb rw) := by
  refine .bind .myThread fun _ => ?_
  split
  · exact .pure
  · exact .repChecks .checkRep
protected theorem doRep {n sd sa sb rw} : KeepsMem (doRep n sd sa sb rw) := by
  refine .bind .me fun _ => .remoteScope (.bind .myThread fun _ => .ite (.bind .fetchInstr fun _ =>
      ⟨fun _ hs => hs⟩) (.bind .repUnit fun _ => .bind .myThread fun _ => .ite .modMe (.bind .modMe fun _ => ?_)))
  split
  · exact .repChecks .illAt
  · exact .bind (.repInstance .perform) fun _ => .ite .modMe .modMe

/-! ## Checker mismatches -/

protected theorem checkedInstr {x} : KeepsMem (checkedInstr x) := by
  unfold checkedInstr
  split
  · refine .ite .pure (.bind .repUnit fun _ => .bind .myThread fun _ => ?_)
    split <;> exact .pure
  · exact .bind .myThread fun _ => .bind .dictInstr fun _ => .pure
  · exact .pure

end KeepsMem

end Sys2Proof.Machine
end

section
/-! Obligation O58 (R3, R119, log entry 2): what every row of the instruction table does keeps the canonical form, the
default choice makes only moves that are such rows, and so every step keeps it. -/

namespace Sys2Proof.Machine

/-! ## Outcomes -/

/-- An outcome that, where it is a next state, is one whose memory is in canonical form. -/
def NextMemWf (o : Host.Outcome State Fault Refusal) : Prop := ∀ t, o = .next t → MemWf t

namespace NextMemWf
section
variable {m : M Unit} {s : State} {o o' : Host.Outcome State Fault Refusal}

protected theorem next (hs : MemWf s) : NextMemWf (.next s) := fun _ e => by cases e; exact hs

protected theorem fault {f : Fault} : NextMemWf (.fault f) := fun _ e => by cases e

protected theorem ite {c : Prop} {_ : Decidable c} (h : NextMemWf o) (h' : NextMemWf o') :
    NextMemWf (if c then o else o') := by
  split
  · exact h
  · exact h'

protected theorem finish (hm : KeepsMem m) (hs : MemWf s) : NextMemWf (finish m s) := fun _ e =>
  finish_memWf hm.keeps hs e

protected theorem agentStep (hm : KeepsMem m) (hs : MemWf s) : NextMemWf (agentStep m s) := by
  unfold Machine.agentStep
  split
  · next h => exact .next (hm.keeps.ok hs h)
  · next h => exact .next (hm.keeps.error hs h)

protected theorem engineEvent {id : Nat} {kind : EngOp → Bool} (hm : KeepsMem m) (hs : MemWf s) :
    NextMemWf (engineEvent id kind m s) := .ite (.agentStep hm hs) (.next hs)

/-- An instruction that means what REP and the dictionary take it to mean. -/
protected theorem perform {i : Instr} {len : Nat} (h : exec i s = Machine.finish (perform i len) s) (hs : MemWf s) :
    NextMemWf (exec i s) := h ▸ .finish .perform hs

protected theorem held {k : Nat} {i : Instr} (h : NextMemWf o) : NextMemWf (held k i o) := by
  cases o with
  | next u =>
    have hu : (u.holding k i).mem = u.mem := u.holding_mem k i
    exact .next (show Memory.wf _ = true from hu ▸ h u rfl)
  | _ => exact h

end
end NextMemWf

/-! ## Events of agents that are more than one meaning -/

section
variable {s : State}

theorem execCopyComplete_nextMemWf {k : Nat} (hs : MemWf s) : NextMemWf (execCopyComplete k s) :=
  .ite (.engineEvent (.engineRun (fun _ => .queueCopyDone) fun _ => .queueCopyEnds) hs)
    (.engineEvent (.engineRun (fun _ => .copyDone) fun _ => .pure) hs)

theorem execGredReduction_nextMemWf {die : BitVec 2} {group : BitVec 8} (hs : MemWf s) :
    NextMemWf (execGredReduction die group s) := by
  refine .agentStep .performAdds ?_
  split
  · next h => exact KeepsMem.performRed.keeps.ok hs h
  · next h => exact KeepsMem.performRed.keeps.error hs h

theorem execSequencerTake_nextMemWf {cl : Nat} (hs : MemWf s) : NextMemWf (execSequencerTake cl s) := by
  unfold execSequencerTake
  split
  · exact .ite (.next hs) (.next hs)
  · exact .next hs

theorem commandEvent_nextMemWf {kind : Nat} {die : BitVec 2} (hs : MemWf s) : NextMemWf (commandEvent kind die s) := by
  unfold commandEvent
  split
  · exact .next hs
  · exact .agentStep (.frontScope (.ite .holdQueue .startCommand)) hs

theorem execRecallDeadline_nextMemWf {frame : BitVec 24} (hs : MemWf s) : NextMemWf (execRecallDeadline frame s) := by
  unfold execRecallDeadline
  dsimp only
  split
  · exact .ite (.agentStep (.whole .revoke) hs) (.next hs)
  · exact .next hs

theorem execLinkRequest_nextMemWf {r : LinkReq} (hs : MemWf s) : NextMemWf (execLinkRequest r s) := by
  unfold execLinkRequest
  split
  · next h => exact .next (KeepsMem.incoming.keeps.ok hs h)
  · exact .next hs

end

/-- Whatever an instruction or an event does, it keeps the canonical form of memory. -/
theorem exec_nextMemWf {i : Instr} {s : State} (hs : MemWf s) : NextMemWf (exec i s) := by
  cases i with
  | movl | movlz => exact .finish .formW hs
  | movlh | addl => exact .finish .formI hs
  | fmal => exact .finish .formFmaLit hs
  | faddl | fmull => exact .finish .formFLit hs
  | rep => exact .finish .doRep hs
  | d16 => exact .finish .doD16 hs
  | fpfWrite => exact .agentStep .writeFpf hs
  | l2modeWrite => exact .agentStep .writeL2mode hs
  | tracectlWrite => exact .agentStep .writeTracectl hs
  | kptrootWrite => exact .agentStep .writeKptroot hs
  | ctxidWrite => exact .agentStep .writeCtxid hs
  | killresWrite => exact .finish .writeKillres hs
  | swapin => exact .finish (.queueCommand .swapIn) hs
  | swapout => exact .finish (.queueCommand .swapOut) hs
  | restart => exact .finish (.queueCommand .restartQueue) hs
  | thaw => exact .finish (.queueCommand .thawQueue) hs
  | create | start | reset | destroy | evict => exact .finish .contextOp hs
  | migrationGo => exact .finish .migrationStart hs
  | migrationEnd => exact .finish .migrationStop hs
  | portTrain => exact .agentStep .trainPort hs
  | portDown => exact .agentStep .downPort hs
  | resultWriteback => exact .agentStep .writeback hs
  | alignTimeout => exact .next hs
  | messageArrival => exact .finish .messageArrival hs
  | activationBind => exact .agentStep .bindActivation hs
  | systemMessageDelivery => exact .finish .deliverSystem hs
  | interruptEntry => exact .agentStep .takeInterrupt hs
  | fillu | fills | upg | getm | ext | regw | rdh | wrh | atom | wbs | wbo | dereg | leave
    => exact .agentStep .homeServe hs
  | l1Invalidation => exact .agentStep .l1Answer hs
  | homeAcknowledgement => exact .agentStep .homeAnswer hs
  | forwardedAccess => exact .agentStep .forwardReq hs
  | backgroundCleaner => exact .agentStep .cleaner hs
  | pageWalk => exact .agentStep .endWalk hs
  | migrationLineCopy => exact .agentStep .migrationLine hs
  | copyComplete => exact execCopyComplete_nextMemWf hs
  | copysComplete => unfold exec; exact .engineEvent (.engineRun (fun _ => .copysDone) fun _ => .pure) hs
  | putPlacement => unfold exec; exact .engineEvent (.engineRun (fun _ => .putDone) fun _ => .pure) hs
  | eapplyComplete => unfold exec; exact .engineEvent (.engineRun (fun _ => .applyDone) fun _ => .applicationEnds) hs
  | gmcastComplete => unfold exec; exact .engineEvent (.engineRun (fun _ => .gmcastDone) fun _ => .pure) hs
  | gredReduction => exact execGredReduction_nextMemWf hs
  | allocServe => unfold exec; exact .engineEvent (.engineRun (fun _ => .allocDone) fun _ => .pure) hs
  | freeEngine => unfold exec; exact .engineEvent (.engineRun (fun _ => .freeDone) fun _ => .pure) hs
  | tlbiComplete => unfold exec; exact .engineEvent (.engineRun (fun _ => .tlbiDone) fun _ => .pure) hs
  | bloadComplete => unfold exec; exact .engineEvent (.engineRun (fun _ => .bloadDone) fun _ => .pure) hs
  | commit => exact .agentStep .commitList hs
  | sequencerTake => exact execSequencerTake_nextMemWf hs
  | rowStep => exact .agentStep .rowStep hs
  | barrierWatchdog => exact .ite (.agentStep .breakBarrier hs) (.next hs)
  | launchBinding => exact .agentStep (.frontScope .launchBinding) hs
  | stageEnd => exact .agentStep .endStage hs
  | launchDone => exact .agentStep (.frontScope .launchDone) hs
  | queueEntryTake => exact .ite (.next hs) (.agentStep .takeFirst hs)
  | launchCommand | waitCommand | signalCommand | copyCommand | nopCommand => exact commandEvent_nextMemWf hs
  | queueWaitMet => exact .agentStep .waitMet hs
  | gangStopSaveDone => exact .agentStep (.frontScope .saveDone) hs
  | recallDeadline => exact execRecallDeadline_nextMemWf hs
  | revocationComplete => exact .ite (.agentStep (.whole .endRevocation) hs) (.next hs)
  | linkTrainingDone => exact .agentStep .trained hs
  | laneLost => exact .agentStep .loseLane hs
  | linkFailure => exact .agentStep .failLink hs
  | linkRequest => exact execLinkRequest_nextMemWf hs
  | linkResponse => exact .agentStep .response hs
  | linkTimeout => exact .agentStep .timeout hs
  | packageReset => exact .agentStep .resetPackage hs
  | functionReady => exact .agentStep .riseBit hs
  | thermalTrip => exact .agentStep .trip hs
  | spdmRequest => exact .agentStep .spdm hs
  | _ => exact .perform (len := 4) rfl hs

/-! ## The default choice -/

/-- A move that is what a row of the instruction table means. -/
def Move.IsExec (m : Move) : Prop := ∃ i, m.2 = exec i

theorem isExec_reqEvent (d k : Nat) (q : ReqKind) : Move.IsExec (d, reqEvent k q) := by
  cases q with
  | fillu => exact ⟨.fillu k, rfl⟩
  | fills => exact ⟨.fills k, rfl⟩
  | upg => exact ⟨.upg k, rfl⟩
  | getm => exact ⟨.getm k, rfl⟩
  | ext => exact ⟨.ext k, rfl⟩
  | regw => exact ⟨.regw k, rfl⟩
  | rdh => exact ⟨.rdh k, rfl⟩
  | wrh => exact ⟨.wrh k, rfl⟩
  | atom => exact ⟨.atom k, rfl⟩
  | wbs => exact ⟨.wbs k, rfl⟩
  | wbo => exact ⟨.wbo k, rfl⟩
  | dereg => exact ⟨.dereg k, rfl⟩
  | leave => exact ⟨.leave k, rfl⟩

theorem isExec_engineEnd (d : Nat) (e : Engine) : Move.IsExec (d, engineEnd e) := by
  unfold engineEnd
  split
  · exact ⟨.copyComplete e.id, rfl⟩
  · exact ⟨.copyComplete e.id, rfl⟩
  · exact ⟨.copysComplete e.id, rfl⟩
  · exact ⟨.putPlacement e.id, rfl⟩
  · exact ⟨.bloadComplete e.id, rfl⟩
  · exact ⟨.eapplyComplete e.id, rfl⟩
  · exact ⟨.gmcastComplete e.id, rfl⟩
  · next die group _ => exact ⟨.gredReduction (BitVec.ofNat 2 die) (BitVec.ofNat 8 group), rfl⟩
  · exact ⟨.allocServe e.id, rfl⟩
  · exact ⟨.freeEngine e.id, rfl⟩
  · exact ⟨.tlbiComplete e.id, rfl⟩

theorem isExec_commandMove (d kind : Nat) (die : BitVec 2) : Move.IsExec (d, commandMove kind die) := by
  unfold commandMove
  split
  · exact ⟨.launchCommand die, rfl⟩
  · exact ⟨.waitCommand die, rfl⟩
  · exact ⟨.signalCommand die, rfl⟩
  · exact ⟨.copyCommand die, rfl⟩
  · exact ⟨.nopCommand die, rfl⟩

theorem isExec_of_mem_coreMoves {s : State} : ∀ m ∈ coreMoves s, m.IsExec := by
  simp only [coreMoves, List.forall_mem_append, List.forall_mem_map]
  refine ⟨⟨⟨⟨⟨⟨⟨?_, ?_⟩, ?_⟩, ?_⟩, ?_⟩, ?_⟩, ?_⟩, ?_⟩
  · exact fun t _ => ⟨.resultWriteback t.1, rfl⟩
  · exact fun k _ => ⟨.messageArrival k, rfl⟩
  · exact fun k _ => ⟨.systemMessageDelivery k, rfl⟩
  · exact fun c _ => ⟨.activationBind c.1, rfl⟩
  · exact fun r _ => isExec_reqEvent _ _ _
  · exact fun k _ => ⟨.l1Invalidation k, rfl⟩
  · exact fun k _ => ⟨.homeAcknowledgement k, rfl⟩
  · exact fun k _ => ⟨.pageWalk k, rfl⟩

theorem isExec_of_mem_engineMoves {s : State} : ∀ m ∈ engineMoves s, m.IsExec := by
  simp only [engineMoves, List.forall_mem_append, List.forall_mem_map, List.forall_mem_flatMap]
  refine ⟨⟨fun e _ => isExec_engineEnd _ e, fun d _ => ⟨⟨⟨?_, ?_⟩, ?_⟩, ?_⟩⟩, fun c _ => ?_⟩
  · exact fun g _ => ⟨.gredReduction (BitVec.ofNat 2 d.1) (BitVec.ofNat 8 g.1), rfl⟩
  · exact fun k _ => ⟨.commit (BitVec.ofNat 2 d.1) k, rfl⟩
  · exact fun b _ => ⟨.barrierWatchdog (BitVec.ofNat 2 d.1) (BitVec.ofNat 9 b.1), rfl⟩
  · split
    · exact List.forall_mem_singleton.2 ⟨.migrationLineCopy (BitVec.ofNat 2 d.1), rfl⟩
    · exact List.forall_mem_nil _
  · split
    · exact List.forall_mem_nil _
    · split
      · exact List.forall_mem_singleton.2 ⟨.sequencerTake c.1, rfl⟩
      · exact List.forall_mem_singleton.2 ⟨.rowStep c.1, rfl⟩
      · exact List.forall_mem_nil _

theorem isExec_of_mem_frontMoves {s : State} : ∀ m ∈ frontMoves s, m.IsExec := by
  simp only [frontMoves, List.forall_mem_append, List.forall_mem_map, List.forall_mem_flatMap]
  refine ⟨⟨fun l _ => ?_, fun d _ => ⟨?_, fun q _ => ?_⟩⟩, ?_⟩
  · have hbind : Move.IsExec (l.2.die, execLaunchBinding l.1) := ⟨.launchBinding l.1, rfl⟩
    have hends : ∀ m ∈ (indexes l.2.stages).map (fun i => (l.2.die, execStageEnd l.1 i)) ++
        [(l.2.die, execLaunchDone l.1)], Move.IsExec m := by
      simp only [List.forall_mem_append, List.forall_mem_map, List.forall_mem_singleton]
      exact ⟨fun i _ => ⟨.stageEnd l.1 i, rfl⟩, ⟨.launchDone l.1, rfl⟩⟩
    split
    · exact List.forall_mem_singleton.2 hbind
    · exact List.forall_mem_singleton.2 hbind
    · exact List.forall_mem_singleton.2 hbind
    · exact hends
    · exact hends
    · exact List.forall_mem_nil _
  · split
    · exact List.forall_mem_nil _
    · exact List.forall_mem_singleton.2 ⟨.queueEntryTake (BitVec.ofNat 2 d.1), rfl⟩
  · split
    · exact List.forall_mem_singleton.2 (isExec_commandMove _ _ _)
    · exact List.forall_mem_singleton.2 ⟨.queueWaitMet (BitVec.ofNat 2 d.1) q.1, rfl⟩
    · exact List.forall_mem_nil _
  · exact fun x _ => ⟨.gangStopSaveDone (BitVec.ofNat 16 x.1), rfl⟩

theorem isExec_of_mem_unitMoves {s : State} : ∀ m ∈ unitMoves s, m.IsExec := by
  simp only [unitMoves, List.forall_mem_append, List.forall_mem_map, List.forall_mem_flatMap]
  refine ⟨⟨⟨fun r _ => ?_, ?_⟩, ?_⟩, ?_⟩
  · split
    · split
      · exact List.forall_mem_singleton.2 ⟨.recallDeadline (BitVec.ofNat 24 r.1), rfl⟩
      · exact List.forall_mem_nil _
    · exact List.forall_mem_singleton.2 ⟨.revocationComplete (BitVec.ofNat 24 r.1), rfl⟩
    · exact List.forall_mem_nil _
  · exact fun w _ => ⟨.linkTimeout w.id, rfl⟩
  · exact fun l _ => ⟨.linkTrainingDone l 8, rfl⟩
  · exact fun f _ => ⟨.functionReady f, rfl⟩

theorem isExec_of_mem_waitingMoves {s : State} {m : Move} (hm : m ∈ waitingMoves s) : m.IsExec := by
  have h : ∀ m ∈ coreMoves s ++ engineMoves s ++ frontMoves s ++ unitMoves s, m.IsExec := by
    simp only [List.forall_mem_append]
    exact ⟨⟨⟨isExec_of_mem_coreMoves, isExec_of_mem_engineMoves⟩, isExec_of_mem_frontMoves⟩, isExec_of_mem_unitMoves⟩
  exact h m (List.mem_filter.1 hm).1

theorem eq_or_eq_of_orElse {α : Type} {o : Option α} {f : Unit → Option α} {a : α} (h : o.orElse f = some a) :
    o = some a ∨ f () = some a := by
  cases o with
  | none => exact .inr h
  | some b => exact .inl h

/-- The default choice, where it is a move, is a waiting one. -/
theorem exists_exec_of_choice {s : State} {f : State → Host.Outcome State Fault Refusal}
    (h : choice s = some (.move f)) : ∃ i, f = exec i := by
  have hthread : (issuers s)[s.run.clock / 2 % (issuers s).length]?.map Choice.thread ≠ some (.move f) := by simp
  have hmove : ((waitingMoves s)[s.run.clock / 2 % (waitingMoves s).length]?.map fun m => Choice.move m.2) =
      some (.move f) := by
    unfold choice at h
    split at h
    · exact (eq_or_eq_of_orElse h).resolve_right hthread
    · exact (eq_or_eq_of_orElse h).resolve_left hthread
  obtain ⟨m, hm, hf⟩ := Option.map_eq_some_iff.1 hmove
  cases hf
  exact isExec_of_mem_waitingMoves (List.mem_of_getElem? hm)

/-! ## The step -/

theorem settleAligns_mem (s : State) : (settleAligns s).mem = s.mem := by
  unfold settleAligns
  split <;> rfl

theorem State.settled_memWf {s : State} (hs : MemWf s) : MemWf s.settled := by
  have ha : MemWf (settleAligns s.ticked) := by
    unfold MemWf
    rw [settleAligns_mem]
    exact hs
  unfold State.settled
  dsimp only
  split
  · exact ha
  · split
    · next h => exact KeepsMem.settleErrors.keeps.ok ha h
    · next h => exact KeepsMem.settleErrors.keeps.error ha h

theorem State.mismatchDone_mem (s : State) (k : Nat) : (s.mismatchDone k).mem = s.mem := by
  unfold State.mismatchDone
  split <;> rfl

section
variable {s : State} {k : Nat}

theorem checkerTrap_nextMemWf {i : Instr} {unit lane : Nat} (hs : MemWf s) :
    NextMemWf (checkerTrap k i unit lane s) := by
  have hcount : KeepsMem (do
      modify fun s => s.mismatchDone k
      modDieRegs (dieOf (k / 8)) fun r => { r with errpipe := satInc64 r.errpipe }) :=
    .bind (.modify_of_mem fun s => s.mismatchDone_mem k) fun _ => .modDieRegs
  exact .ite (.agentStep (.bind hcount fun _ => .killCore) hs)
    (.finish (.bind .checkedInstr fun _ => .bind hcount fun _ => .throw) hs)

theorem issue_nextMemWf (hs : MemWf s) : NextMemWf (issue k s) := by
  have hfocus : MemWf (s.focus k) := hs
  have hrotated : MemWf ((s.focus k).rotated k) := hs
  refine .ite .fault (.ite (.next hfocus) (.ite (.agentStep .takeInterrupt hrotated) ?_))
  split
  · exact .held (exec_nextMemWf hrotated)
  · split
    · next h => exact .finish .throw (KeepsMem.fetchDecode.keeps.error hrotated h)
    · next t h =>
      have ht : MemWf t := KeepsMem.fetchDecode.keeps.ok hrotated h
      split
      · exact checkerTrap_nextMemWf ht
      · exact .held (exec_nextMemWf ht)

theorem act_nextMemWf {a : Act} (hs : MemWf s) : NextMemWf (act a s) := by
  cases a with
  | issue k => exact issue_nextMemWf hs
  | upset u => exact .agentStep .applyUpset hs
  | event i => exact .ite (exec_nextMemWf hs) (.next hs)

theorem step_nextMemWf (hs : MemWf s) : NextMemWf (step s) := by
  have hsettled : MemWf s.settled := State.settled_memWf hs
  unfold step
  dsimp only
  split
  · exact act_nextMemWf hsettled
  · split
    · next f h =>
      obtain ⟨i, rfl⟩ := exists_exec_of_choice h
      exact exec_nextMemWf hsettled
    · exact issue_nextMemWf hsettled
    · exact .next hsettled

end

/-- Settles O58: everything the machine does is put together from meanings that keep the canonical form of memory. -/
theorem stepKeepsMemoryCanonical : Obligations.StepKeepsMemoryCanonical := by
  unfold Obligations.StepKeepsMemoryCanonical
  exact fun s t hs e => step_nextMemWf hs t e

end Sys2Proof.Machine
end
